-- ==== Sys2Proof/Word.lean ====
section
/-! DEFINITION. Word.lean: the bit-vector widths the spec's wire formats use (11_wire_formats.md, sections 11.1 and 11.2). -/

namespace Sys2Proof

/-- One byte of a frame, a parameter block or a reply (chapter 11). -/
abbrev Byte := BitVec 8

/-- A 24-bit Unit ID (section 11.2: three bytes). -/
abbrev UnitId := BitVec 24

/-- A 16-bit warning stamp (R120), wrapping from 65535 to 0. -/
abbrev Stamp := BitVec 16

/-- A set of the nine warning classes; bit n stands for class n (section 11.2). -/
abbrev ClassBits := BitVec 9

end Sys2Proof
end

