-- ==== Sys2Proof/Syntax.lean ====
section
/-! DEFINITION. Syntax.lean: the 78 rows of spec/opcode_table.json, one constructor each.

A row that stands for an SPI command carries the command's parameters as they come off the wire (section 11.4), so that a value
out of range can be carried and refused. A row that stands for an event names its subject (a port, a line, an entry, a position)
by a number that cannot be out of range. The operands are the model's reading of the spec's chapters: the table itself lists no
fields (assumption log 1 and 8). -/

namespace Sys2Proof

/-- The profile fields of SET_PROFILE as carried (section 11.6): codes, hysteresis, shift, confirmations, jump. -/
structure RawProfile where
  vl : Byte
  vc : Byte
  ve : Byte
  h  : BitVec 16
  k  : Byte
  nd : Byte
  nu : Byte
  j  : BitVec 16
  deriving DecidableEq, Repr

/-- The twelve bytes of a line configuration as STAGE_LINE carries them (section 11.7). -/
structure RawLineConfig where
  source      : Byte
  sourceIndex : Byte
  scope       : Byte
  scopeIndex  : Byte
  classSet    : BitVec 16
  noted       : Byte
  display     : Byte
  polarity    : Byte
  holdCount   : Byte
  holdUnit    : Byte
  sense       : Byte
  deriving DecidableEq, Repr

/-- One row of the table of operations and events. -/
inductive Instr where
  -- device reset
  | deviceReset
  | resetEnd
  -- antenna ports: the line
  | frameComplete (p : Fin 4) (b : Byte)
  | stopBitMissing (p : Fin 4)
  | byteGapTimeout (p : Fin 4)
  | frameGapReject (p : Fin 4)
  | answerSent (p : Fin 4)
  | resyncIdle (p : Fin 4)
  -- antenna ports: the timers
  | warmUpEnd (p : Fin 4)
  | portSilenceExpiry (p : Fin 4)
  -- sighting combiner
  | frameTake
  | strangerAgeExpiry (i : Fin 8)
  | poolWindowExpiry (i : Fin 12)
  -- roster and evaluators
  | entryFading (n : Fin 200)
  | entryLost (n : Fin 200)
  | sweepVisit
  -- floor arbiter
  | silentExpiry (k : Fin 6)
  | hotDelayReached (n : Fin 200)
  | silenceInputChange (high : Bool)
  | silenceDebounceExpiry
  -- indicator lines
  | blinkBoundary
  | holdExpiry (m : Fin 16)
  | senseInputChange (m : Fin 16) (high : Bool)
  | lampFaultDetected (m : Fin 16)
  | lampFaultCleared (m : Fin 16)
  -- command port: the wire
  | csNFall
  | csNRise
  | waitingCommandStart
  | commandRefusedBusy (b : Byte)
  -- roster commands
  | enrol (unit : UnitId) (seat group profile : Byte)
  | enrolStranger (position seat group profile : Byte)
  | retire (entry : Byte)
  | findUnit (unit : UnitId)
  | findSeat (seat : Byte)
  | readEntry (entry : Byte)
  | amendEntry (entry seat group profile : Byte)
  -- floor commands
  | grantFloor (entry : Byte)
  | revokeFloor (entry : Byte)
  | setFloorCapacity (capacity : Byte)
  | mute (entry : Byte)
  | unmute (entry : Byte)
  | muteAll
  | unmuteAll
  | setChair (entry : Byte)
  -- warning commands
  | readAttention (position : Byte)
  | acknowledge (kind index cls : Byte) (stamp : Stamp)
  | ackListed
  -- intake commands
  | readStrangers
  | readPort (port : Byte)
  | enablePortOn (port : Byte)
  | enablePortOff (port value : Byte)
  -- configuration commands
  | setProfile (profile : Byte) (fields : RawProfile)
  | readProfile (profile : Byte)
  | setPortSilenceTime (value : BitVec 32)
  | setCombiningWindow (value : BitVec 32)
  | setLostTime (value : BitVec 32)
  | setSignalFloor (value : BitVec 32)
  | setSmoothingShift (value : BitVec 32)
  | setWeakThreshold (value : BitVec 32)
  | setPoorThreshold (value : BitVec 32)
  | setSilentTime (value : BitVec 32)
  | setAutoRevoke (value : BitVec 32)
  | setHotDelay (value : BitVec 32)
  | setPriorityFunction (value : BitVec 32)
  | setPendingType (item : Byte) (value : BitVec 32)
  | setIrqMask (value : BitVec 32)
  | readTuning (item : Byte)
  -- line commands
  | stageLine (line : Byte) (config : RawLineConfig)
  | applyLines
  | readLine (line : Byte)
  -- mode and status commands
  | setModeRecess (value : Byte)
  | setModeSession
  | setModeDormant
  | readStatus
  | chamberReset
  | unknownCommand (code : Byte)
  -- bytes on the two kinds of wire
  | characterComplete (p : Fin 4) (b : Byte)
  | byteComplete (b : Byte)
  deriving DecidableEq, Repr

end Sys2Proof
end

