-- ==== Sys2Proof/Decode.lean ====
section
/-! DEFINITION. Decode.lean: the words the table gives bits (none), and the command codes and parameter layouts of the
command port (11_wire_formats.md, sections 11.4, 11.6 and 11.7), total on any bytes. -/

namespace Sys2Proof

/-- The rows of spec/opcode_table.json carry no bits, so no word spells one of them (assumption log 22). -/
def decodeTableWord (_nbits _w : Nat) : Option Instr := none

/-- Parameter lengths and reply-data lengths of the command codes (section 11.4); `none` for an unknown code. -/
def commandInfo (code : Byte) : Option (Nat × Nat) :=
  match code.toNat with
  | 0x10 => some (6, 1)
  | 0x11 => some (4, 4)
  | 0x12 => some (1, 0)
  | 0x13 => some (3, 1)
  | 0x14 => some (1, 1)
  | 0x15 => some (1, 57)
  | 0x16 => some (4, 0)
  | 0x20 => some (1, 1)
  | 0x21 => some (1, 0)
  | 0x22 => some (1, 1)
  | 0x23 => some (1, 0)
  | 0x24 => some (1, 0)
  | 0x25 => some (0, 0)
  | 0x26 => some (0, 0)
  | 0x27 => some (1, 0)
  | 0x30 => some (1, 9)
  | 0x31 => some (5, 0)
  | 0x32 => some (0, 1)
  | 0x40 => some (0, 64)
  | 0x41 => some (1, 8)
  | 0x42 => some (2, 0)
  | 0x50 => some (11, 0)
  | 0x51 => some (1, 10)
  | 0x52 => some (5, 4)
  | 0x53 => some (1, 4)
  | 0x60 => some (13, 0)
  | 0x61 => some (0, 0)
  | 0x62 => some (1, 32)
  | 0x70 => some (1, 0)
  | 0x71 => some (0, 12)
  | 0x72 => some (0, 0)
  | _ => none

/-- A code is known when section 11.4 lists it; every other code is answered by R170. -/
def knownCode (code : Byte) : Bool := (commandInfo code).isSome

/-- How many parameter bytes the port collects after a code (R167; none for an unknown code, R170). -/
def paramLength (code : Byte) : Nat := ((commandInfo code).map (·.1)).getD 0

/-- How many bytes of reply data follow the status (section 11.4; none for an unknown code, R170). -/
def replyLength (code : Byte) : Nat := ((commandInfo code).map (·.2)).getD 0

/-- Parameter byte i (0 where the list is shorter, which the port's collecting rules out). -/
def paramByte (ps : List Byte) (i : Nat) : Byte := ps.getD i 0

/-- Two bytes, most significant first. -/
def paramWord (ps : List Byte) (i : Nat) : BitVec 16 := paramByte ps i ++ paramByte ps (i + 1)

/-- A Unit ID, most significant byte first. -/
def paramUnit (ps : List Byte) (i : Nat) : UnitId :=
  (paramByte ps i ++ paramByte ps (i + 1) ++ paramByte ps (i + 2) : BitVec (8 + 8 + 8))

/-- A four-byte tuning value, most significant byte first (R179). -/
def paramValue (ps : List Byte) (i : Nat) : BitVec 32 :=
  (paramByte ps i ++ paramByte ps (i + 1) ++ paramByte ps (i + 2) ++ paramByte ps (i + 3) : BitVec (8 + 8 + 8 + 8))

/-- The profile fields of section 11.6 at offset 1 of SET_PROFILE's parameters. -/
def paramProfile (ps : List Byte) : RawProfile where
  vl := paramByte ps 1
  vc := paramByte ps 2
  ve := paramByte ps 3
  h  := paramWord ps 4
  k  := paramByte ps 6
  nd := paramByte ps 7
  nu := paramByte ps 8
  j  := paramWord ps 9

/-- The line configuration of section 11.7 at offset 1 of STAGE_LINE's parameters. -/
def paramLineConfig (ps : List Byte) : RawLineConfig where
  source      := paramByte ps 1
  sourceIndex := paramByte ps 2
  scope       := paramByte ps 3
  scopeIndex  := paramByte ps 4
  classSet    := paramWord ps 5
  noted       := paramByte ps 7
  display     := paramByte ps 8
  polarity    := paramByte ps 9
  holdCount   := paramByte ps 10
  holdUnit    := paramByte ps 11
  sense       := paramByte ps 12

/-- The row of a SET_TUNING by its item number (section 11.8). A number that names none of the eighteen items goes to the
row that carries the item number, which refuses it (R172, R179; assumption log 8). -/
def tuningRow (item : Byte) (v : BitVec 32) : Instr :=
  match item.toNat with
  | 1 => .setPortSilenceTime v
  | 2 => .setCombiningWindow v
  | 3 => .setLostTime v
  | 4 => .setSignalFloor v
  | 5 => .setSmoothingShift v
  | 6 => .setWeakThreshold v
  | 7 => .setPoorThreshold v
  | 8 => .setSilentTime v
  | 9 => .setAutoRevoke v
  | 10 => .setHotDelay v
  | 11 => .setPriorityFunction v
  | 18 => .setIrqMask v
  | _ => .setPendingType item v

/-- The row of a SET_MODE by its value (section 11.2); a value that encodes no mode is carried by SET_MODE_RECESS, which
wakes the part and then refuses it (R158; assumption log 8). -/
def modeRow (v : Byte) : Instr :=
  match v.toNat with
  | 1 => .setModeSession
  | 2 => .setModeDormant
  | _ => .setModeRecess v

/-- The row of an ENABLE_PORT by its value (section 11.2); a value other than 0 and 1 is carried by ENABLE_PORT_OFF, which
refuses it (R178; assumption log 8). -/
def enableRow (p v : Byte) : Instr :=
  match v.toNat with
  | 1 => .enablePortOn p
  | _ => .enablePortOff p v

/-- The row that a command code and its parameter bytes name (section 11.4), total on any bytes. -/
def rowOf (code : Byte) (ps : List Byte) : Instr :=
  match code.toNat with
  | 0x10 => .enrol (paramUnit ps 0) (paramByte ps 3) (paramByte ps 4) (paramByte ps 5)
  | 0x11 => .enrolStranger (paramByte ps 0) (paramByte ps 1) (paramByte ps 2) (paramByte ps 3)
  | 0x12 => .retire (paramByte ps 0)
  | 0x13 => .findUnit (paramUnit ps 0)
  | 0x14 => .findSeat (paramByte ps 0)
  | 0x15 => .readEntry (paramByte ps 0)
  | 0x16 => .amendEntry (paramByte ps 0) (paramByte ps 1) (paramByte ps 2) (paramByte ps 3)
  | 0x20 => .grantFloor (paramByte ps 0)
  | 0x21 => .revokeFloor (paramByte ps 0)
  | 0x22 => .setFloorCapacity (paramByte ps 0)
  | 0x23 => .mute (paramByte ps 0)
  | 0x24 => .unmute (paramByte ps 0)
  | 0x25 => .muteAll
  | 0x26 => .unmuteAll
  | 0x27 => .setChair (paramByte ps 0)
  | 0x30 => .readAttention (paramByte ps 0)
  | 0x31 => .acknowledge (paramByte ps 0) (paramByte ps 1) (paramByte ps 2) (paramWord ps 3)
  | 0x32 => .ackListed
  | 0x40 => .readStrangers
  | 0x41 => .readPort (paramByte ps 0)
  | 0x42 => enableRow (paramByte ps 0) (paramByte ps 1)
  | 0x50 => .setProfile (paramByte ps 0) (paramProfile ps)
  | 0x51 => .readProfile (paramByte ps 0)
  | 0x52 => tuningRow (paramByte ps 0) (paramValue ps 1)
  | 0x53 => .readTuning (paramByte ps 0)
  | 0x60 => .stageLine (paramByte ps 0) (paramLineConfig ps)
  | 0x61 => .applyLines
  | 0x62 => .readLine (paramByte ps 0)
  | 0x70 => modeRow (paramByte ps 0)
  | 0x71 => .readStatus
  | 0x72 => .chamberReset
  | _ => .unknownCommand code

/-- The bytes of a 16-bit field, most significant first. -/
def bytesOfWord (w : BitVec 16) : List Byte := [w.extractLsb' 8 8, w.extractLsb' 0 8]

/-- The bytes of a Unit ID, most significant first. -/
def bytesOfUnit (u : UnitId) : List Byte := [u.extractLsb' 16 8, u.extractLsb' 8 8, u.extractLsb' 0 8]

/-- The bytes of a tuning value, most significant first (R179). -/
def bytesOfValue (v : BitVec 32) : List Byte :=
  [v.extractLsb' 24 8, v.extractLsb' 16 8, v.extractLsb' 8 8, v.extractLsb' 0 8]

/-- The bytes of SET_PROFILE's fields (section 11.6). -/
def bytesOfProfile (r : RawProfile) : List Byte :=
  [r.vl, r.vc, r.ve] ++ bytesOfWord r.h ++ [r.k, r.nd, r.nu] ++ bytesOfWord r.j

/-- The bytes of a line configuration (section 11.7). -/
def bytesOfLineConfig (r : RawLineConfig) : List Byte :=
  [r.source, r.sourceIndex, r.scope, r.scopeIndex] ++ bytesOfWord r.classSet ++
    [r.noted, r.display, r.polarity, r.holdCount, r.holdUnit, r.sense]

/-- The command code and parameter bytes of a row that stands for an SPI command (section 11.4); `none` for an event. -/
def wireOf : Instr → Option (Byte × List Byte)
  | .enrol u s g p => some (0x10, bytesOfUnit u ++ [s, g, p])
  | .enrolStranger i s g p => some (0x11, [i, s, g, p])
  | .retire n => some (0x12, [n])
  | .findUnit u => some (0x13, bytesOfUnit u)
  | .findSeat s => some (0x14, [s])
  | .readEntry n => some (0x15, [n])
  | .amendEntry n s g p => some (0x16, [n, s, g, p])
  | .grantFloor n => some (0x20, [n])
  | .revokeFloor n => some (0x21, [n])
  | .setFloorCapacity c => some (0x22, [c])
  | .mute n => some (0x23, [n])
  | .unmute n => some (0x24, [n])
  | .muteAll => some (0x25, [])
  | .unmuteAll => some (0x26, [])
  | .setChair n => some (0x27, [n])
  | .readAttention i => some (0x30, [i])
  | .acknowledge k i c st => some (0x31, [k, i, c] ++ bytesOfWord st)
  | .ackListed => some (0x32, [])
  | .readStrangers => some (0x40, [])
  | .readPort p => some (0x41, [p])
  | .enablePortOn p => some (0x42, [p, 1])
  | .enablePortOff p v => some (0x42, [p, v])
  | .setProfile n r => some (0x50, n :: bytesOfProfile r)
  | .readProfile n => some (0x51, [n])
  | .setPortSilenceTime v => some (0x52, 1 :: bytesOfValue v)
  | .setCombiningWindow v => some (0x52, 2 :: bytesOfValue v)
  | .setLostTime v => some (0x52, 3 :: bytesOfValue v)
  | .setSignalFloor v => some (0x52, 4 :: bytesOfValue v)
  | .setSmoothingShift v => some (0x52, 5 :: bytesOfValue v)
  | .setWeakThreshold v => some (0x52, 6 :: bytesOfValue v)
  | .setPoorThreshold v => some (0x52, 7 :: bytesOfValue v)
  | .setSilentTime v => some (0x52, 8 :: bytesOfValue v)
  | .setAutoRevoke v => some (0x52, 9 :: bytesOfValue v)
  | .setHotDelay v => some (0x52, 10 :: bytesOfValue v)
  | .setPriorityFunction v => some (0x52, 11 :: bytesOfValue v)
  | .setPendingType i v => some (0x52, i :: bytesOfValue v)
  | .setIrqMask v => some (0x52, 18 :: bytesOfValue v)
  | .readTuning i => some (0x53, [i])
  | .stageLine m r => some (0x60, m :: bytesOfLineConfig r)
  | .applyLines => some (0x61, [])
  | .readLine m => some (0x62, [m])
  | .setModeRecess v => some (0x70, [v])
  | .setModeSession => some (0x70, [1])
  | .setModeDormant => some (0x70, [2])
  | .readStatus => some (0x71, [])
  | .chamberReset => some (0x72, [])
  | .unknownCommand c => some (c, [])
  | _ => none

end Sys2Proof
end

