-- ==== Sys2Proof/Config.lean ====
section
/-! DEFINITION. Config.lean: the fixed values of the part, and the two free values: which of several orders the spec leaves
open is taken, and which of two rules that contradict each other the part follows. -/

namespace Sys2Proof.Config

/-- FREE VALUE (assumption log 4). The spec leaves the order of some things open ("no order among them is stated", "either order may
occur"): a number nothing constrains decides each such order, indexed by the model's own choice counter. -/
opaque freeChoice : Nat → Nat

/-- FREE VALUE (assumption log 24). When the only receiving port is disabled, R13 has the open pool entries close on their windows
alone, and R32 has each of them covered and closed at once. The spec sets neither rule aside, so nothing constrains which of the two
the part does: true for R13's words, false for R32's. -/
opaque lastPortLeavesWindows : Bool

/-- The warm-up time of a port, fixed (R9). -/
def warmUpTime : Nat := 2000

/-- Where the silence timers of ports and the ages of entries saturate (R8, R50). -/
def timerTop : Nat := 65535

/-- The age at which a stranger record is removed (R22). -/
def strangerLife : Nat := 10000

/-- The frames an inbox holds at most (R6). -/
def inboxSize : Nat := 2

/-- The bytes of an antenna frame (section 11.1). -/
def frameLength : Nat := 10

/-- The rise hysteresis of the signal evaluator, fixed (section 5.1). -/
def riseHysteresis : Int := 3

/-- Where the hot-mic timer stops (R106). -/
def hotTop : Nat := 5000

/-- The debounce time of SILENCE_N (R110). -/
def debounceTime : Nat := 20

/-- The lamp sense time (R151). -/
def senseTime : Nat := 50

/-- The places of the attention list (R123). -/
def attentionSize : Nat := 32

/-- The cycle of the blink phase and the distance of its boundaries (R144). -/
def blinkCycle : Nat := 1000
def blinkStep : Nat := 125

/-- The marker byte that opens a reply (R167). -/
def readyMarker : Byte := 0xA5

/-- Identification (R174). -/
def vendorCode : Byte := 0x4D
def partCode : BitVec 16 := 0x0416
def revision : Byte := 0x01

end Sys2Proof.Config
end

