-- ==== Sys2Proof/Machine/State.lean ====
section
/-! DEFINITION. Machine/State.lean: every piece of state the spec gives the MLG-416, block by block, as plain data, with the
stops and the state after reset. The few fields that are the MODEL's own are said so and named in the assumption log. -/

namespace Sys2Proof.Machine

/-- The part stops with no fault: the spec gives every event and every command a next state (a command out of range is answered,
an event that is not due does not occur). No constructor, so nothing raises one. -/
inductive Fault where
  deriving DecidableEq, Repr

/-- Reasons to refuse. -/
inductive Refusal where
  /-- Raised only by an arm of exec whose row has no meaning yet: there is none. Safe: it allows no behaviour. -/
  | notModelled (mnemonic : String)
  deriving DecidableEq, Repr

/-! ### Chamber mode and statuses -/

/-- The chamber mode (R156). -/
inductive Mode where
  | recess | session | dormant
  deriving DecidableEq, Repr

/-- The status codes (sections 10.4 and 11.3). -/
inductive Status where
  | ok | adjusted | noEntry | duplicateUnit | seatTaken | rosterFull | floorFull | noFloor | held | notInSession | isChair
  | occupied | busy | stale | notPending | badArg | unknownCommand
  deriving DecidableEq, Repr

/-- A reply: the status byte and the reply data (R167, R171). -/
structure Reply where
  status : Status
  data   : List Byte
  deriving DecidableEq, Repr

/-! ### Antenna ports (chapter 1) -/

/-- Port state (R8 to R10). -/
inductive PortState where
  | off | warming | up | silent
  deriving DecidableEq, Repr

/-- Receiver state (R1). -/
inductive RxState where
  | listening | receiving | answering | resync
  deriving DecidableEq, Repr

/-- The four answer bytes (section 1.2). -/
inductive Answer where
  | taken | hold | reject | wake
  deriving DecidableEq, Repr

/-- An accepted frame in an inbox, with its warming mark (R4, R6). -/
structure InboxFrame where
  bytes   : List Byte
  warming : Bool
  deriving DecidableEq, Repr

/-- One antenna port. -/
structure AntennaPort where
  enabled    : Bool
  state      : PortState
  rx         : RxState
  /-- The bytes of the frame being received, 0 to 9 of them. -/
  frame      : List Byte
  /-- A frame went wrong and its REJECT waits for the frame gap (R2). -/
  rejectOwed : Bool
  /-- The answer byte the port is driving onto its line, if it is (R1). -/
  answer     : Option Answer
  warmUp     : Nat
  silence    : Nat
  inbox      : List InboxFrame
  congested  : Bool
  deriving DecidableEq, Repr

/-! ### Sighting combiner (chapter 2) -/

/-- The payload of a sighting: cell code, switch, interval, farewell (section 2.6). -/
structure Payload where
  cell       : Nat
  switchOpen : Bool
  fast       : Bool
  farewell   : Bool
  deriving DecidableEq, Repr

/-- The strength S that one port heard, with its warming mark (section 2.6). -/
structure PortStrength where
  s       : Int
  warming : Bool
  deriving DecidableEq, Repr

/-- Per-port strengths: absent, or S with its mark. -/
abbrev Strengths := Vector (Option PortStrength) 4

/-- An open pool entry (section 2.6). Its heard-by set is the set of ports whose strength is present. -/
structure PoolEntry where
  entry     : Fin 200
  beacon    : Byte
  window    : Nat
  strengths : Strengths
  best      : Int
  payload   : Payload
  disagree  : Bool
  deriving DecidableEq, Repr

/-- A stranger record (section 2.4). -/
structure Stranger where
  unit     : UnitId
  strength : Int
  port     : Fin 4
  age      : Nat
  heard    : Nat
  deriving DecidableEq, Repr

/-- The combiner: the port the rotation's count begins at (R18), the pool and the stranger table. -/
structure Combiner where
  nextPort  : Fin 4
  pool      : Vector (Option PoolEntry) 12
  strangers : Vector (Option Stranger) 8
  deriving DecidableEq, Repr

/-! ### Unit roster, battery and signal fields (chapters 3 to 5) -/

/-- Presence (section 3.7). -/
inductive Presence where
  | awaited | live | fading | lost | off
  deriving DecidableEq, Repr

/-- The talk switch of an entry (section 3.1). -/
inductive Switch where
  | unknown | opened | closed
  deriving DecidableEq, Repr

/-- The expected interval: 100 ms (FAST) or 500 ms (SLOW) (R48). -/
inductive BeaconInterval where
  | fast | slow
  deriving DecidableEq, Repr

/-- Battery levels (section 4.3). -/
inductive BattLevel where
  | unknown | ok | low | critical | exhausted
  deriving DecidableEq, Repr

/-- Signal levels (section 5.2). -/
inductive SigLevel where
  | unknown | good | weak | poor
  deriving DecidableEq, Repr

/-- A pending candidate: a level and its count (R73). -/
structure Candidate where
  level : BattLevel
  count : Nat
  deriving DecidableEq, Repr

/-- The battery fields of an entry (section 4.3). -/
structure Battery where
  profile  : Fin 4
  lastCell : Option Nat
  /-- The filtered voltage F in mV. -/
  filtered : Option Nat
  level    : BattLevel
  pending  : Option Candidate
  deriving DecidableEq, Repr

/-- The signal fields of an entry (section 5.2). -/
structure Signal where
  /-- The smoothed margin Q in dB. -/
  margin  : Option Int
  level   : SigLevel
  serving : Option (Fin 4)
  deriving DecidableEq, Repr

/-- A running hot-mic timer: elapsed time, and whether it has made HOT_MIC true (R106). -/
structure HotTimer where
  elapsed : Nat
  reached : Bool
  deriving DecidableEq, Repr

/-- A roster entry (section 3.1). Its floor place is read off the floor collections, its unit-class warnings off the engine. -/
structure Entry where
  unit       : UnitId
  seat       : Nat
  group      : Fin 8
  presence   : Presence
  age        : Nat
  interval   : Option BeaconInterval
  lastBeacon : Option Byte
  switch     : Switch
  disagree   : Bool
  strengths  : Strengths
  battery    : Battery
  signal     : Signal
  /-- The chair-muted flag (R98). -/
  muted      : Bool
  /-- The hot-mic timer, `none` when stopped (R106). -/
  hot        : Option HotTimer
  deriving DecidableEq, Repr

/-- A battery profile (section 4.2): three level codes, hysteresis, filter shift, confirmations, replacement jump. -/
structure Profile where
  vl : Nat
  vc : Nat
  ve : Nat
  h  : Nat
  k  : Nat
  nd : Nat
  nu : Nat
  j  : Nat
  deriving DecidableEq, Repr

/-- A running profile sweep: the profile swept and the slot it will visit next (section 4.8). -/
structure Sweep where
  profile  : Fin 4
  position : Fin 200
  deriving DecidableEq, Repr

/-! ### Floor arbiter (chapter 6) -/

/-- An occupied live slot: its holder, its silent timer, whether the holder was speaking when speaking was last derived (R100), and
whether the holder's SILENT_FLOOR condition is true (R104). -/
structure LiveSlot where
  holder   : Fin 200
  timer    : Nat
  speaking : Bool
  expired  : Bool
  deriving DecidableEq, Repr

/-- The priority cause (section 6.8). -/
inductive Cause where
  | none | chair | silence
  deriving DecidableEq, Repr

/-- The floor arbiter's own state. -/
structure Floor where
  capacity  : Nat
  live      : Vector (Option LiveSlot) 6
  held      : Vector (Option (Fin 200)) 6
  chair     : Option (Fin 200)
  cause     : Cause
  /-- The debounced level of SILENCE_N: true for ASSERTED (R110). -/
  asserted  : Bool
  stability : Nat
  /-- The level of the SILENCE_N pin: true for high (key not pressed). -/
  pinHigh   : Bool
  deriving DecidableEq, Repr

/-! ### Warning engine (chapter 7) -/

/-- The nine warning classes, in class order (R117). -/
inductive WClass where
  | sigLost | battCritical | receiverSilent | sigWeak | hotMic | battLow | silentFloor | lampFault | stranger
  deriving DecidableEq, Repr

/-- The subjects of warnings, in subject order (R117). -/
inductive Subject where
  | chamber
  | port (p : Fin 4)
  | line (m : Fin 16)
  | entry (n : Fin 200)
  deriving DecidableEq, Repr

/-- The name of a warning: its subject and its class. -/
structure WarnId where
  subject : Subject
  cls     : WClass
  deriving DecidableEq, Repr

/-- The states of a warning that is not QUIET (R117). -/
inductive ActiveState where
  | raised | noted | standing
  deriving DecidableEq, Repr

/-- A warning that is not QUIET: its name, state and stamp. -/
structure WarnRecord where
  id    : WarnId
  state : ActiveState
  stamp : Stamp
  deriving DecidableEq, Repr

/-- LATCHED or SELF_CLEARING (section 7.3). -/
inductive PendingType where
  | latched | selfClearing
  deriving DecidableEq, Repr

/-- The pending types of the six configurable classes (R122). -/
structure PendingTypes where
  sigLost        : PendingType
  battCritical   : PendingType
  receiverSilent : PendingType
  sigWeak        : PendingType
  hotMic         : PendingType
  battLow        : PendingType
  deriving DecidableEq, Repr

/-- The blocks that report to the engine; reports of one block keep their order, reports of different blocks need not (R118). -/
inductive Block where
  | ports | combiner | roster | battery | signal | floor | engine | lines
  deriving DecidableEq, Repr

/-- What the engine can be handed: a report of a condition (R118); the battery evaluator's one report of two conditions (R74); the
quieting at a replacement of cells (R70), at a retirement (R47) and at the end of a sitting (R127). -/
inductive Act where
  | report (id : WarnId) (value : Bool)
  | both (id₁ : WarnId) (value₁ : Bool) (id₂ : WarnId) (value₂ : Bool)
  | quietCells (n : Fin 200)
  | quietEntry (n : Fin 200)
  | quietSitting
  deriving DecidableEq, Repr

/-- An act posted by a block and not yet taken by the engine. -/
structure Posted where
  block : Block
  act   : Act
  deriving DecidableEq, Repr

/-- The warning engine: the warnings that are not QUIET (every other of the 1221 is QUIET), in subject and class order without
repeats; the attention list; the stamp counter; and the acts posted in the handling under way (MODEL's own: empty between
handlings, assumption log 12). A warning is listed exactly when it stands in the attention list. -/
structure Engine where
  warnings  : List WarnRecord
  attention : List WarnId
  counter   : Stamp
  posted    : List Posted
  deriving DecidableEq, Repr

/-! ### Indicator lines (chapter 8) -/

/-- The scope of a WARNING source (section 8.1). -/
inductive Scope where
  | anyUnit
  | group (g : Fin 8)
  | entry (n : Fin 200)
  | port (p : Fin 4)
  | line (m : Fin 16)
  | chamber
  deriving DecidableEq, Repr

/-- The source of a line. Scope, class set and Include NOTED belong to the WARNING source alone (R139). -/
inductive Source where
  | off
  | on
  | warning (scope : Scope) (classes : ClassBits) (noted : Bool)
  | gate (k : Fin 6)
  | chairSpeaking
  | hold
  | attention (severity : Nat)
  | session
  deriving DecidableEq, Repr

/-- Display modes (R145). -/
inductive Display where
  | steady | slow | fast | alert
  deriving DecidableEq, Repr

/-- Polarity (R146). -/
inductive Polarity where
  | activeHigh | activeLow
  deriving DecidableEq, Repr

/-- The unit of the hold count (section 8.1). -/
inductive HoldUnit where
  | ms1 | ms10 | ms100
  deriving DecidableEq, Repr

/-- A line configuration (section 8.1). -/
structure LineConfig where
  source     : Source
  display    : Display
  polarity   : Polarity
  holdCount  : Nat
  holdUnit   : HoldUnit
  senseCheck : Bool
  deriving DecidableEq, Repr

/-- The OFF configuration (R139). -/
def LineConfig.offConfig : LineConfig where
  source     := .off
  display    := .steady
  polarity   := .activeHigh
  holdCount  := 0
  holdUnit   := .ms1
  senseCheck := false

/-- One indicator line with its sense input (chapter 8). -/
structure Line where
  live     : LineConfig
  staged   : LineConfig
  /-- The source state as the last handling left it (section 8.2). -/
  source   : Bool
  /-- The line activity (R143). -/
  active   : Bool
  /-- The hold timer's remaining ms. -/
  hold     : Nat
  disagree : Nat
  agree    : Nat
  /-- The LAMP_FAULT condition (R152). -/
  fault    : Bool
  /-- The level of the sense input: true for high. -/
  sense    : Bool
  deriving DecidableEq, Repr

/-- The indicator lines with what they share. -/
structure Lines where
  line          : Vector Line 16
  commitPending : Bool
  phase         : Nat
  /-- A blink boundary has been reached and not yet taken (MODEL's own, assumption log 17). -/
  boundaryDue   : Bool
  deriving DecidableEq, Repr

/-! ### Command port and tuning (chapter 10) -/

/-- The transaction states (R166, R167). -/
inductive Transaction where
  | idle | collecting | awaiting | replying | trailing
  deriving DecidableEq, Repr

/-- A command taken and not yet complete: its code and parameter bytes, whether the transaction that brought it is still open, and
whether it has been carried out and only waits to hand over to the waiting command (R169). -/
structure Taken where
  code   : Byte
  params : List Byte
  owned  : Bool
  done   : Bool
  deriving DecidableEq, Repr

/-- The command port. -/
structure CommandPort where
  /-- The CS_N pin is low. -/
  csLow      : Bool
  phase      : Transaction
  collected  : List Byte
  inProgress : Option Taken
  waiting    : Option Taken
  /-- The reply of the transaction's own command, once formed. -/
  reply      : Option Reply
  /-- How many bytes of the reply (after the marker) have been clocked out. -/
  sent       : Nat
  /-- The byte MISO last returned in this transaction; `none` before the first, and while CS_N is high (R166). -/
  miso       : Option Byte
  /-- The reply formed by the command carried out last, read or not (MODEL's own, assumption log 19). -/
  lastReply  : Option Reply
  deriving DecidableEq, Repr

/-- The eighteen tuning items (section 10.5). -/
structure Tuning where
  silenceTime  : Nat
  window       : Nat
  lostTime     : Nat
  signalFloor  : Int
  shift        : Nat
  weak         : Int
  poor         : Int
  silentTime   : Nat
  autoRevoke   : Bool
  hotDelay     : Nat
  priority     : Bool
  pendingTypes : PendingTypes
  irqMask      : ClassBits
  deriving DecidableEq, Repr

/-! ### The whole part -/

/-- The state of the part. -/
structure State where
  /-- RESET_N is held low. -/
  inReset      : Bool
  mode         : Mode
  /-- The clock run state (R157). -/
  clockRunning : Bool
  ports        : Vector AntennaPort 4
  combiner     : Combiner
  roster       : Vector (Option Entry) 200
  profiles     : Vector Profile 4
  sweep        : Option Sweep
  /-- A chamber-clock millisecond has passed and the sweep's visit of it is not yet made (MODEL's own, assumption log 18). -/
  sweepDue     : Bool
  floor        : Floor
  engine       : Engine
  lines        : Lines
  tuning       : Tuning
  command      : CommandPort
  /-- How many free orders have been taken so far (MODEL's own, assumption log 4). -/
  choice       : Nat
  /-- The rows that are waiting, first in, first out. -/
  pending      : List Instr
  deriving DecidableEq, Repr

/-- A port after a device reset (R16). -/
def AntennaPort.reset : AntennaPort where
  enabled    := true
  state      := .warming
  rx         := .resync
  frame      := []
  rejectOwed := false
  answer     := none
  warmUp     := 0
  silence    := 0
  inbox      := []
  congested  := false

/-- The combiner after a device reset (R18, R35). -/
def Combiner.reset : Combiner where
  nextPort  := 0
  pool      := Vector.replicate 12 none
  strangers := Vector.replicate 8 none

/-- The default profiles (R61). -/
def Profile.defaults : Vector Profile 4 :=
  #v[⟨10, 6, 2, 60, 2, 3, 5, 250⟩, ⟨12, 8, 4, 80, 2, 3, 5, 300⟩, ⟨21, 19, 17, 50, 3, 4, 6, 200⟩, ⟨16, 14, 12, 40, 3, 4, 6, 200⟩]

/-- The floor arbiter after a device reset (R115), with the given level of the SILENCE_N pin. -/
def Floor.reset (pinHigh : Bool) : Floor where
  capacity  := 4
  live      := Vector.replicate 6 none
  held      := Vector.replicate 6 none
  chair     := none
  cause     := .none
  asserted  := false
  stability := 0
  pinHigh   := pinHigh

/-- The warning engine after a device reset (R137). -/
def Engine.reset : Engine where
  warnings  := []
  attention := []
  counter   := 0
  posted    := []

/-- A line after a device reset (R154), with the given level of its sense pin. -/
def Line.reset (sense : Bool) : Line where
  live     := LineConfig.offConfig
  staged   := LineConfig.offConfig
  source   := false
  active   := false
  hold     := 0
  disagree := 0
  agree    := 0
  fault    := false
  sense    := sense

/-- The lines after a device reset (R154), with all sense pins low. -/
def Lines.reset : Lines where
  line          := Vector.replicate 16 (Line.reset false)
  commitPending := false
  phase         := 0
  boundaryDue   := false

/-- The defaults of the six pending types (class table of section 7.1). -/
def PendingTypes.defaults : PendingTypes where
  sigLost        := .latched
  battCritical   := .latched
  receiverSilent := .selfClearing
  sigWeak        := .selfClearing
  hotMic         := .selfClearing
  battLow        := .selfClearing

/-- The defaults of the tuning items (section 10.5). -/
def Tuning.defaults : Tuning where
  silenceTime  := 1500
  window       := 12
  lostTime     := 4000
  signalFloor  := -92
  shift        := 2
  weak         := 12
  poor         := 5
  silentTime   := 8000
  autoRevoke   := false
  hotDelay     := 1500
  priority     := true
  pendingTypes := PendingTypes.defaults
  irqMask      := 0x1FF

/-- The command port after a device reset (R176), with the given level of CS_N. -/
def CommandPort.reset (csLow : Bool) : CommandPort where
  csLow      := csLow
  phase      := .idle
  collected  := []
  inProgress := none
  waiting    := none
  reply      := none
  sent       := 0
  miso       := none
  lastReply  := none

/-- The machine right after a device reset has ended. The levels of the input pins (SILENCE_N and CS_N high, every sense input low)
are the model's choice: the spec gives inputs no reset value (assumption log 9). -/
def State.reset : State where
  inReset      := false
  mode         := .recess
  clockRunning := true
  ports        := Vector.replicate 4 AntennaPort.reset
  combiner     := Combiner.reset
  roster       := Vector.replicate 200 none
  profiles     := Profile.defaults
  sweep        := none
  sweepDue     := false
  floor        := Floor.reset true
  engine       := Engine.reset
  lines        := Lines.reset
  tuning       := Tuning.defaults
  command      := CommandPort.reset false
  choice       := 0
  pending      := []

end Sys2Proof.Machine
end

