-- ==== Sys2Proof/Machine/Ops.lean ====
section
/-! DEFINITION. Machine/Ops.lean: the named operations over the tables of State, the posting of reports, and the taking of things
whose order the spec leaves open. -/

namespace Sys2Proof.Machine

/-! ### Tables -/

/-- A table with one place replaced. -/
def setAt {α : Type} {n : Nat} (v : Vector α n) (i : Fin n) (x : α) : Vector α n := v.set i.1 x i.2

/-- A table with every place replaced. -/
def mapTable {α β : Type} {n : Nat} (v : Vector α n) (f : Fin n → α → β) : Vector β n := Vector.ofFn fun i => f i v[i]

/-- The place with the smallest number that has a property ("lowest free slot", section Conventions). -/
def firstIndex {n : Nat} (p : Fin n → Bool) : Option (Fin n) := (List.finRange n).find? p

/-- An operation made for every number in rising order. -/
def forEach {n : Nat} (f : Fin n → State → State) (s : State) : State := (List.finRange n).foldl (fun s i => f i s) s

/-- An operation made for the numbers of a list, in the list's order. -/
def forList {α : Type} (f : α → State → State) (l : List α) (s : State) : State := l.foldl (fun s a => f a s) s

/-- A clamp (section Conventions: the nearer end replaces a value outside the range). -/
def clampInt (lo hi v : Int) : Int := if v < lo then lo else if hi < v then hi else v

/-- The part of a state a port is. -/
def State.setPort (s : State) (p : Fin 4) (x : AntennaPort) : State := { s with ports := setAt s.ports p x }

/-- One roster slot replaced. -/
def State.setSlot (s : State) (n : Fin 200) (e : Option Entry) : State := { s with roster := setAt s.roster n e }

/-- One pool position replaced. -/
def State.setPool (s : State) (i : Fin 12) (e : Option PoolEntry) : State :=
  { s with combiner := { s.combiner with pool := setAt s.combiner.pool i e } }

/-- One stranger position replaced. -/
def State.setStranger (s : State) (i : Fin 8) (r : Option Stranger) : State :=
  { s with combiner := { s.combiner with strangers := setAt s.combiner.strangers i r } }

/-- One live floor slot replaced. -/
def State.setLive (s : State) (k : Fin 6) (x : Option LiveSlot) : State :=
  { s with floor := { s.floor with live := setAt s.floor.live k x } }

/-- One held floor slot replaced. -/
def State.setHeld (s : State) (k : Fin 6) (x : Option (Fin 200)) : State :=
  { s with floor := { s.floor with held := setAt s.floor.held k x } }

/-- The priority cause replaced. -/
def State.setCause (s : State) (c : Cause) : State := { s with floor := { s.floor with cause := c } }

/-- One line replaced. -/
def State.setLine (s : State) (m : Fin 16) (l : Line) : State :=
  { s with lines := { s.lines with line := setAt s.lines.line m l } }

/-! ### Reports -/

/-- A block hands an act to the warning engine, which takes it when the block's part of the handling is done (R118). -/
def State.post (s : State) (b : Block) (a : Act) : State :=
  { s with engine := { s.engine with posted := s.engine.posted ++ [⟨b, a⟩] } }

/-- A block reports a condition when it changes, and not otherwise (R118). -/
def State.postChange (s : State) (b : Block) (id : WarnId) (old new : Bool) : State :=
  if old = new then s else s.post b (.report id new)

/-! ### Open orders -/

/-- Takes the head of the queue with the given number. -/
def takeHead {α : Type} : Nat → List (List α) → Option (α × List (List α))
  | _, [] => none
  | 0, [] :: _ => none
  | 0, (a :: q) :: qs => some (a, q :: qs)
  | i + 1, q :: qs => (takeHead i qs).map fun r => (r.1, q :: r.2)

/-- A merge of several queues that keeps the order within each queue and leaves the order between queues to the free value
(assumption log 4). `fuel` is at least the number of items. -/
def shuffle {α : Type} (seed : Nat) : Nat → List (List α) → List α
  | 0, _ => []
  | fuel + 1, qs =>
    match qs.filter (fun q => !q.isEmpty) with
    | [] => []
    | [q] => q
    | q₁ :: q₂ :: rest =>
      match takeHead (Config.freeChoice (seed + fuel) % (rest.length + 2)) (q₁ :: q₂ :: rest) with
      | some (a, qs') => a :: shuffle seed fuel qs'
      | none => []

end Sys2Proof.Machine
end

