-- ==== Sys2Proof/Machine/Flags.lean ====
section
/-! DEFINITION. Machine/Flags.lean: everything the spec derives from the state: conditions, speaking and gates, warning states,
OVERFLOW and IRQ_N, source states, lit states and driven levels. -/

namespace Sys2Proof.Machine

/-! ### Ports and presence -/

/-- A port is receiving when it is WARMING or UP (section 1.4). -/
def PortState.receiving : PortState → Bool
  | .warming | .up => true
  | .off | .silent => false

/-- The RECEIVER_SILENT condition of a port state (R10). -/
def PortState.silentCond : PortState → Bool
  | .silent => true
  | .off | .warming | .up => false

/-- The floor arbiter counts an entry as present while it is LIVE or FADING (section 3.7). -/
def Presence.present : Presence → Bool
  | .live | .fading => true
  | .awaited | .lost | .off => false

/-- The expected interval in ms (R48). -/
def BeaconInterval.ms : BeaconInterval → Nat
  | .fast => 100
  | .slow => 500

/-- The chamber clock advances and timers may reach their limits: not in DORMANT and not while RESET_N is low (R157). -/
def State.running (s : State) : Bool := s.clockRunning && !s.inReset

/-! ### Conditions of the unit classes -/

/-- The BATT_LOW condition (R74). -/
def BattLevel.lowCond : BattLevel → Bool
  | .low => true
  | .unknown | .ok | .critical | .exhausted => false

/-- The BATT_CRITICAL condition (R74). -/
def BattLevel.criticalCond : BattLevel → Bool
  | .critical | .exhausted => true
  | .unknown | .ok | .low => false

/-- The SIG_LOST condition of an entry under a mode (R56). -/
def sigLostCond (m : Mode) (e : Entry) : Bool := m == .session && e.presence == .lost

/-- The SIG_WEAK condition of an entry under a mode (R89). -/
def sigWeakCond (m : Mode) (e : Entry) : Bool := m == .session && e.signal.level == .poor

/-- The HOT_MIC condition of an entry: its running timer has reached the hot delay (R106). -/
def Entry.hotCond (e : Entry) : Bool := match e.hot with
  | some t => t.reached
  | none => false

/-- The STRANGER condition: the table holds a record (R24). -/
def Combiner.strangerCond (c : Combiner) : Bool := (firstIndex fun i : Fin 8 => c.strangers[i].isSome).isSome

/-! ### Floor -/

/-- The holder of a live slot. -/
def Floor.liveHolder (f : Floor) (k : Fin 6) : Option (Fin 200) := f.live[k].map (·.holder)

/-- The live slot an entry holds, if any (R94). -/
def Floor.liveSlotOf (f : Floor) (n : Fin 200) : Option (Fin 6) := firstIndex fun k => f.liveHolder k == some n

/-- The held slot an entry holds, if any (R94). -/
def Floor.heldSlotOf (f : Floor) (n : Fin 200) : Option (Fin 6) := firstIndex fun k => f.held[k] == some n

/-- An entry has its talk key on and is present (R100, R101, R106). -/
def Entry.keyOn (e : Entry) : Bool := e.switch == .opened && e.presence.present

/-- An entry is speaking (R100). -/
def State.speaking (s : State) (n : Fin 200) : Bool :=
  match s.roster[n] with
  | some e => (s.floor.liveSlotOf n).isSome && e.keyOn && !e.muted && s.mode == .session
  | none => false

/-- The gate of a live slot is active while its holder is speaking; a slot at or above the capacity does not exist (R100, R140). -/
def State.gate (s : State) (k : Fin 6) : Bool :=
  match s.floor.liveHolder k with
  | some n => decide (k.1 < s.floor.capacity) && s.speaking n
  | none => false

/-- The chair would claim priority apart from the cause and the priority function: designation, key, presence and mode (R111). -/
def State.chairKeyOn (s : State) : Bool :=
  match s.floor.chair with
  | some n => (match s.roster[n] with
    | some e => e.keyOn && s.mode == .session
    | none => false)
  | none => false

/-- The chair is speaking (R101). -/
def State.chairSpeaking (s : State) : Bool := s.chairKeyOn && s.floor.cause != .silence

/-- The chair claims priority: it is speaking and the priority function is on (R101). -/
def State.chairClaims (s : State) : Bool := s.chairSpeaking && s.tuning.priority

/-- The terms under which an entry's hot-mic timer runs (R106). -/
def State.hotTerms (s : State) (n : Fin 200) (e : Entry) : Bool :=
  e.keyOn && s.mode == .session && s.floor.chair != some n && !s.speaking n && (s.floor.heldSlotOf n).isNone

/-! ### Warnings -/

/-- The severity of a class (R117). -/
def WClass.severity : WClass → Nat
  | .sigLost => 5
  | .battCritical | .receiverSilent => 4
  | .sigWeak | .hotMic => 3
  | .battLow | .silentFloor => 2
  | .lampFault | .stranger => 1

/-- The code of a class (section 11.2), which is also its place in the class order (R117). -/
def WClass.code : WClass → Nat
  | .sigLost => 0
  | .battCritical => 1
  | .receiverSilent => 2
  | .sigWeak => 3
  | .hotMic => 4
  | .battLow => 5
  | .silentFloor => 6
  | .lampFault => 7
  | .stranger => 8

/-- The class of a code (section 11.2). -/
def WClass.ofCode : Nat → Option WClass
  | 0 => some .sigLost
  | 1 => some .battCritical
  | 2 => some .receiverSilent
  | 3 => some .sigWeak
  | 4 => some .hotMic
  | 5 => some .battLow
  | 6 => some .silentFloor
  | 7 => some .lampFault
  | 8 => some .stranger
  | _ => none

/-- The classes whose subjects are roster entries, in the entry record's order (sections 7.1 and 11.5). -/
def unitClasses : List WClass := [.sigLost, .battCritical, .sigWeak, .hotMic, .battLow, .silentFloor]

/-- The four classes that concern a sitting (section 7.5). -/
def WClass.sitting : WClass → Bool
  | .sigLost | .sigWeak | .hotMic | .silentFloor => true
  | .battCritical | .receiverSilent | .battLow | .lampFault | .stranger => false

/-- A subject's place in the subject order (R117). -/
def Subject.rank : Subject → Nat
  | .chamber => 0
  | .port p => 1 + p.1
  | .line m => 5 + m.1
  | .entry n => 21 + n.1

/-- A warning's place in subject order, and in class order within its subject (R117, R125). -/
def WarnId.key (w : WarnId) : Nat := w.subject.rank * 9 + w.cls.code

/-- The subject kind that a class names (R117). -/
def WClass.names : WClass → Subject → Bool
  | .stranger, .chamber => true
  | .receiverSilent, .port _ => true
  | .lampFault, .line _ => true
  | .sigLost, .entry _ => true
  | .battCritical, .entry _ => true
  | .sigWeak, .entry _ => true
  | .hotMic, .entry _ => true
  | .battLow, .entry _ => true
  | .silentFloor, .entry _ => true
  | _, _ => false

/-- The pending type of a class (sections 7.1 and 7.3). -/
def pendingTypeOf (p : PendingTypes) : WClass → PendingType
  | .sigLost => p.sigLost
  | .battCritical => p.battCritical
  | .receiverSilent => p.receiverSilent
  | .sigWeak => p.sigWeak
  | .hotMic => p.hotMic
  | .battLow => p.battLow
  | .silentFloor => .latched
  | .lampFault => .latched
  | .stranger => .selfClearing

/-- RAISED or STANDING: pending (R117). -/
def ActiveState.pending : ActiveState → Bool
  | .raised | .standing => true
  | .noted => false

/-- The record of a warning; `none` where it is QUIET. -/
def Engine.find (g : Engine) (id : WarnId) : Option WarnRecord := g.warnings.find? fun r => r.id == id

/-- The state of a warning; `none` for QUIET. -/
def Engine.stateOf (g : Engine) (id : WarnId) : Option ActiveState := (g.find id).map (·.state)

/-- A warning is listed. -/
def Engine.listed (g : Engine) (id : WarnId) : Bool := g.attention.contains id

/-- The pending warnings without a place in the list, in subject and class order (R124). -/
def Engine.unlisted (g : Engine) : List WarnRecord := g.warnings.filter fun r => r.state.pending && !g.listed r.id

/-- OVERFLOW is shown while an unlisted warning exists (R124). -/
def Engine.overflow (g : Engine) : Bool := !g.unlisted.isEmpty

/-- A class is in a set of classes (section 11.2). -/
def inClassSet (b : ClassBits) (c : WClass) : Bool := b.getLsbD c.code

/-- IRQ_N is asserted (driven low): the list holds a warning of a class in the mask, and no device reset lasts (R132, R137). -/
def State.irqAsserted (s : State) : Bool :=
  !s.inReset && s.engine.attention.any fun id => inClassSet s.tuning.irqMask id.cls

/-! ### Lines -/

/-- A subject is in a scope (R141). -/
def State.inScope (s : State) : Scope → Subject → Bool
  | .anyUnit, .entry n => s.roster[n].isSome
  | .group g, .entry n => (match s.roster[n] with
    | some e => e.group == g
    | none => false)
  | .entry n, .entry n' => n == n' && s.roster[n].isSome
  | .port p, .port p' => p == p'
  | .line m, .line m' => m == m'
  | .chamber, .chamber => true
  | _, _ => false

/-- The warnings that a WARNING source considers (R141). -/
def State.matching (s : State) (sc : Scope) (cs : ClassBits) : List WarnRecord :=
  s.engine.warnings.filter fun r => s.inScope sc r.id.subject && inClassSet cs r.id.cls

/-- The source state that a source has in a state (R140, R141, R142). -/
def State.sourceState (s : State) : Source → Bool
  | .off => false
  | .on => true
  | .warning sc cs noted => (s.matching sc cs).any fun r => r.state.pending || noted
  | .gate k => s.gate k
  | .chairSpeaking => s.chairSpeaking
  | .hold => s.floor.cause != .none
  | .attention v => s.engine.attention.any fun id => v ≤ id.cls.severity
  | .session => s.mode == .session

/-- The hold time of a configuration in ms (R139). -/
def LineConfig.holdTime (c : LineConfig) : Nat :=
  match c.holdUnit with
  | .ms1 => c.holdCount
  | .ms10 => c.holdCount * 10
  | .ms100 => c.holdCount * 100

/-- The FAST pattern: the even eighths of the cycle (R145). -/
def fastLit (phase : Nat) : Bool := phase / Config.blinkStep % 2 == 0

/-- The SLOW pattern: the first half of the cycle (R145). -/
def slowLit (phase : Nat) : Bool := decide (phase < 500)

/-- A warning matching the source is RAISED or STANDING (R145, ALERT). -/
def State.alertPending (s : State) : Source → Bool
  | .warning sc cs _ => (s.matching sc cs).any fun r => r.state.pending
  | _ => false

/-- The pattern of a display mode at the current phase (R145). -/
def State.pattern (s : State) (c : LineConfig) : Bool :=
  match c.display with
  | .steady => true
  | .slow => slowLit s.lines.phase
  | .fast => fastLit s.lines.phase
  | .alert => if s.alertPending c.source then fastLit s.lines.phase else true

/-- A line is lit: active, in the lit part of its display, and the part neither DORMANT nor in reset (R145, R146, R153). -/
def State.lineLit (s : State) (l : Line) : Bool := l.active && s.pattern l.live && s.mode != .dormant && !s.inReset

/-- A line's driven level, true for high (R146); every line is low while RESET_N is low (R154). -/
def State.lineDriven (s : State) (l : Line) : Bool :=
  if s.inReset then false
  else match l.live.polarity with
    | .activeHigh => s.lineLit l
    | .activeLow => !s.lineLit l

/-- The lamp sense of a line is in use (R151). -/
def State.senseInUse (s : State) (l : Line) : Bool := s.lineLit l && l.live.senseCheck

/-- The sense input agrees with the driven level (R151). -/
def State.senseAgrees (s : State) (l : Line) : Bool := l.sense == s.lineDriven l

end Sys2Proof.Machine
end

