-- ==== Sys2Proof/Machine/Evaluate.lean ====
section
/-! DEFINITION. Machine/Evaluate.lean: the battery evaluator's and the signal evaluator's computations (chapters 4 and 5), as
functions of the profile, the tuning and the entry's fields. -/

namespace Sys2Proof.Machine

/-! ### Shared rounding -/

/-- The filter step (R71, R87): the size of d over 2^k rounded to the nearest whole, halves away from zero, with the sign of d. -/
def filterStep (k : Nat) (d : Int) : Int :=
  let m : Int := ((d.natAbs + 2 ^ (k - 1)) / 2 ^ k : Nat)
  if d < 0 then -m else m

/-! ### Battery -/

/-- The voltage a level code stands for, in mV (R60). -/
def codeVoltage (code : Nat) : Nat := if code ≤ 15 then 2000 + 50 * code else 2800 + 100 * (code - 16)

/-- The classification of a voltage under a profile (R69). -/
def classify (p : Profile) (x : Int) : BattLevel :=
  if x ≤ codeVoltage p.ve then .exhausted
  else if x ≤ codeVoltage p.vc then .critical
  else if x ≤ codeVoltage p.vl then .low
  else .ok

/-- The place of a level in the order from best to worst; UNKNOWN stands outside it (R65). -/
def BattLevel.rank : BattLevel → Option Nat
  | .unknown => none
  | .ok => some 0
  | .low => some 1
  | .critical => some 2
  | .exhausted => some 3

/-- One level is worse than another (R65). -/
def BattLevel.worseThan (a b : BattLevel) : Bool :=
  match a.rank, b.rank with
  | some i, some j => decide (j < i)
  | _, _ => false

/-- The candidate level with hysteresis (R72). -/
def battCandidate (p : Profile) (f : Int) (now : BattLevel) : BattLevel :=
  let down := classify p f
  let up := classify p (f - p.h)
  if down.worseThan now then down else if now.worseThan up then up else now

/-- The pending candidate advanced by one evaluation (R73). -/
def advancePending (cand now : BattLevel) (pending : Option Candidate) : Option Candidate :=
  if cand = now then none
  else match pending with
    | some c => if c.level = cand then some ⟨cand, c.count + 1⟩ else some ⟨cand, 1⟩
    | none => some ⟨cand, 1⟩

/-- The confirmation number for a pending level (R73). -/
def confirmNumber (p : Profile) (lvl now : BattLevel) : Nat := if lvl.worseThan now then p.nd else p.nu

/-- Confirmation: a pending candidate whose count suffices becomes the level (R73). -/
def confirmBattery (p : Profile) (b : Battery) (pending : Option Candidate) : Battery :=
  match pending with
  | some c =>
    if confirmNumber p c.level b.level ≤ c.count then { b with level := c.level, pending := none }
    else { b with pending := some c }
  | none => { b with pending := none }

/-- The level and F set from a reading at once: a first reading or a replacement (R68, R70). -/
def setFromReading (p : Profile) (b : Battery) (v : Nat) : Battery :=
  { b with filtered := some v, level := classify p v, pending := none }

/-- The filter, candidate and confirmation steps for a present F (R71, R72, R73). -/
def filterBattery (p : Profile) (b : Battery) (f v : Nat) : Battery :=
  let f' : Int := f + filterStep p.k ((v : Int) - f)
  confirmBattery p { b with filtered := some f'.toNat } (advancePending (battCandidate p f' b.level) b.level b.pending)

/-- The reading is taken as fresh cells (R70). -/
def isReplacement (p : Profile) (b : Battery) (c : Nat) : Bool :=
  match b.filtered with
  | some f => decide (c ≤ 1022) && decide (f + p.j ≤ 5 * c)
  | none => false

/-- One evaluation of an entry's battery fields with a cell code (R66 to R73). -/
def evalBattery (p : Profile) (b : Battery) (c : Nat) : Battery :=
  if 1022 < c then b
  else
    let b := { b with lastCell := some c }
    match b.filtered with
    | none => setFromReading p b (5 * c)
    | some f => if f + p.j ≤ 5 * c then setFromReading p b (5 * c) else filterBattery p b f (5 * c)

/-- Direct re-classification: at a sweep visit and at an amendment of the profile number (R45, R77). -/
def reclassify (p : Profile) (b : Battery) : Battery :=
  match b.filtered with
  | some f => { b with level := classify p f, pending := none }
  | none => b

/-! ### Signal -/

/-- The plain classification of a margin (R88). -/
def classifyMargin (t : Tuning) (q : Int) : SigLevel :=
  if t.weak ≤ q then .good else if t.poor ≤ q then .weak else .poor

/-- The place of a signal level from best to worst; UNKNOWN stands outside (R84). -/
def SigLevel.rank : SigLevel → Option Nat
  | .unknown => none
  | .good => some 0
  | .weak => some 1
  | .poor => some 2

/-- One signal level is worse than another (R84). -/
def SigLevel.worseThan (a b : SigLevel) : Bool :=
  match a.rank, b.rank with
  | some i, some j => decide (j < i)
  | _, _ => false

/-- The level after smoothing, with the fixed rise hysteresis (R88). -/
def nextSigLevel (t : Tuning) (q : Int) (now : SigLevel) : SigLevel :=
  let down := classifyMargin t q
  let up := classifyMargin t (q - Config.riseHysteresis)
  if down.worseThan now then down else if now.worseThan up then up else now

/-- The observed margin M, clamped (R87). -/
def observedMargin (t : Tuning) (best : Int) : Int := clampInt (-40) 60 (best - t.signalFloor)

/-- One evaluation of an entry's signal fields with the best counted strength and the serving candidate (R85 to R88). -/
def evalSignal (t : Tuning) (g : Signal) (best : Option (Int × Fin 4)) : Signal :=
  match best with
  | none => g
  | some (b, port) =>
    let m := observedMargin t b
    match g.margin with
    | none => ⟨some m, classifyMargin t m, some port⟩
    | some q =>
      let q' := q + filterStep t.shift (m - q)
      ⟨some q', nextSigLevel t q' g.level, some port⟩

/-- The signal fields of an entry that has been lost, or is new (R84, R90). -/
def Signal.absent : Signal := ⟨none, .unknown, none⟩

end Sys2Proof.Machine
end

