-- ==== Sys2Proof/Machine/Floor.lean ====
section
/-! DEFINITION. Machine/Floor.lean: the floor arbiter's operations (chapter 6): deriving speaking and the hot-mic timer afresh,
freeing slots, and the two moves of the floor. -/

namespace Sys2Proof.Machine

/-- The name of a unit warning. -/
def unitWarning (n : Fin 200) (c : WClass) : WarnId := ⟨.entry n, c⟩

/-- Speaking derived afresh for the holder of a live slot: a start reloads the silent timer and ends SILENT_FLOOR (R100, R103). -/
def deriveSlot (n : Fin 200) (s : State) : State :=
  match s.floor.liveSlotOf n with
  | none => s
  | some k => match s.floor.live[k] with
    | none => s
    | some x =>
      if s.speaking n && !x.speaking then
        (s.setLive k (some { x with timer := s.tuning.silentTime, speaking := true, expired := false })).postChange .floor
          (unitWarning n .silentFloor) x.expired false
      else s.setLive k (some { x with speaking := s.speaking n })

/-- The hot-mic timer derived afresh: it starts at 0 when its terms first hold, and stops when one fails (R106). -/
def deriveHot (n : Fin 200) (s : State) : State :=
  match s.roster[n] with
  | none => s
  | some e => match e.hot, s.hotTerms n e with
    | none, true =>
      (s.setSlot n (some { e with hot := some ⟨0, s.tuning.hotDelay == 0⟩ })).postChange .floor (unitWarning n .hotMic) false
        (s.tuning.hotDelay == 0)
    | some t, false =>
      (s.setSlot n (some { e with hot := none })).postChange .floor (unitWarning n .hotMic) t.reached false
    | none, false => s
    | some _, true => s

/-- Speaking, the gate and the hot-mic timer of one entry derived afresh, as one handling (R100, R106). -/
def derive (n : Fin 200) (s : State) : State := deriveHot n (deriveSlot n s)

/-- Frees the live slot of an entry, if it holds one; a SILENT_FLOOR condition that was true becomes false (R97). -/
def freeLive (n : Fin 200) (s : State) : State :=
  match s.floor.liveSlotOf n with
  | none => s
  | some k => match s.floor.live[k] with
    | none => s
    | some x => (s.setLive k none).postChange .floor (unitWarning n .silentFloor) x.expired false

/-- Frees the held slot of an entry, if it holds one (R113). -/
def freeHeld (n : Fin 200) (s : State) : State :=
  match s.floor.heldSlotOf n with
  | none => s
  | some k => s.setHeld k none

/-- Frees the slot of an entry, live or held (R97). -/
def freeSlot (n : Fin 200) (s : State) : State := freeHeld n (freeLive n s)

/-- The hot-mic timer of an entry is stopped and cleared (R102). -/
def stopHot (n : Fin 200) (s : State) : State :=
  match s.roster[n] with
  | none => s
  | some e => (s.setSlot n (some { e with hot := none })).postChange .floor (unitWarning n .hotMic) e.hotCond false

/-- The live slots as they stand, sorted by holder, so that reports of one move come in subject order (R118). -/
def Floor.liveByHolder (f : Floor) : List LiveSlot :=
  ((List.finRange 6).filterMap fun k => f.live[k]).insertionSort fun a b => a.holder ≤ b.holder

/-- The holders in the held floor, sorted. -/
def Floor.heldByHolder (f : Floor) : List (Fin 200) :=
  ((List.finRange 6).filterMap fun k => f.held[k]).insertionSort fun a b => a ≤ b

/-- Moving the floor to held (R108): slot numbers and holders kept, silent timers discarded, hot-mic timers stopped. -/
def moveToHeld (s : State) : State :=
  let moved := s.floor.liveByHolder
  let s := { s with floor := { s.floor with
    live := Vector.replicate 6 none
    held := mapTable s.floor.held fun k h => match s.floor.live[k] with
      | some x => some x.holder
      | none => h } }
  forList (fun x s => derive x.holder (s.postChange .floor (unitWarning x.holder .silentFloor) x.expired false)) moved s

/-- A live slot as it is loaded: the silent timer full, the holder not yet derived as speaking (R96, R103, R108). -/
def loadedSlot (s : State) (n : Fin 200) : LiveSlot := ⟨n, s.tuning.silentTime, false, false⟩

/-- Moving the floor back (R108): slot numbers and holders kept, silent timers loaded full, everything derived afresh. -/
def moveBack (s : State) : State :=
  let moved := s.floor.heldByHolder
  let s := { s with floor := { s.floor with
    held := Vector.replicate 6 none
    live := mapTable s.floor.live fun k x => match s.floor.held[k] with
      | some n => some (loadedSlot s n)
      | none => x } }
  forList derive moved s

/-- A CHAIR hold begins (R109). -/
def beginHold (s : State) : State := (moveToHeld s).setCause .chair

/-- A hold ends: the floor is moved back and the cause becomes NONE (R109, R111). -/
def endHold (s : State) : State := (moveBack s).setCause .none

/-- The hold follows the chair's claim: it begins from NONE when the chair claims, and ends from CHAIR when it does not (R109). -/
def followClaim (s : State) : State :=
  match s.floor.cause with
  | .none => if s.chairClaims then beginHold s else s
  | .chair => if s.chairClaims then s else endHold s
  | .silence => s

/-- The floor arbiter takes an entry's new switch and presence (R49, R53). -/
def floorTakes (n : Fin 200) (s : State) : State :=
  let s := derive n s
  if s.floor.chair = some n then followClaim s else s

/-- The silence key is asserted after its debounce (R111). -/
def silenceAsserted (s : State) : State :=
  match s.floor.cause with
  | .none => (moveToHeld s).setCause .silence
  | .chair | .silence => s.setCause .silence

/-- The silence key is released after its debounce (R111). -/
def silenceReleased (s : State) : State :=
  if s.chairKeyOn && s.tuning.priority then s.setCause .chair else endHold s

/-- The floor arbiter leaves SESSION (R114): both collections emptied, timers discarded, CHAIR becomes NONE. The mode is already
the new one, and every true HOT_MIC and SILENT_FLOOR condition is reported false, in subject order. -/
def floorLeavesSession (s : State) : State :=
  let freed := s.floor.liveByHolder
  let s := { s with floor := { s.floor with
    live := Vector.replicate 6 none
    held := Vector.replicate 6 none
    cause := match s.floor.cause with
      | .chair => .none
      | .none => .none
      | .silence => .silence } }
  forEach (fun n s => stopHot n (forList (fun x s => s.postChange .floor (unitWarning n .silentFloor) x.expired false)
    (freed.filter fun x => x.holder == n) s)) s

end Sys2Proof.Machine
end

