-- ==== Sys2Proof/Machine/Roster.lean ====
section
/-! DEFINITION. Machine/Roster.lean: the roster's operations (chapter 3): searching, enrolling, amending, retiring, applying an
observation, and the passage to FADING and LOST. -/

namespace Sys2Proof.Machine

/-! ### Searching -/

/-- The entry that holds a Unit ID (R20, R41). -/
def State.entryOfUnit (s : State) (u : UnitId) : Option (Fin 200) :=
  firstIndex fun n => match s.roster[n] with
    | some e => e.unit == u
    | none => false

/-- The entry that holds a seat (R42). -/
def State.entryOfSeat (s : State) (seat : Nat) : Option (Fin 200) :=
  firstIndex fun n => match s.roster[n] with
    | some e => e.seat == seat
    | none => false

/-- The lowest free slot (R39). -/
def State.freeEntry (s : State) : Option (Fin 200) := firstIndex fun n => s.roster[n].isNone

/-- The number of occupied slots (R36). -/
def State.entryCount (s : State) : Nat := ((List.finRange 200).filter fun n => s.roster[n].isSome).length

/-! ### Creation -/

/-- All four per-port strengths absent. -/
def noStrengths : Strengths := Vector.replicate 4 none

/-- The battery fields at enrolment and at CHAMBER_RESET (R65). -/
def Battery.fresh (profile : Fin 4) : Battery := ⟨profile, none, none, .unknown, none⟩

/-- An entry as enrolment creates it (R37); CHAMBER_RESET returns every entry to it (R59). -/
def Entry.fresh (unit : UnitId) (seat : Nat) (group : Fin 8) (profile : Fin 4) : Entry where
  unit       := unit
  seat       := seat
  group      := group
  presence   := .awaited
  age        := 0
  interval   := none
  lastBeacon := none
  switch     := .unknown
  disagree   := false
  strengths  := noStrengths
  battery    := Battery.fresh profile
  signal     := Signal.absent
  muted      := false
  hot        := none

/-- The position of a unit's stranger record. -/
def Combiner.strangerOf (c : Combiner) (u : UnitId) : Option (Fin 8) :=
  firstIndex fun i => match c.strangers[i] with
    | some r => r.unit == u
    | none => false

/-- The STRANGER warning, whose subject is the chamber (R24). -/
def strangerWarning : WarnId := ⟨.chamber, .stranger⟩

/-- The stranger table changes, and the STRANGER condition is reported if it changed (R24). -/
def State.strangersBecome (s : State) (v : Vector (Option Stranger) 8) : State :=
  ({ s with combiner := { s.combiner with strangers := v } }).postChange .combiner strangerWarning s.combiner.strangerCond
    ({ s.combiner with strangers := v } : Combiner).strangerCond

/-- A unit's stranger record is removed, if it has one (R23). -/
def State.forgetStranger (s : State) (u : UnitId) : State :=
  match s.combiner.strangerOf u with
  | some i => s.strangersBecome (setAt s.combiner.strangers i none)
  | none => s

/-- Enrolment in a slot, with the removal of the unit's stranger record (R39, R40). -/
def enrolAt (n : Fin 200) (unit : UnitId) (seat : Nat) (group : Fin 8) (profile : Fin 4) (s : State) : State :=
  (s.setSlot n (some (Entry.fresh unit seat group profile))).forgetStranger unit

/-! ### Reports of the battery evaluator -/

/-- The battery evaluator reports what its two conditions became, both in one report where both changed (R74). -/
def postBattery (n : Fin 200) (old new : BattLevel) (s : State) : State :=
  if old.lowCond ≠ new.lowCond ∧ old.criticalCond ≠ new.criticalCond then
    s.post .battery (.both (unitWarning n .battLow) new.lowCond (unitWarning n .battCritical) new.criticalCond)
  else
    (s.postChange .battery (unitWarning n .battLow) old.lowCond new.lowCond).postChange .battery
      (unitWarning n .battCritical) old.criticalCond new.criticalCond

/-- An entry's battery fields are re-classified directly, and the conditions reported (R45, R77). -/
def reclassifyEntry (n : Fin 200) (s : State) : State :=
  match s.roster[n] with
  | none => s
  | some e =>
    let b := reclassify s.profiles[e.battery.profile] e.battery
    postBattery n e.battery.level b.level (s.setSlot n (some { e with battery := b }))

/-! ### Applying an observation -/

/-- An observation: the merged result of one closed pool entry (R31). -/
structure Observation where
  beacon    : Byte
  payload   : Payload
  disagree  : Bool
  strengths : Strengths
  /-- The best counted strength with the serving candidate port. -/
  best      : Option (Int × Fin 4)
  deriving DecidableEq, Repr

/-- The roster's own fields set from an observation (R48). -/
def Entry.observed (e : Entry) (o : Observation) : Entry :=
  { e with
    lastBeacon := some o.beacon
    interval := some (if o.payload.fast then .fast else .slow)
    age := 0
    presence := if o.payload.farewell then .off else .live
    switch := if o.payload.farewell then .closed else if o.payload.switchOpen then .opened else .closed
    strengths := o.strengths
    disagree := o.disagree }

/-- An observation applied to its entry: the roster's fields, then the hand-offs (R48, R49). The blocks' fields are disjoint, so
only the order of their reports is open. -/
def applyObservation (n : Fin 200) (o : Observation) (s : State) : State :=
  match s.roster[n] with
  | none => s
  | some e =>
    let p := s.profiles[e.battery.profile]
    let e' := { e.observed o with
      battery := evalBattery p e.battery o.payload.cell
      signal := evalSignal s.tuning e.signal o.best }
    let s := s.setSlot n (some e')
    let s := s.postChange .roster (unitWarning n .sigLost) (sigLostCond s.mode e) (sigLostCond s.mode e')
    let s := postBattery n e.battery.level e'.battery.level s
    let s := if isReplacement p e.battery o.payload.cell then s.post .battery (.quietCells n) else s
    let s := s.postChange .signal (unitWarning n .sigWeak) (sigWeakCond s.mode e) (sigWeakCond s.mode e')
    floorTakes n s

/-! ### Fading and loss -/

/-- The age of a LIVE entry has passed 3 times its expected interval, below the lost time (R51). -/
def fadingDue (lostTime : Nat) (e : Entry) : Bool :=
  match e.presence, e.interval with
  | .live, some i => decide (3 * i.ms < e.age) && decide (3 * i.ms < lostTime)
  | _, _ => false

/-- The age of a LIVE or FADING entry has passed the lost time (R51). -/
def lostDue (lostTime : Nat) (e : Entry) : Bool := e.presence.present && decide (lostTime < e.age)

/-- An entry becomes FADING (R51). -/
def fadeEntry (n : Fin 200) (s : State) : State :=
  match s.roster[n] with
  | none => s
  | some e => floorTakes n (s.setSlot n (some { e with presence := .fading }))

/-- An entry becomes LOST: the signal fields are discarded, and the roster, the signal evaluator and the floor arbiter follow
(R53, R56, R90). -/
def loseEntry (n : Fin 200) (s : State) : State :=
  match s.roster[n] with
  | none => s
  | some e =>
    let e' := { e with presence := .lost, signal := Signal.absent }
    let s := s.setSlot n (some e')
    let s := s.postChange .roster (unitWarning n .sigLost) (sigLostCond s.mode e) (sigLostCond s.mode e')
    let s := s.postChange .signal (unitWarning n .sigWeak) (sigWeakCond s.mode e) (sigWeakCond s.mode e')
    floorTakes n s

/-- One entry judged against a changed lost time (R52). -/
def judgeAge (n : Fin 200) (s : State) : State :=
  match s.roster[n] with
  | none => s
  | some e =>
    if lostDue s.tuning.lostTime e then loseEntry n s
    else if fadingDue s.tuning.lostTime e then fadeEntry n s
    else s

/-! ### Retirement -/

/-- The pool without the open entry of a roster entry (R33). -/
def dropPool (n : Fin 200) (s : State) : State :=
  { s with combiner := { s.combiner with pool := mapTable s.combiner.pool fun _ x => match x with
    | some pe => if pe.entry = n then none else some pe
    | none => none } }

/-- A retirement with its effects on the other blocks (R46, R47). -/
def retireEntry (n : Fin 200) (s : State) : State :=
  let wasChair := s.floor.chair == some n
  let s := (freeSlot n (dropPool n s)).setSlot n none
  let s := if wasChair then { s with floor := { s.floor with chair := none } } else s
  let s := if wasChair && s.floor.cause == .chair then endHold s else s
  s.post .engine (.quietEntry n)

end Sys2Proof.Machine
end

