-- ==== Sys2Proof/Machine/Combiner.lean ====
section
/-! DEFINITION. Machine/Combiner.lean: the sighting combiner's operations (chapter 2): reading a sighting, strangers, newness, the
pool, closing and coverage, and the taking of a frame. -/

namespace Sys2Proof.Machine

/-! ### Reading a frame -/

/-- Byte i of a frame. -/
def frameByte (f : List Byte) (i : Nat) : Byte := f.getD i 0

/-- The kind codes of section 11.1. -/
def sightingKind : Byte := 0x61
def keepaliveKind : Byte := 0x6B

/-- A SIGHTING's Unit ID (R177). -/
def frameUnit (f : List Byte) : UnitId := (frameByte f 1 ++ frameByte f 2 ++ frameByte f 3 : BitVec (8 + 8 + 8))

/-- A SIGHTING's payload (section 11.1). -/
def framePayload (f : List Byte) : Payload where
  cell       := (frameByte f 5).toNat * 4 + (frameByte f 6).toNat / 64
  switchOpen := (frameByte f 6).getLsbD 5
  fast       := (frameByte f 6).getLsbD 4
  farewell   := (frameByte f 6).getLsbD 3

/-- The effective strength of a magnitude and an error count (R19). -/
def effectiveStrength (r e : Nat) : Int := -(max 20 (min 110 r) : Nat) - (2 * (e - 2) : Nat)

/-- The effective strength of a SIGHTING frame: magnitude in byte 7, error count in the upper half of byte 8. -/
def frameStrength (f : List Byte) : Int := effectiveStrength (frameByte f 7).toNat ((frameByte f 8).toNat / 16)

/-- What the combiner takes from a SIGHTING: port, Unit ID, beacon number, S, warming mark, payload. -/
structure Sighting where
  port    : Fin 4
  unit    : UnitId
  beacon  : Byte
  s       : Int
  warming : Bool
  payload : Payload
  deriving DecidableEq, Repr

/-- The sighting that an inbox frame of a port carries (R18, R19). -/
def sightingOf (p : Fin 4) (f : InboxFrame) : Sighting where
  port    := p
  unit    := frameUnit f.bytes
  beacon  := frameByte f.bytes 4
  s       := frameStrength f.bytes
  warming := f.warming
  payload := framePayload f.bytes

/-! ### Strangers -/

/-- The position of the record with the greatest age, the lowest among equals (R21). -/
def oldestStranger (v : Vector (Option Stranger) 8) : Option (Fin 8 × Nat) :=
  (List.finRange 8).foldl (fun (best : Option (Fin 8 × Nat)) i => match v[i], best with
    | some r, some (j, a) => if a < r.age then some (i, r.age) else some (j, a)
    | some r, none => some (i, r.age)
    | none, b => b) none

/-- A new stranger record (R21). -/
def Stranger.first (x : Sighting) : Stranger := ⟨x.unit, x.s, x.port, 0, 1⟩

/-- A record refreshed by a sighting (R21). -/
def Stranger.refreshed (r : Stranger) (x : Sighting) : Stranger :=
  { r with strength := x.s, port := x.port, age := 0, heard := min 255 (r.heard + 1) }

/-- The stranger table after a stranger sighting: refreshed, added at the lowest free position, or the oldest replaced (R21). -/
def strangersAfter (c : Combiner) (x : Sighting) : Vector (Option Stranger) 8 :=
  match c.strangerOf x.unit with
  | some i => setAt c.strangers i (c.strangers[i].map fun r => r.refreshed x)
  | none => match firstIndex fun i : Fin 8 => c.strangers[i].isNone with
    | some i => setAt c.strangers i (some (Stranger.first x))
    | none => match oldestStranger c.strangers with
      | some (i, _) => setAt c.strangers i (some (Stranger.first x))
      | none => c.strangers

/-- A stranger sighting is entered in the table (R21, R24). -/
def takeStranger (x : Sighting) (s : State) : State := s.strangersBecome (strangersAfter s.combiner x)

/-! ### Closing -/

/-- The best counted strength and its port, the lowest among equals; absent when every heard strength is warming (R31). -/
def bestCounted (v : Strengths) : Option (Int × Fin 4) :=
  (List.finRange 4).foldl (fun (best : Option (Int × Fin 4)) p => match v[p], best with
    | some ⟨x, false⟩, some (y, q) => if y < x then some (x, p) else some (y, q)
    | some ⟨x, false⟩, none => some (x, p)
    | some ⟨_, true⟩, b => b
    | none, b => b) none

/-- The observation that a pool entry hands over at closing (R31). -/
def PoolEntry.observation (e : PoolEntry) : Observation := ⟨e.beacon, e.payload, e.disagree, e.strengths, bestCounted e.strengths⟩

/-- A pool entry closes: its position is freed and its observation applied (R31). -/
def closeAt (i : Fin 12) (s : State) : State :=
  match s.combiner.pool[i] with
  | some e => applyObservation e.entry e.observation (s.setPool i none)
  | none => s

/-- A pool entry is covered: every receiving port has heard its beacon (R32). -/
def State.covered (s : State) (e : PoolEntry) : Bool :=
  (List.finRange 4).all fun p => !s.ports[p].state.receiving || e.strengths[p].isSome

/-- The coverage test of one position (R32). -/
def coverageTest (i : Fin 12) (s : State) : State :=
  match s.combiner.pool[i] with
  | some e => if s.covered e then closeAt i s else s
  | none => s

/-- The positions whose entries have a property, sorted by roster entry: entries that close together close in subject order
(R118; assumption log 11). -/
def Combiner.positions (c : Combiner) (p : PoolEntry → Bool) : List (Fin 12) :=
  (((List.finRange 12).filterMap fun i => match c.pool[i] with
    | some e => if p e then some (e.entry, i) else none
    | none => none).insertionSort fun a b => a.1 ≤ b.1).map (·.2)

/-- The coverage test of every open entry, made when a port stops being receiving (R32). -/
def recheckCoverage (s : State) : State := forList closeAt (s.combiner.positions s.covered) s

/-- Every open entry closes, at the change to DORMANT (R34). -/
def closeAll (s : State) : State := forList closeAt (s.combiner.positions fun _ => true) s

/-! ### Opening and joining -/

/-- The position with the least window remaining, the lowest among equals (R28). -/
def leastWindow (v : Vector (Option PoolEntry) 12) : Option (Fin 12 × Nat) :=
  (List.finRange 12).foldl (fun (best : Option (Fin 12 × Nat)) i => match v[i], best with
    | some e, some (j, w) => if e.window < w then some (i, e.window) else some (j, w)
    | some e, none => some (i, e.window)
    | none, b => b) none

/-- Room is made in a full pool (R28). -/
def makeRoom (s : State) : State :=
  match firstIndex fun i : Fin 12 => s.combiner.pool[i].isNone with
  | some _ => s
  | none => match leastWindow s.combiner.pool with
    | some (i, _) => closeAt i s
    | none => s

/-- A pool entry as it opens (R28). -/
def PoolEntry.opened (n : Fin 200) (window : Nat) (x : Sighting) : PoolEntry where
  entry     := n
  beacon    := x.beacon
  window    := window
  strengths := setAt noStrengths x.port (some ⟨x.s, x.warming⟩)
  best      := x.s
  payload   := x.payload
  disagree  := false

/-- A new sighting opens a pool entry at the lowest free position, and the coverage test follows (R28). Where room was made and the
new entry is covered as it opens, two observations are applied in one handling, the older first (R31), and the reports of both are
taken at its end (assumption log 26). -/
def openPool (n : Fin 200) (x : Sighting) (s : State) : State :=
  let s := makeRoom s
  match firstIndex fun i : Fin 12 => s.combiner.pool[i].isNone with
  | some i => coverageTest i (s.setPool i (some (PoolEntry.opened n s.tuning.window x)))
  | none => s

/-- A pool entry after a sighting of its beacon joins (R29). -/
def PoolEntry.joined (e : PoolEntry) (x : Sighting) : PoolEntry :=
  { e with
    disagree := e.disagree || x.payload != e.payload
    strengths := setAt e.strengths x.port (some ⟨x.s, x.warming⟩)
    best := if e.best < x.s then x.s else e.best
    payload := if e.best < x.s then x.payload else e.payload }

/-- A sighting joins its open pool entry, and the coverage test follows (R29). -/
def joinPool (i : Fin 12) (e : PoolEntry) (x : Sighting) (s : State) : State := coverageTest i (s.setPool i (some (e.joined x)))

/-- The position of a roster entry's open pool entry. -/
def Combiner.positionOf (c : Combiner) (n : Fin 200) : Option (Fin 12) :=
  firstIndex fun i => match c.pool[i] with
    | some e => e.entry == n
    | none => false

/-- A beacon number is ahead of a reference: at a distance of 1 to 127 (section 2.5). -/
def beaconAhead (b ref : Byte) : Bool := decide (1 ≤ (b - ref).toNat) && decide ((b - ref).toNat ≤ 127)

/-- With no pool entry open, a beacon is new against the entry's last beacon number and presence (R26). -/
def Entry.accepts (e : Entry) (b : Byte) : Bool :=
  match e.lastBeacon with
  | none => true
  | some l => e.presence == .lost || e.presence == .off || beaconAhead b l

/-- A sighting of an enrolled unit: it joins, supersedes, opens, or is stale and dropped (R26). A superseded entry's observation is
applied before the new entry opens (R31); their reports are taken together at the end of the handling (assumption log 26). -/
def takeEnrolled (n : Fin 200) (x : Sighting) (s : State) : State :=
  match s.combiner.positionOf n with
  | some i => (match s.combiner.pool[i] with
    | some e =>
      if x.beacon = e.beacon then joinPool i e x s
      else if beaconAhead x.beacon e.beacon then openPool n x (closeAt i s)
      else s
    | none => s)
  | none => (match s.roster[n] with
    | some e => if e.accepts x.beacon then openPool n x s else s
    | none => s)

/-- A sighting taken from a port is looked up and handled whole (R18, R20). -/
def takeSighting (x : Sighting) (s : State) : State :=
  match s.entryOfUnit x.unit with
  | some n => takeEnrolled n x s
  | none => takeStranger x s

/-! ### Taking frames -/

/-- A port offers its oldest frame (R6). -/
def AntennaPort.offers (p : AntennaPort) : Bool := !p.inbox.isEmpty

/-- The port the combiner takes from next, in rotation (R18). -/
def State.offeringPort (s : State) : Option (Fin 4) :=
  ((List.finRange 4).map fun i => s.combiner.nextPort + i).find? fun p => s.ports[p].offers

/-- A frame may be taken: the mode is RECESS or SESSION and a port offers one (R18). -/
def State.frameOffered (s : State) : Bool := s.mode != .dormant && s.offeringPort.isSome

/-- The combiner takes the oldest frame of the next port that offers one and handles it whole (R18). -/
def takeFrame (s : State) : State :=
  match s.offeringPort with
  | none => s
  | some p => match s.ports[p].inbox with
    | [] => s
    | f :: rest =>
      let s := s.setPort p { s.ports[p] with inbox := rest }
      let s := { s with combiner := { s.combiner with nextPort := p + 1 } }
      if frameByte f.bytes 0 = sightingKind then takeSighting (sightingOf p f) s else s

end Sys2Proof.Machine
end

