-- ==== Sys2Proof/Machine/Warnings.lean ====
section
/-! DEFINITION. Machine/Warnings.lean: the warning engine's operations (chapter 7): raise, clear, list, displace, readmit, quiet,
acknowledge, and the taking of the acts that the blocks have posted. -/

namespace Sys2Proof.Machine

/-! ### The table of warnings that are not QUIET -/

/-- Puts a record at its place in subject and class order, replacing the warning's earlier record. -/
def putRecord (r : WarnRecord) : List WarnRecord → List WarnRecord
  | [] => [r]
  | x :: xs =>
    if x.id = r.id then r :: xs
    else if r.id.key < x.id.key then r :: x :: xs
    else x :: putRecord r xs

/-- A warning takes a state and a stamp. -/
def Engine.put (g : Engine) (r : WarnRecord) : Engine := { g with warnings := putRecord r g.warnings }

/-- A warning goes QUIET and its stamp is discarded. -/
def Engine.drop (g : Engine) (id : WarnId) : Engine := { g with warnings := g.warnings.filter fun r => r.id != id }

/-! ### The attention list -/

/-- Inserts after every entry of equal or higher severity (R123). -/
def insertBySeverity (id : WarnId) : List WarnId → List WarnId
  | [] => [id]
  | x :: xs => if x.cls.severity < id.cls.severity then id :: x :: xs else x :: insertBySeverity id xs

/-- A warning raised from QUIET seeks a place: inserted, inserted by displacing the last entry, or left unlisted (R123). -/
def seekPlace (id : WarnId) (l : List WarnId) : List WarnId :=
  if l.length < Config.attentionSize then insertBySeverity id l
  else match l.getLast? with
    | some x => if x.cls.severity < id.cls.severity then insertBySeverity id l.dropLast else l
    | none => l

/-- The better of two candidates for readmission; on equal severity the earlier in subject and class order stays (R125). -/
def betterUnlisted (best : Option WarnRecord) (r : WarnRecord) : Option WarnRecord :=
  match best with
  | none => some r
  | some b => if b.id.cls.severity < r.id.cls.severity then some r else some b

/-- The unlisted warning that readmission chooses (R125). -/
def Engine.nextUnlisted (g : Engine) : Option WarnRecord := g.unlisted.foldl betterUnlisted none

/-- Readmission of one warning, where one is unlisted and a place is free (R125). -/
def Engine.readmit (g : Engine) : Engine :=
  if g.attention.length < Config.attentionSize then
    match g.nextUnlisted with
    | some r => { g with attention := insertBySeverity r.id g.attention }
    | none => g
  else g

/-- Readmission for several freed places, one at a time (R126). -/
def Engine.readmitMany : Nat → Engine → Engine
  | 0, g => g
  | k + 1, g => Engine.readmitMany k g.readmit

/-- A warning leaves the list, if it is listed, and readmission follows (R125). -/
def Engine.leave (g : Engine) (id : WarnId) : Engine :=
  if g.listed id then { g with attention := g.attention.filter fun x => x != id }.readmit else g

/-! ### Raises and clears -/

/-- A raise: the counter rises by one and the warning takes the new value as its stamp (R119, R120). A warning that was QUIET seeks
a place; one that was STANDING stays where it was. -/
def Engine.raise (g : Engine) (id : WarnId) : Engine :=
  match g.stateOf id with
  | none =>
    { g.put ⟨id, .raised, g.counter + 1⟩ with counter := g.counter + 1, attention := seekPlace id g.attention }
  | some .standing => { g.put ⟨id, .raised, g.counter + 1⟩ with counter := g.counter + 1 }
  | some .raised | some .noted => g

/-- A clear under the pending type of the warning's class (R121). -/
def Engine.clear (g : Engine) (t : PendingType) (id : WarnId) : Engine :=
  match g.find id with
  | some ⟨_, .raised, st⟩ =>
    (match t with
    | .selfClearing => (g.drop id).leave id
    | .latched => g.put ⟨id, .standing, st⟩)
  | some ⟨_, .noted, _⟩ => g.drop id
  | some ⟨_, .standing, _⟩ => g
  | none => g

/-- Several warnings go QUIET in one handling: all of them first, then readmission for the places freed (R126). -/
def Engine.quietAll (g : Engine) (sel : WarnRecord → Bool) : Engine :=
  let gone := (g.warnings.filter sel).map (·.id)
  let kept := g.attention.filter fun id => !gone.contains id
  Engine.readmitMany (g.attention.length - kept.length)
    { g with warnings := g.warnings.filter fun r => !sel r, attention := kept }

/-- The state an acknowledgement leaves: RAISED becomes NOTED and STANDING becomes QUIET (R128, R130). -/
def acknowledgedRecord (r : WarnRecord) : Option WarnRecord :=
  match r.state with
  | .raised => some { r with state := .noted }
  | .noted => some r
  | .standing => none

/-- The acknowledgement of one pending warning (R128). -/
def Engine.acknowledge (g : Engine) (r : WarnRecord) : Engine :=
  match acknowledgedRecord r with
  | some r' => (g.put r').leave r.id
  | none => (g.drop r.id).leave r.id

/-- The acknowledgement of every listed warning, with readmission after (R130). -/
def Engine.acknowledgeListed (g : Engine) : Engine :=
  Engine.readmitMany g.attention.length
    { g with
      warnings := g.warnings.filterMap fun r => if g.listed r.id then acknowledgedRecord r else some r
      attention := [] }

/-! ### Acts -/

/-- A subject can have a condition: an entry's slot must be occupied (R118). -/
def State.hasSubject (s : State) : Subject → Bool
  | .entry n => s.roster[n].isSome
  | .chamber | .port _ | .line _ => true

/-- The engine takes one report (R118, R119, R121). -/
def State.takeReport (s : State) (id : WarnId) (value : Bool) : State :=
  if s.hasSubject id.subject then
    { s with engine := if value then s.engine.raise id else s.engine.clear (pendingTypeOf s.tuning.pendingTypes id.cls) id }
  else s

/-- The STANDING battery warnings of an entry, which a replacement of cells quiets (R70). -/
def standingCells (n : Fin 200) (r : WarnRecord) : Bool :=
  r.id.subject == .entry n && (r.id.cls == .battLow || r.id.cls == .battCritical) && r.state == .standing

/-- The engine takes one act. The order of the two conditions of a joint report is open (assumption log 13). -/
def applyAct (s : State) : Act → State
  | .report id v => s.takeReport id v
  | .both id₁ v₁ id₂ v₂ =>
    let s := { s with choice := s.choice + 1 }
    if Config.freeChoice (s.choice - 1) % 2 = 0 then (s.takeReport id₁ v₁).takeReport id₂ v₂
    else (s.takeReport id₂ v₂).takeReport id₁ v₁
  | .quietCells n => { s with engine := s.engine.quietAll (standingCells n) }
  | .quietEntry n => { s with engine := s.engine.quietAll fun r => r.id.subject == .entry n }
  | .quietSitting => { s with engine := s.engine.quietAll fun r => r.id.cls.sitting }

/-- The blocks in one fixed listing. -/
def allBlocks : List Block := [.ports, .combiner, .roster, .battery, .signal, .floor, .engine, .lines]

/-- The acts that one block has posted, in the order it posted them. -/
def actsOf (l : List Posted) (b : Block) : List Act := (l.filter fun p => p.block == b).map (·.act)

/-- The engine takes everything posted, one act at a time: each block's in its own order, the blocks' in an open order (R118;
assumption log 4 and 12). -/
def State.takeReports (s : State) : State :=
  let posted := s.engine.posted
  (shuffle s.choice posted.length (allBlocks.map (actsOf posted))).foldl applyAct
    { s with engine := { s.engine with posted := [] }, choice := s.choice + posted.length }

end Sys2Proof.Machine
end

