-- ==== Sys2Proof/Machine/Lines.lean ====
section
/-! DEFINITION. Machine/Lines.lean: the indicator lines' operations (chapter 8): the following of sources at the end of each
handling, the commit, and the end of every handling (`finish`). -/

namespace Sys2Proof.Machine

/-- The LAMP_FAULT warning of a line. -/
def lampWarning (m : Fin 16) : WarnId := ⟨.line m, .lampFault⟩

/-- The activity and hold timer of a line that takes a source state (R143): a rise of an inactive line loads the hold timer; a fall
with the hold timer already at 0 makes the line inactive. -/
def Line.follow (l : Line) (src : Bool) : Line :=
  if src then
    if l.active then { l with source := true } else { l with source := true, active := true, hold := l.live.holdTime }
  else { l with source := false, active := l.active && !(l.source && l.hold == 0) }

/-- The sense times of a line after a handling (R151): both 0 out of use; in use, the one that the input contradicts is 0. -/
def State.restSense (s : State) (l : Line) : Line :=
  if s.senseInUse l then
    if s.senseAgrees l then { l with disagree := 0 } else { l with agree := 0 }
  else { l with disagree := 0, agree := 0 }

/-- One line takes up the state a handling leaves (section 8.2). -/
def State.settleLine (s : State) (l : Line) : Line := s.restSense (l.follow (s.sourceState l.live.source))

/-- Every line takes up the state a handling leaves. -/
def settleLines (s : State) : State :=
  { s with lines := { s.lines with line := mapTable s.lines.line fun _ l => s.settleLine l } }

/-- The end of a handling: the engine takes what the blocks have posted, and the lines follow. -/
def finish (s : State) : State := settleLines s.takeReports

/-- A line whose configuration a commit changes (R149): the staged configuration is in force, hold timer and sense times are 0,
the condition is false. -/
def Line.committed (l : Line) : Line :=
  { l with live := l.staged, hold := 0, disagree := 0, agree := 0, fault := false }

/-- A line whose hold timer has been set to 0 is active while its source is active, and inactive otherwise (R143). -/
def Line.unheld (l : Line) (src : Bool) : Line := { l with source := src && l.active, active := l.active && src }

/-- A commit changes a line's configuration (R139, R149). -/
def Line.changes (l : Line) : Bool := l.live != l.staged

/-- The commit (R149): all staged configurations copied together; changed lines reset and their LAMP_FAULT conditions reported
false, in subject order; then each changed line derived from its new configuration. -/
def commit (s : State) : State :=
  let old := s.lines.line
  let s := { s with lines := { s.lines with
    commitPending := false
    line := mapTable old fun _ l => if l.changes then l.committed else l } }
  let s := forEach (fun m s => if old[m].changes then s.postChange .lines (lampWarning m) old[m].fault false else s) s
  let s := s.takeReports
  { s with lines := { s.lines with
    line := mapTable s.lines.line fun m l => if old[m].changes then l.unheld (s.sourceState l.live.source) else l } }

end Sys2Proof.Machine
end

