-- ==== Sys2Proof/Machine/Modes.lean ====
section
/-! DEFINITION. Machine/Modes.lean: the mode controller's operations (chapter 9) and the two resets. -/

namespace Sys2Proof.Machine

/-! ### Waking -/

/-- An entry at a wake: its age restarts at 0 (R57). -/
def Entry.woken (e : Entry) : Entry := { e with age := 0 }

/-- A port at a wake: an enabled port's silence timer restarts at 0 (R15). -/
def AntennaPort.woken (p : AntennaPort) : AntennaPort := if p.enabled then { p with silence := 0 } else p

/-- A line at a wake: its sense times count from 0 (R153, R164). -/
def Line.woken (l : Line) : Line := { l with disagree := 0, agree := 0 }

/-- The wake to RECESS (R164). What was due when the clock stopped, and is no timer that the wake restarts, is due again at once: so a
blink boundary, with a pending commit, and a sweep visit (assumption log 30). -/
def wake (s : State) : State :=
  { s with
    mode := .recess
    clockRunning := true
    ports := mapTable s.ports fun _ p => p.woken
    roster := mapTable s.roster fun _ e => e.map Entry.woken
    floor := { s.floor with stability := 0 }
    lines := { s.lines with line := mapTable s.lines.line fun _ l => l.woken } }

/-- A command wakes a DORMANT part before it is carried out (R163). -/
def wakeIfDormant (s : State) : State :=
  match s.mode with
  | .dormant => wake s
  | .recess | .session => s

/-! ### Changes of mode -/

/-- A mode published to every block. -/
def State.setMode (s : State) (m : Mode) : State := { s with mode := m }

/-- The roster and the signal evaluator report the conditions that a change of mode changed for one entry (R56, R89). -/
def reportSitting (old new : Mode) (n : Fin 200) (s : State) : State :=
  match s.roster[n] with
  | none => s
  | some e =>
    (s.postChange .roster (unitWarning n .sigLost) (sigLostCond old e) (sigLostCond new e)).postChange .signal
      (unitWarning n .sigWeak) (sigWeakCond old e) (sigWeakCond new e)

/-- The change to SESSION (R159): conditions reported, hot-mic timers started, and a chair's claim taken up (R114). -/
def enterSession (s : State) : State :=
  let s := s.setMode .session
  let s := forEach (reportSitting .recess .session) s
  let s := forEach deriveHot s
  followClaim s

/-- The change from SESSION to RECESS (R159): conditions reported false, the floor emptied (R114), and the four sitting classes
forced QUIET (R127). -/
def leaveSession (s : State) : State :=
  let s := s.setMode .recess
  let s := forEach (reportSitting .session .recess) s
  let s := floorLeavesSession s
  s.post .engine .quietSitting

/-- The recess effects of an entry into DORMANT (R160, step 1), complete before the next step. -/
def recessEffects (s : State) : State :=
  match s.mode with
  | .session => (leaveSession s).takeReports
  | .recess | .dormant => s

/-- The clock stops (R160, step 3). A limit reached in this very millisecond and not yet taken stands through the rest, a blink boundary
and a sweep visit among them, and is taken after the wake where it is still reached (assumption log 30). -/
def stopClock (s : State) : State := { s with mode := .dormant, clockRunning := false }

/-- The entry into DORMANT (R160). -/
def enterDormant (s : State) : State := stopClock (closeAll (recessEffects s)).takeReports

/-! ### Resets -/

/-- A device reset begins: every block at its device-reset state, the clock stopped, the input pins as the world holds them, and
the rows that wait unchanged (R16, R35, R58, R80, R93, R115, R137, R154, R176). -/
def deviceReset (s : State) : State :=
  { State.reset with
    inReset := true
    clockRunning := false
    floor := Floor.reset s.floor.pinHigh
    lines := { Lines.reset with line := mapTable s.lines.line fun _ l => Line.reset l.sense }
    command := CommandPort.reset s.command.csLow
    choice := s.choice
    pending := s.pending }

/-- A device reset ends: RECESS, the clock running (R156). -/
def endReset (s : State) : State := { s with inReset := false, mode := .recess, clockRunning := true }

/-- A port at CHAMBER_RESET (R17, R7). -/
def AntennaPort.chamberReset (p : AntennaPort) : AntennaPort :=
  if p.enabled then { p with state := .warming, warmUp := 0, silence := 0, inbox := [], congested := false }
  else { p with state := .off, warmUp := 0, silence := 0, inbox := [], congested := false }

/-- An entry at CHAMBER_RESET: keys, group and profile number kept (R59). -/
def Entry.chamberReset (e : Entry) : Entry := Entry.fresh e.unit e.seat e.group e.battery.profile

/-- A line at CHAMBER_RESET: configurations kept, hold timer, sense times and condition cleared (R155). -/
def Line.chamberReset (l : Line) : Line := { l with hold := 0, disagree := 0, agree := 0, fault := false }

/-- The floor arbiter at CHAMBER_RESET: capacity, designation and pin kept (R116). -/
def Floor.chamberReset (f : Floor) : Floor := { Floor.reset f.pinHigh with capacity := f.capacity, chair := f.chair }

/-- CHAMBER_RESET (R175). Each line is then judged from its live configuration and the state the other blocks have reached. -/
def chamberResetAll (s : State) : State :=
  let s := { s with
    mode := .recess
    clockRunning := true
    ports := mapTable s.ports fun _ p => p.chamberReset
    combiner := Combiner.reset
    roster := mapTable s.roster fun _ e => e.map Entry.chamberReset
    sweep := none
    sweepDue := false
    floor := s.floor.chamberReset
    engine := Engine.reset
    lines := { line := mapTable s.lines.line fun _ l => l.chamberReset, commitPending := false, phase := 0, boundaryDue := false } }
  { s with lines := { s.lines with line := mapTable s.lines.line fun _ l => l.unheld (s.sourceState l.live.source) } }

end Sys2Proof.Machine
end

