-- ==== Sys2Proof/Machine/Operands.lean ====
section
/-! DEFINITION. Machine/Operands.lean: the reading of command parameters (ranges, enumerations, clamps) and the layouts of replies
(chapter 11). -/

namespace Sys2Proof.Machine

/-! ### Codes -/

/-- Status codes (section 11.3). -/
def Status.code : Status → Byte
  | .ok => 0x00
  | .adjusted => 0x01
  | .noEntry => 0x10
  | .duplicateUnit => 0x11
  | .seatTaken => 0x12
  | .rosterFull => 0x13
  | .floorFull => 0x20
  | .noFloor => 0x21
  | .held => 0x22
  | .notInSession => 0x23
  | .isChair => 0x24
  | .occupied => 0x25
  | .busy => 0x30
  | .stale => 0x31
  | .notPending => 0x32
  | .badArg => 0x40
  | .unknownCommand => 0x7F

/-- Answer codes (R177). -/
def Answer.code : Answer → Byte
  | .taken => 0xC1
  | .hold => 0xC2
  | .reject => 0xC3
  | .wake => 0xC4

/-- The enumerations of section 11.2. -/
def Mode.code : Mode → Byte
  | .recess => 0
  | .session => 1
  | .dormant => 2

def Cause.code : Cause → Byte
  | .none => 0
  | .chair => 1
  | .silence => 2

def PortState.code : PortState → Byte
  | .off => 0
  | .warming => 1
  | .up => 2
  | .silent => 3

def Presence.code : Presence → Byte
  | .awaited => 0
  | .live => 1
  | .fading => 2
  | .lost => 3
  | .off => 4

def Switch.code : Switch → Byte
  | .unknown => 0
  | .opened => 1
  | .closed => 2

def BattLevel.code : BattLevel → Byte
  | .unknown => 0
  | .ok => 1
  | .low => 2
  | .critical => 3
  | .exhausted => 4

def SigLevel.code : SigLevel → Byte
  | .unknown => 0
  | .good => 1
  | .weak => 2
  | .poor => 3

/-- A warning state, QUIET included (section 11.2). -/
def warnStateCode : Option ActiveState → Byte
  | none => 0
  | some .raised => 1
  | some .noted => 2
  | some .standing => 3

def PendingType.code : PendingType → Nat
  | .latched => 0
  | .selfClearing => 1

/-- The kind and index of a subject (section 11.2; index 0 for the chamber, section 11.6). -/
def Subject.kindCode : Subject → Byte
  | .chamber => 0
  | .port _ => 1
  | .line _ => 2
  | .entry _ => 3

def Subject.indexCode : Subject → Byte
  | .chamber => 0
  | .port p => BitVec.ofNat 8 p.1
  | .line m => BitVec.ofNat 8 m.1
  | .entry n => BitVec.ofNat 8 n.1

/-! ### Replies -/

/-- A flag byte: 0 off or clear, 1 on or set. -/
def flagByte (b : Bool) : Byte := if b then 1 else 0

/-- A one-byte number. -/
def natByte (n : Nat) : Byte := BitVec.ofNat 8 n

/-- A two-byte number, most significant byte first. -/
def natWord (n : Nat) : List Byte := bytesOfWord (BitVec.ofNat 16 n)

/-- A reply with status OK. -/
def okReply (data : List Byte) : Reply := ⟨.ok, data⟩

/-- A refusal: the command's full length of reply data, every byte 0x00 (R171). -/
def refusal (st : Status) (len : Nat) : Reply := ⟨st, List.replicate len 0⟩

/-- A reply that is ADJUSTED where a value was clamped or rounded, and OK otherwise (R171). -/
def storedReply (adjusted : Bool) (data : List Byte) : Reply := ⟨if adjusted then .adjusted else .ok, data⟩

/-! ### Parameters -/

/-- An entry number in range (section 11.2). -/
def entryNumber (b : Byte) : Option (Fin 200) := if h : b.toNat < 200 then some ⟨b.toNat, h⟩ else none

/-- A port number in range. -/
def portNumber (b : Byte) : Option (Fin 4) := if h : b.toNat < 4 then some ⟨b.toNat, h⟩ else none

/-- A line number in range. -/
def lineNumber (b : Byte) : Option (Fin 16) := if h : b.toNat < 16 then some ⟨b.toNat, h⟩ else none

/-- A group number in range. -/
def groupNumber (b : Byte) : Option (Fin 8) := if h : b.toNat < 8 then some ⟨b.toNat, h⟩ else none

/-- A profile number in range. -/
def profileNumber (b : Byte) : Option (Fin 4) := portNumber b

/-- A stranger table position in range. -/
def strangerPosition (b : Byte) : Option (Fin 8) := groupNumber b

/-- A live slot number in range. -/
def slotNumber (b : Byte) : Option (Fin 6) := if h : b.toNat < 6 then some ⟨b.toNat, h⟩ else none

/-- A seat in range (section 3.1). -/
def seatNumber (b : Byte) : Option Nat := if 1 ≤ b.toNat ∧ b.toNat ≤ 250 then some b.toNat else none

/-- Seat, group and profile in range together (R38, R40, R44). -/
def placeOf (seat group profile : Byte) : Option (Nat × Fin 8 × Fin 4) :=
  match seatNumber seat, groupNumber group, profileNumber profile with
  | some s, some g, some p => some (s, g, p)
  | _, _, _ => none

/-- A subject by its kind and index; the index of the chamber is ignored (R128). -/
def subjectOf (kind index : Byte) : Option Subject :=
  match kind.toNat with
  | 0 => some .chamber
  | 1 => (portNumber index).map .port
  | 2 => (lineNumber index).map .line
  | 3 => (entryNumber index).map .entry
  | _ => none

/-- A warning by subject kind, index and class, where the class names that kind (R128). -/
def warningOf (kind index cls : Byte) : Option WarnId :=
  match WClass.ofCode cls.toNat, subjectOf kind index with
  | some c, some x => if c.names x then some ⟨x, c⟩ else none
  | _, _ => none

/-- An on/off value judged on the whole four bytes (R179). -/
def onOffValue (v : BitVec 32) : Option Bool :=
  match v.toNat with
  | 0 => some false
  | 1 => some true
  | _ => none

/-- A pending-type value judged on the whole four bytes (R122, R179). -/
def pendingTypeValue (v : BitVec 32) : Option PendingType :=
  match v.toNat with
  | 0 => some .latched
  | 1 => some .selfClearing
  | _ => none

/-- The class of a pending-type item (section 11.8). -/
def pendingItemClass (item : Byte) : Option WClass :=
  match item.toNat with
  | 12 => some .sigLost
  | 13 => some .battCritical
  | 14 => some .receiverSilent
  | 15 => some .sigWeak
  | 16 => some .hotMic
  | 17 => some .battLow
  | _ => none

/-- A numeric tuning value clamped to its range and rounded down to a whole step counted from 0 (R172, R179). -/
def adjustValue (lo hi step v : Int) : Int := clampInt lo hi v - (clampInt lo hi v) % step

/-- A parameter field clamped to a range (R62). -/
def clampNat (lo hi v : Nat) : Nat := min hi (max lo v)

/-! ### SET_PROFILE -/

/-- The three codes of a profile are in range and strictly ordered (R62). -/
def profileCodesOk (r : RawProfile) : Bool :=
  decide (r.vl.toNat < 32) && decide (r.ve.toNat < r.vc.toNat) && decide (r.vc.toNat < r.vl.toNat)

/-- The profile stored, with its numeric fields brought into range (R62). -/
def adjustedProfile (r : RawProfile) : Profile where
  vl := r.vl.toNat
  vc := r.vc.toNat
  ve := r.ve.toNat
  h  := min 300 r.h.toNat / 10 * 10
  k  := clampNat 1 4 r.k.toNat
  nd := clampNat 1 15 r.nd.toNat
  nu := clampNat 1 15 r.nu.toNat
  j  := clampNat 100 1000 r.j.toNat

/-- A numeric field was clamped or rounded (R62). -/
def profileWasAdjusted (r : RawProfile) : Bool :=
  let p := adjustedProfile r
  p.h != r.h.toNat || p.k != r.k.toNat || p.nd != r.nd.toNat || p.nu != r.nu.toNat || p.j != r.j.toNat

/-- The profile fields of a reply (section 11.6). -/
def profileBytes (p : Profile) : List Byte :=
  [natByte p.vl, natByte p.vc, natByte p.ve] ++ natWord p.h ++ [natByte p.k, natByte p.nd, natByte p.nu] ++ natWord p.j

/-! ### Line configurations -/

/-- The scope of a WARNING source; `none` where the kind is no value or the index is out of range (R147). -/
def scopeOf (kind index : Byte) : Option Scope :=
  match kind.toNat with
  | 0 => some .anyUnit
  | 1 => (groupNumber index).map .group
  | 2 => (entryNumber index).map .entry
  | 3 => (portNumber index).map .port
  | 4 => (lineNumber index).map .line
  | 5 => some .chamber
  | _ => none

/-- The source of a configuration as carried (R139, R147). -/
def sourceOf (r : RawLineConfig) : Option Source :=
  match r.source.toNat with
  | 0 => some .off
  | 1 => some .on
  | 2 => (scopeOf r.scope r.scopeIndex).map fun sc => .warning sc (r.classSet.setWidth 9) (r.noted != 0)
  | 3 => (slotNumber r.sourceIndex).map .gate
  | 4 => some .chairSpeaking
  | 5 => some .hold
  | 6 => if 1 ≤ r.sourceIndex.toNat ∧ r.sourceIndex.toNat ≤ 5 then some (.attention r.sourceIndex.toNat) else none
  | 7 => some .session
  | _ => none

/-- The display of a code (section 11.7). -/
def displayOf (b : Byte) : Option Display :=
  match b.toNat with
  | 0 => some .steady
  | 1 => some .slow
  | 2 => some .fast
  | 3 => some .alert
  | _ => none

/-- The polarity of a code (section 11.7). -/
def polarityOf (b : Byte) : Option Polarity :=
  match b.toNat with
  | 0 => some .activeHigh
  | 1 => some .activeLow
  | _ => none

/-- The hold unit of a code (section 11.7). -/
def holdUnitOf (b : Byte) : Option HoldUnit :=
  match b.toNat with
  | 0 => some .ms1
  | 1 => some .ms10
  | 2 => some .ms100
  | _ => none

/-- A configuration as carried; `none` where STAGE_LINE refuses it (R147, R178). -/
def lineConfigOf (r : RawLineConfig) : Option LineConfig :=
  match sourceOf r, displayOf r.display, polarityOf r.polarity, holdUnitOf r.holdUnit with
  | some src, some d, some p, some u => some ⟨src, d, p, r.holdCount.toNat, u, r.sense != 0⟩
  | _, _, _, _ => none

/-- The two bytes of a scope (section 11.7). -/
def scopeBytes : Scope → List Byte
  | .anyUnit => [0, 0]
  | .group g => [1, natByte g.1]
  | .entry n => [2, natByte n.1]
  | .port p => [3, natByte p.1]
  | .line m => [4, natByte m.1]
  | .chamber => [5, 0]

/-- The first seven bytes of a stored configuration (section 11.7); scope, class set and Include NOTED read as ANY_UNIT, empty and
off for a source other than WARNING (R139). -/
def sourceBytes : Source → List Byte
  | .off => [0, 0, 0, 0, 0, 0, 0]
  | .on => [1, 0, 0, 0, 0, 0, 0]
  | .warning sc cs noted => [2, 0] ++ scopeBytes sc ++ bytesOfWord (cs.setWidth 16) ++ [flagByte noted]
  | .gate k => [3, natByte k.1, 0, 0, 0, 0, 0]
  | .chairSpeaking => [4, 0, 0, 0, 0, 0, 0]
  | .hold => [5, 0, 0, 0, 0, 0, 0]
  | .attention v => [6, natByte v, 0, 0, 0, 0, 0]
  | .session => [7, 0, 0, 0, 0, 0, 0]

def Display.code : Display → Byte
  | .steady => 0
  | .slow => 1
  | .fast => 2
  | .alert => 3

def Polarity.code : Polarity → Byte
  | .activeHigh => 0
  | .activeLow => 1

def HoldUnit.code : HoldUnit → Byte
  | .ms1 => 0
  | .ms10 => 1
  | .ms100 => 2

/-- The twelve bytes of a stored configuration (section 11.7). -/
def lineConfigBytes (c : LineConfig) : List Byte :=
  sourceBytes c.source ++
    [c.display.code, c.polarity.code, natByte c.holdCount, c.holdUnit.code, flagByte c.senseCheck]

/-- READ_LINE's reply data (R150, section 11.7). -/
def State.lineRecord (s : State) (l : Line) : List Byte :=
  lineConfigBytes l.live ++ lineConfigBytes l.staged ++
    [flagByte l.source, flagByte l.active, flagByte (s.lineLit l), flagByte (s.lineDriven l)] ++ natWord l.hold ++
    [flagByte l.sense, flagByte l.fault]

/-! ### The entry record and the other records -/

/-- A strength as a byte: the magnitude −S, or 0x00 when absent (section 11.2). -/
def strengthByte : Option PortStrength → Byte
  | some x => natByte x.s.natAbs
  | none => 0

/-- The warming marks of four ports, bit p for port p (section 11.5). -/
def warmingBits (v : Strengths) : Byte :=
  (List.finRange 4).foldl (fun b p => match v[p] with
    | some ⟨_, true⟩ => b ||| BitVec.ofNat 8 (2 ^ p.1)
    | some ⟨_, false⟩ => b
    | none => b) 0

/-- A margin as a byte: two's complement, 0x80 when absent (section 11.2). -/
def marginByte : Option Int → Byte
  | some q => BitVec.ofInt 8 q
  | none => 0x80

/-- A two-byte field that reads 0xFFFF when absent. -/
def optWord : Option Nat → List Byte
  | some n => natWord n
  | none => [0xFF, 0xFF]

/-- The expected interval (section 11.5). -/
def intervalByte : Option BeaconInterval → Byte
  | some .fast => 1
  | some .slow => 5
  | none => 0xFF

/-- The floor place of an entry: kind and slot number (section 11.5). -/
def Floor.placeBytes (f : Floor) (n : Fin 200) : List Byte :=
  match f.liveSlotOf n, f.heldSlotOf n with
  | some k, _ => [1, natByte k.1]
  | none, some k => [2, natByte k.1]
  | none, none => [0, 0]

/-- The four bytes of one warning of an entry (section 11.5). -/
def Engine.warningBytes (g : Engine) (id : WarnId) : List Byte :=
  match g.find id with
  | some r => warnStateCode (some r.state) :: bytesOfWord r.stamp ++ [flagByte (g.listed id)]
  | none => [0, 0, 0, 0]

/-- The flags byte of an entry (section 11.5). -/
def State.entryFlags (s : State) (n : Fin 200) (e : Entry) : Byte :=
  natByte ((if e.disagree then 1 else 0) + (if e.muted then 2 else 0) + (if s.floor.chair = some n then 4 else 0) +
    (if s.speaking n then 8 else 0))

/-- READ_ENTRY's reply data (R43, section 11.5). -/
def State.entryRecord (s : State) (n : Fin 200) (e : Entry) : List Byte :=
  bytesOfUnit e.unit ++ [natByte e.seat, natByte e.group.1, e.presence.code] ++ natWord e.age ++ [intervalByte e.interval] ++
    optWord (e.lastBeacon.map (·.toNat)) ++ [e.switch.code, s.entryFlags n e] ++
    ((List.finRange 4).map fun p => strengthByte e.strengths[p]) ++ [warmingBits e.strengths, natByte e.battery.profile.1] ++
    optWord e.battery.lastCell ++ optWord e.battery.filtered ++
    [e.battery.level.code] ++
    (match e.battery.pending with
      | some c => [c.level.code, natByte c.count]
      | none => [0, 0]) ++
    [marginByte e.signal.margin, e.signal.level.code, (match e.signal.serving with
      | some p => natByte p.1
      | none => 0xFF)] ++
    s.floor.placeBytes n ++ optWord (e.hot.map (·.elapsed)) ++
    unitClasses.flatMap fun c => s.engine.warningBytes (unitWarning n c)

/-- One stranger record (section 11.6). -/
def strangerBytes : Option Stranger → List Byte
  | some r => bytesOfUnit r.unit ++ [natByte r.strength.natAbs, natByte r.port.1] ++ natWord r.age ++ [natByte r.heard]
  | none => [0, 0, 0, 0, 0, 0, 0, 0]

/-- READ_STRANGERS' reply data (R25). -/
def State.strangersRecord (s : State) : List Byte := (List.finRange 8).flatMap fun i => strangerBytes s.combiner.strangers[i]

/-- READ_PORT's reply data (R14, section 11.6). -/
def AntennaPort.record (p : AntennaPort) : List Byte :=
  [flagByte p.enabled, p.state.code] ++ natWord p.warmUp ++ natWord p.silence ++ [natByte p.inbox.length, flagByte p.congested]

/-- The attention entry at a position (section 11.6); an empty position reads all 0xFF. -/
def Engine.attentionEntry (g : Engine) (i : Nat) : List Byte :=
  match g.attention[i]? with
  | some id =>
    (match g.find id with
    | some r => [id.subject.kindCode, id.subject.indexCode, natByte id.cls.code, warnStateCode (some r.state),
        natByte id.cls.severity] ++ bytesOfWord r.stamp
    | none => List.replicate 7 0xFF)
  | none => List.replicate 7 0xFF

/-- READ_ATTENTION's reply data (R131). -/
def Engine.attentionRecord (g : Engine) (i : Nat) : List Byte :=
  [natByte g.attention.length, flagByte g.overflow] ++ g.attentionEntry i

/-- READ_STATUS' reply data (R174, section 11.6). -/
def State.statusRecord (s : State) : List Byte :=
  [s.mode.code, s.floor.cause.code, natByte s.entryCount, natByte s.engine.attention.length, flagByte s.engine.overflow,
    (match s.sweep with
      | some w => natByte w.position.1
      | none => 0xFF),
    flagByte s.lines.commitPending, flagByte s.floor.asserted, Config.vendorCode] ++ bytesOfWord Config.partCode ++
    [Config.revision]

/-- The stored value of a tuning item (R173, section 11.8); `none` for a number that names no item. -/
def tuningValue (t : Tuning) (item : Byte) : Option (BitVec 32) :=
  match item.toNat with
  | 1 => some (BitVec.ofNat 32 t.silenceTime)
  | 2 => some (BitVec.ofNat 32 t.window)
  | 3 => some (BitVec.ofNat 32 t.lostTime)
  | 4 => some (BitVec.ofInt 32 t.signalFloor)
  | 5 => some (BitVec.ofNat 32 t.shift)
  | 6 => some (BitVec.ofInt 32 t.weak)
  | 7 => some (BitVec.ofInt 32 t.poor)
  | 8 => some (BitVec.ofNat 32 t.silentTime)
  | 9 => some (BitVec.ofNat 32 t.autoRevoke.toNat)
  | 10 => some (BitVec.ofNat 32 t.hotDelay)
  | 11 => some (BitVec.ofNat 32 t.priority.toNat)
  | 12 => some (BitVec.ofNat 32 t.pendingTypes.sigLost.code)
  | 13 => some (BitVec.ofNat 32 t.pendingTypes.battCritical.code)
  | 14 => some (BitVec.ofNat 32 t.pendingTypes.receiverSilent.code)
  | 15 => some (BitVec.ofNat 32 t.pendingTypes.sigWeak.code)
  | 16 => some (BitVec.ofNat 32 t.pendingTypes.hotMic.code)
  | 17 => some (BitVec.ofNat 32 t.pendingTypes.battLow.code)
  | 18 => some (t.irqMask.setWidth 32)
  | _ => none

end Sys2Proof.Machine
end

