-- ==== Sys2Proof/Machine/CommandPort.lean ====
section
/-! DEFINITION. Machine/CommandPort.lean: the command port (chapter 10): the bytes on its wire, the order of commands, the one
operation through which every command is carried out (`runCommand`) and the one through which every event occurs (`occur`), and
the meanings of the wire's rows. -/

namespace Sys2Proof.Machine

/-! ### How an event occurs -/

/-- An event occurs where it is due and RESET_N is high; the warning engine and the lines follow within the same handling. An event
that is not due has no effect (assumption log 3). -/
def occur (due : Bool) (f : State → State) (s : State) : Host.Outcome State Fault Refusal :=
  .next (if s.inReset || !due then s else finish (f s))

/-! ### How a command is carried out -/

/-- The command in progress has been carried out and its reply formed: the reply is held for its own transaction only (R167), and
the place of the command in progress is free unless a command waits (R169; assumption log 23). -/
def CommandPort.carriedOut (c : CommandPort) (t : Taken) (r : Reply) : CommandPort :=
  { c with
    reply := if t.owned then some r else c.reply
    inProgress := match c.waiting with
      | none => none
      | some _ => some { t with done := true }
    lastReply := some r }

/-- The command in progress is the given row, not yet carried out. -/
def CommandPort.isCarrying (c : CommandPort) (i : Instr) : Option Taken :=
  c.inProgress.filter fun t => !t.done && rowOf t.code t.params == i

/-- A command has been carried out: its reply goes to the command in progress it was, if it was one (R167, R168; assumption log 1). -/
def complete (i : Instr) (r : Reply) (s : State) : State :=
  { s with command := match s.command.isCarrying i with
    | some t => s.command.carriedOut t r
    | none => { s.command with lastReply := some r } }

/-- What a command does: it answers with no effect that another block follows (a refusal, a reading, a setting stored for later), or
it acts on the part, and the warning engine and the lines follow before the reply is formed. -/
inductive Handling where
  | answered (s : State) (r : Reply)
  | acted (s : State) (r : Reply)
  deriving DecidableEq, Repr

/-- A refusal: nothing in the part changes (R171). -/
def refuse (s : State) (st : Status) (len : Nat) : Handling := .answered s (refusal st len)

/-- The end of a command's handling: every effect complete, then the reply (R167). -/
def Handling.conclude (i : Instr) : Handling → State
  | .answered s r => complete i r s
  | .acted s r => complete i r (finish s)

/-- A command is carried out: it wakes a DORMANT part first (R163; for the moment of the wake, assumption log 31), then acts. While
RESET_N is low nothing is carried out (R176). -/
def runCommand (i : Instr) (body : State → Handling) (s : State) : Host.Outcome State Fault Refusal :=
  .next (if s.inReset then s else (body (wakeIfDormant s)).conclude i)

/-- SET_MODE DORMANT, the one command that does not wake the part (R158, R163). -/
def runDormantCommand (i : Instr) (body : State → Handling) (s : State) : Host.Outcome State Fault Refusal :=
  .next (if s.inReset then s else (body s).conclude i)

/-! ### The wire -/

/-- The bytes of a reply after the marker: the status, then the reply data (R167). -/
def Reply.bytes (r : Reply) : List Byte := r.status.code :: r.data

/-- CS_N falls: a transaction begins (R166, R167). -/
def CommandPort.selected (c : CommandPort) : CommandPort :=
  { c with csLow := true, phase := .collecting, collected := [], reply := none, sent := 0, miso := none }

/-- CS_N rises: the transaction ends, and what it had not yet clocked out is lost; a command taken is carried out all the same
(R167, R168). -/
def CommandPort.released (c : CommandPort) : CommandPort :=
  { c with
    csLow := false, phase := .idle, collected := [], reply := none, sent := 0, miso := none
    inProgress := c.inProgress.map fun t => { t with owned := false }
    waiting := c.waiting.map fun t => { t with owned := false } }

/-- The bytes collected make a whole command: an unknown code alone, or a known one with its parameter bytes (R167, R170). -/
def commandWhole (bytes : List Byte) : Bool :=
  match bytes with
  | [] => false
  | code :: ps => !knownCode code || ps.length == paramLength code

/-- Both places are full: a command in progress, and another waiting (R169). -/
def CommandPort.full (c : CommandPort) : Bool := c.inProgress.isSome && c.waiting.isSome

/-- A command is refused at the port: BUSY at once, with its reply data all 0x00 (R169). -/
def CommandPort.refusedBusy (c : CommandPort) (code : Byte) : CommandPort :=
  { c with phase := .awaiting, collected := [], reply := some (refusal .busy (replyLength code)) }

/-- A command is taken: it becomes the command in progress, or waits behind it (R169). -/
def CommandPort.taken (c : CommandPort) (t : Taken) : CommandPort :=
  match c.inProgress with
  | none => { c with phase := .awaiting, collected := [], inProgress := some t }
  | some _ => { c with phase := .awaiting, collected := [], waiting := some t }

/-- A byte is collected; the one that makes the command whole has it taken, or refused BUSY (R167, R169). -/
def CommandPort.collect (c : CommandPort) (b : Byte) : CommandPort :=
  let c := { c with miso := some 0 }
  let bytes := c.collected ++ [b]
  if commandWhole bytes then
    match bytes with
    | code :: ps => if c.full then c.refusedBusy code else c.taken ⟨code, ps, true, false⟩
    | [] => c
  else { c with collected := bytes }

/-- A byte is clocked out after the command's last byte (R167). -/
def CommandPort.clockOut (c : CommandPort) : CommandPort :=
  match c.phase, c.reply with
  | .awaiting, none => { c with miso := some 0 }
  | .awaiting, some _ => { c with phase := .replying, miso := some Config.readyMarker, sent := 0 }
  | .replying, some r =>
    { c with
      miso := some (r.bytes.getD c.sent 0xFF)
      sent := c.sent + 1
      phase := if c.sent + 1 < r.bytes.length then .replying else .trailing }
  | .trailing, _ => { c with miso := some 0xFF }
  | _, _ => c

/-- A byte completes in a transaction (R166, R167). With CS_N held low since before the end of a reset no transaction is open: bytes
are ignored (R176), and MISO stays at high impedance until the next fall (assumption log 29). -/
def CommandPort.byte (c : CommandPort) (b : Byte) : CommandPort :=
  match c.phase with
  | .idle => c
  | .collecting => c.collect b
  | .awaiting | .replying | .trailing => c.clockOut

/-- The byte would complete a command that the port refuses BUSY (R169). -/
def CommandPort.busyDue (c : CommandPort) (b : Byte) : Bool :=
  c.csLow && c.phase == .collecting && c.full && commandWhole (c.collected ++ [b])

/-- The command in progress is complete and another waits (R169). -/
def CommandPort.handOverDue (c : CommandPort) : Bool :=
  c.waiting.isSome && (match c.inProgress with
    | some t => t.done
    | none => true)

/-- The waiting command becomes the command in progress (R169). -/
def CommandPort.handOver (c : CommandPort) : CommandPort := { c with inProgress := c.waiting, waiting := none }

/-! ### The meanings of the wire's rows -/

/-- CS_N falls (R166). While RESET_N is low only the level of the pin changes, and no transaction begins until the next fall
(R176). -/
def execCsNFall (s : State) : Host.Outcome State Fault Refusal :=
  .next (if s.command.csLow then s
    else if s.inReset then { s with command := { s.command with csLow := true } }
    else { s with command := s.command.selected })

/-- CS_N rises (R166, R168). -/
def execCsNRise (s : State) : Host.Outcome State Fault Refusal :=
  .next (if s.inReset then { s with command := { s.command with csLow := false } }
    else if s.command.csLow then { s with command := s.command.released } else s)

/-- The waiting command starts (R169). -/
def execWaitingCommandStart (s : State) : Host.Outcome State Fault Refusal :=
  .next (if s.inReset || !s.command.handOverDue then s else { s with command := s.command.handOver })

/-- A command's last byte completes with both places full (R169; assumption log 20). -/
def execCommandRefusedBusy (b : Byte) (s : State) : Host.Outcome State Fault Refusal :=
  .next (if s.inReset || !s.command.busyDue b then s else { s with command := s.command.byte b })

/-- A byte completes while CS_N is low (R166, R167). The byte that completes a command has it taken; a DORMANT part is woken when the
command begins to be carried out (R169), which is the command's own row, so a frame that ends between the two finds the part DORMANT
(assumption log 31). -/
def execByteComplete (b : Byte) (s : State) : Host.Outcome State Fault Refusal :=
  .next (if s.inReset || !s.command.csLow then s else { s with command := s.command.byte b })

end Sys2Proof.Machine
end

