-- ==== Sys2Proof/Machine/Ports.lean ====
section
/-! DEFINITION. Machine/Ports.lean: the antenna ports' operations (chapter 1): receiving characters, judging and answering frames,
port states, enabling and disabling. -/

namespace Sys2Proof.Machine

/-- The RECEIVER_SILENT warning of a port (R10). -/
def receiverWarning (p : Fin 4) : WarnId := ⟨.port p, .receiverSilent⟩

/-- A port takes new contents, and RECEIVER_SILENT is reported if it changed (R10). -/
def State.portBecomes (s : State) (p : Fin 4) (x : AntennaPort) : State :=
  (s.setPort p x).postChange .ports (receiverWarning p) s.ports[p].state.silentCond x.state.silentCond

/-- A port becomes WARMING with its warm-up timer at 0 (R9). -/
def AntennaPort.startWarming (p : AntennaPort) : AntennaPort := { p with state := .warming, warmUp := 0 }

/-- A SILENT port becomes WARMING on a valid frame; any other keeps its state (R4, R5). -/
def AntennaPort.heard (p : AntennaPort) : AntennaPort := if p.state = .silent then p.startWarming else p

/-! ### Judging a frame -/

/-- The sum of a frame's bytes modulo 256 (R2, R177). -/
def frameSum (f : List Byte) : Byte := f.foldl (· + ·) 0

/-- A frame of ten characters, each with its stop bit, is valid (R2). -/
def validFrame (f : List Byte) : Bool :=
  frameSum f == 0 &&
    (frameByte f 0 == keepaliveKind || (frameByte f 0 == sightingKind && frameUnit f != 0 && frameUnit f != 0xFFFFFF))

/-- The port begins to send an answer byte (R1). -/
def AntennaPort.answering (p : AntennaPort) (a : Answer) : AntennaPort :=
  { p with rx := .answering, frame := [], rejectOwed := false, answer := some a }

/-- A valid frame at a port in RECESS or SESSION: port life, then the inbox or HOLD (R4). -/
def AntennaPort.accept (p : AntennaPort) (f : List Byte) : AntennaPort :=
  let p := { p.heard with silence := 0 }
  if p.inbox.length < Config.inboxSize then
    ({ p with inbox := p.inbox ++ [⟨f, p.state == .warming⟩] } : AntennaPort).answering .taken
  else ({ p with congested := true } : AntennaPort).answering .hold

/-- A frame that completes ten characters is judged and answered at once (R2 to R5). -/
def judgeFrame (p : Fin 4) (f : List Byte) (s : State) : State :=
  if validFrame f then
    match s.mode with
    | .dormant =>
      let s := wake s
      s.portBecomes p (s.ports[p].heard.answering .wake)
    | .recess | .session => s.portBecomes p (s.ports[p].accept f)
  else s.setPort p (s.ports[p].answering .reject)

/-- A frame goes wrong before it completes: it is ended, and its REJECT waits for the frame gap (R2; assumption log 6). -/
def AntennaPort.goneWrong (p : AntennaPort) : AntennaPort := { p with rx := .resync, frame := [], rejectOwed := true }

/-- The receiver of an enabled port takes a character other than the tenth of a frame (R1). -/
def AntennaPort.character (p : AntennaPort) (b : Byte) : AntennaPort :=
  match p.rx with
  | .listening => { p with rx := .receiving, frame := [b] }
  | .receiving => { p with frame := p.frame ++ [b] }
  | .answering => p
  | .resync => p

/-! ### When the line's events can occur -/

/-- A character other than the tenth can complete. -/
def AntennaPort.characterDue (p : AntennaPort) : Bool :=
  p.enabled && !(p.rx == .receiving && p.frame.length == Config.frameLength - 1)

/-- The tenth character can complete. -/
def AntennaPort.tenthDue (p : AntennaPort) : Bool :=
  p.enabled && p.rx == .receiving && p.frame.length == Config.frameLength - 1

/-- A character without its stop bit would end a frame in progress, or the frame it begins (R2; assumption log 7). -/
def AntennaPort.stopBitDue (p : AntennaPort) : Bool := p.enabled && (p.rx == .receiving || p.rx == .listening)

/-- The byte gap limit can pass with a frame in progress (R2). -/
def AntennaPort.gapDue (p : AntennaPort) : Bool := p.enabled && p.rx == .receiving && !p.frame.isEmpty

/-- A REJECT waits for the frame gap (R2). -/
def AntennaPort.rejectDue (p : AntennaPort) : Bool := p.enabled && p.rejectOwed

/-- RESYNC waits for the frame gap with no REJECT owed (R1). -/
def AntennaPort.resyncDue (p : AntennaPort) : Bool := p.enabled && p.rx == .resync && !p.rejectOwed && p.answer.isNone

/-! ### Timers and enabling -/

/-- The warm-up of a port has ended (R9). -/
def AntennaPort.warmUpDue (p : AntennaPort) : Bool := p.state == .warming && decide (Config.warmUpTime ≤ p.warmUp)

/-- The silence timer of an UP port has reached the port silence time (R8). -/
def AntennaPort.silenceDue (t : Nat) (p : AntennaPort) : Bool := p.state == .up && decide (t ≤ p.silence)

/-- A port becomes SILENT: it reports, and the combiner re-checks its entries (R10, R32). -/
def portFallsSilent (p : Fin 4) (s : State) : State :=
  recheckCoverage (s.portBecomes p { s.ports[p] with state := .silent })

/-- The end of a warm-up: UP, or SILENT where the silence timer has reached the silence time (R9). -/
def endWarmUp (p : Fin 4) (s : State) : State :=
  if s.ports[p].silence < s.tuning.silenceTime then s.setPort p { s.ports[p] with state := .up }
  else portFallsSilent p s

/-- An OFF port as ENABLE_PORT turns it on: the congested flag is kept (R12). -/
def AntennaPort.turnedOn (p : AntennaPort) : AntennaPort :=
  { p with enabled := true, state := .warming, rx := .resync, frame := [], rejectOwed := false, warmUp := 0, silence := 0, inbox := [] }

/-- A port as ENABLE_PORT turns it off: the congested flag is kept, and an answer byte already begun is completed (R13). -/
def AntennaPort.turnedOff (p : AntennaPort) : AntennaPort :=
  { p with enabled := false, state := .off, rx := .resync, frame := [], rejectOwed := false, warmUp := 0, silence := 0, inbox := [] }

end Sys2Proof.Machine
end

