-- ==== Sys2Proof/Machine/Events.lean ====
section
/-! DEFINITION. Machine/Events.lean: the meanings of the rows that are not commands: the two ends of a device reset, the events on
the antenna lines, the passing of timer limits, and the changes of input pins. For each: when it is due, and what it does. -/

namespace Sys2Proof.Machine

/-! ### Device reset -/

/-- Power-on or the fall of RESET_N (R176). -/
def execDeviceReset (s : State) : Host.Outcome State Fault Refusal := .next (deviceReset s)

/-- The end of a device reset (R16, R156). -/
def execResetEnd (s : State) : Host.Outcome State Fault Refusal := .next (if s.inReset then endReset s else s)

/-! ### Antenna lines -/

/-- A character other than the tenth completes on an enabled port (R1). -/
def execCharacterComplete (p : Fin 4) (b : Byte) (s : State) : Host.Outcome State Fault Refusal :=
  occur s.ports[p].characterDue (fun s => s.setPort p (s.ports[p].character b)) s

/-- The tenth character of a frame completes; the frame is judged and answered at once (R2 to R5). -/
def execFrameComplete (p : Fin 4) (b : Byte) (s : State) : Host.Outcome State Fault Refusal :=
  occur s.ports[p].tenthDue (fun s => judgeFrame p (s.ports[p].frame ++ [b]) s) s

/-- A character lacks its stop bit (R2; assumption log 7). -/
def execStopBitMissing (p : Fin 4) (s : State) : Host.Outcome State Fault Refusal :=
  occur s.ports[p].stopBitDue (fun s => s.setPort p s.ports[p].goneWrong) s

/-- The line stays idle for the byte gap limit with one to nine bytes received (R2). -/
def execByteGapTimeout (p : Fin 4) (s : State) : Host.Outcome State Fault Refusal :=
  occur s.ports[p].gapDue (fun s => s.setPort p s.ports[p].goneWrong) s

/-- After a frame that went wrong, the line has been idle for the frame gap: REJECT (R2, R3). -/
def execFrameGapReject (p : Fin 4) (s : State) : Host.Outcome State Fault Refusal :=
  occur s.ports[p].rejectDue (fun s => s.setPort p (s.ports[p].answering .reject)) s

/-- The port's answer byte is sent: the line is released and the receiver enters RESYNC (R1); for a port turned off meanwhile, the
line is released (R13). -/
def AntennaPort.answered (p : AntennaPort) : AntennaPort :=
  if p.enabled && p.rx == .answering then { p with rx := .resync, answer := none } else { p with answer := none }

/-- The stop bit of the answer byte is sent (R1). -/
def execAnswerSent (p : Fin 4) (s : State) : Host.Outcome State Fault Refusal :=
  occur s.ports[p].answer.isSome (fun s => s.setPort p s.ports[p].answered) s

/-- In RESYNC the line has been idle for the frame gap (R1). -/
def execResyncIdle (p : Fin 4) (s : State) : Host.Outcome State Fault Refusal :=
  occur s.ports[p].resyncDue (fun s => s.setPort p { s.ports[p] with rx := .listening }) s

/-! ### Port timers -/

/-- The warm-up timer of a port reaches the warm-up time (R9). -/
def execWarmUpEnd (p : Fin 4) (s : State) : Host.Outcome State Fault Refusal :=
  occur (s.running && s.ports[p].warmUpDue) (endWarmUp p) s

/-- The silence timer of an UP port reaches the port silence time (R8). -/
def execPortSilenceExpiry (p : Fin 4) (s : State) : Host.Outcome State Fault Refusal :=
  occur (s.running && s.ports[p].silenceDue s.tuning.silenceTime) (portFallsSilent p) s

/-! ### Sighting combiner -/

/-- The combiner takes a frame (R18). -/
def execFrameTake (s : State) : Host.Outcome State Fault Refusal := occur s.frameOffered takeFrame s

/-- A stranger record's age has reached its limit (R22). -/
def strangerDue (r : Option Stranger) : Bool :=
  match r with
  | some r => decide (Config.strangerLife ≤ r.age)
  | none => false

/-- A stranger record is removed by its age (R22, R24). -/
def execStrangerAgeExpiry (i : Fin 8) (s : State) : Host.Outcome State Fault Refusal :=
  occur (s.running && strangerDue s.combiner.strangers[i])
    (fun s => s.strangersBecome (setAt s.combiner.strangers i none)) s

/-- A pool entry's window has run out (R30). -/
def windowDue (e : Option PoolEntry) : Bool :=
  match e with
  | some e => e.window == 0
  | none => false

/-- A pool entry closes by expiry (R30, R31). -/
def execPoolWindowExpiry (i : Fin 12) (s : State) : Host.Outcome State Fault Refusal :=
  occur (s.running && windowDue s.combiner.pool[i]) (closeAt i) s

/-! ### Roster and battery sweep -/

/-- An entry's age has passed 3 times its expected interval (R51). -/
def State.fadingDueAt (s : State) (n : Fin 200) : Bool :=
  match s.roster[n] with
  | some e => fadingDue s.tuning.lostTime e
  | none => false

/-- A LIVE entry becomes FADING (R51). -/
def execEntryFading (n : Fin 200) (s : State) : Host.Outcome State Fault Refusal :=
  occur (s.running && s.fadingDueAt n) (fadeEntry n) s

/-- An entry's age has passed the lost time (R51). -/
def State.lostDueAt (s : State) (n : Fin 200) : Bool :=
  match s.roster[n] with
  | some e => lostDue s.tuning.lostTime e
  | none => false

/-- A LIVE or FADING entry becomes LOST (R51, R53). -/
def execEntryLost (n : Fin 200) (s : State) : Host.Outcome State Fault Refusal :=
  occur (s.running && s.lostDueAt n) (loseEntry n) s

/-- The sweep position after a visit: the next slot, or idle after slot 199 (R76). -/
def Sweep.advanced (w : Sweep) : Option Sweep :=
  if h : w.position.1 + 1 < 200 then some ⟨w.profile, ⟨w.position.1 + 1, h⟩⟩ else none

/-- A visit of the sweep to a slot: an entry that names the swept profile is re-classified (R77). -/
def visitSlot (w : Sweep) (s : State) : State :=
  match s.roster[w.position] with
  | some e => if e.battery.profile = w.profile then reclassifyEntry w.position s else s
  | none => s

/-- The sweep visits one slot and moves on (R76, R77; assumption log 18). -/
def sweepStep (s : State) : State :=
  match s.sweep with
  | none => { s with sweepDue := false }
  | some w => visitSlot w { s with sweep := w.advanced, sweepDue := false }

/-- The sweep's visit of a millisecond (R76). -/
def execSweepVisit (s : State) : Host.Outcome State Fault Refusal :=
  occur (s.running && s.sweepDue && s.sweep.isSome) sweepStep s

/-! ### Floor arbiter -/

/-- A silent timer stands at 0 and its expiry has not been taken (R103). -/
def silentDue (x : Option LiveSlot) : Bool :=
  match x with
  | some x => !x.speaking && x.timer == 0 && !x.expired
  | none => false

/-- The silent expiry of a live slot: SILENT_FLOOR true, and the slot freed if auto-revoke is on (R104). -/
def silentExpires (k : Fin 6) (s : State) : State :=
  match s.floor.live[k] with
  | none => s
  | some x =>
    let s := (s.setLive k (some { x with expired := true })).postChange .floor (unitWarning x.holder .silentFloor) x.expired true
    if s.tuning.autoRevoke then derive x.holder (freeSlot x.holder s) else s

/-- A holder's silent timer reaches 0 (R104). -/
def execSilentExpiry (k : Fin 6) (s : State) : Host.Outcome State Fault Refusal :=
  occur (s.running && silentDue s.floor.live[k]) (silentExpires k) s

/-- A running hot-mic timer has reached the hot delay, and its condition is not yet true (R106). -/
def hotDue (delay : Nat) (e : Option Entry) : Bool :=
  match e with
  | some e => (match e.hot with
    | some t => decide (delay ≤ t.elapsed) && !t.reached
    | none => false)
  | none => false

/-- HOT_MIC becomes true for a running timer (R106, R107). -/
def hotReached (n : Fin 200) (s : State) : State :=
  match s.roster[n] with
  | some e => (match e.hot with
    | some t => (s.setSlot n (some { e with hot := some { t with reached := true } })).postChange .floor
        (unitWarning n .hotMic) t.reached true
    | none => s)
  | none => s

/-- A hot-mic timer reaches the hot delay (R106). -/
def execHotDelayReached (n : Fin 200) (s : State) : Host.Outcome State Fault Refusal :=
  occur (s.running && hotDue s.tuning.hotDelay s.roster[n]) (hotReached n) s

/-- The input stands at the level opposite the debounced level: low against RELEASED, high against ASSERTED (R110). -/
def Floor.opposite (f : Floor) : Bool := f.pinHigh == f.asserted

/-- The input takes a level; back at the level that agrees with the debounced one, the stability time returns to 0 (R110). -/
def Floor.withPin (f : Floor) (high : Bool) : Floor :=
  let f' := { f with pinHigh := high }
  if f'.opposite then f' else { f' with stability := 0 }

/-- SILENCE_N changes its level. In DORMANT the debounce stands still, and in reset it is held at its start: there the change is
seen at the wake or at the end of the reset (R110). -/
def execSilenceInputChange (high : Bool) (s : State) : Host.Outcome State Fault Refusal :=
  .next (if s.running then { s with floor := s.floor.withPin high } else { s with floor := { s.floor with pinHigh := high } })

/-- SILENCE_N has stood opposite for the debounce time (R110). -/
def Floor.debounceDue (f : Floor) : Bool := f.opposite && decide (Config.debounceTime ≤ f.stability)

/-- The debounced level changes, and the cause follows (R110, R111). -/
def debounceExpires (s : State) : State :=
  let now := !s.floor.asserted
  let s := { s with floor := { s.floor with asserted := now, stability := 0 } }
  if now then silenceAsserted s else silenceReleased s

/-- The silence debounce runs out (R110, R111). -/
def execSilenceDebounceExpiry (s : State) : Host.Outcome State Fault Refusal :=
  occur (s.running && s.floor.debounceDue) debounceExpires s

/-! ### Indicator lines -/

/-- A blink boundary: a pending commit is made (R144, R148, R149). -/
def blinkBoundary (s : State) : State :=
  let s := { s with lines := { s.lines with boundaryDue := false } }
  if s.lines.commitPending then commit s else s

/-- The blink phase reaches a multiple of 125 ms (R144; assumption log 17). A boundary reached in the millisecond in which the part
enters DORMANT, and not taken before, is taken at once after the wake (assumption log 30). -/
def execBlinkBoundary (s : State) : Host.Outcome State Fault Refusal :=
  occur (s.running && s.lines.boundaryDue) blinkBoundary s

/-- A line's hold timer stands at 0 with its source fallen (R143). -/
def Line.holdDue (l : Line) : Bool := l.active && !l.source && l.hold == 0

/-- A line's hold timer reaches 0, and the line becomes inactive if its source has fallen (R143). -/
def execHoldExpiry (m : Fin 16) (s : State) : Host.Outcome State Fault Refusal :=
  occur (s.running && s.lines.line[m].holdDue) (fun s => s.setLine m { s.lines.line[m] with active := false }) s

/-- A line with its sense input at a level. -/
def Line.withSense (l : Line) (high : Bool) : Line := { l with sense := high }

/-- A sense input changes its level; the sense time that it now contradicts returns to 0 (R151). -/
def execSenseInputChange (m : Fin 16) (high : Bool) (s : State) : Host.Outcome State Fault Refusal :=
  .next (let s := s.setLine m (s.lines.line[m].withSense high)
    s.setLine m (s.restSense s.lines.line[m]))

/-- A line's disagreement time has reached the lamp sense time with the condition false (R152). -/
def Line.faultDue (l : Line) : Bool := decide (Config.senseTime ≤ l.disagree) && !l.fault

/-- A line's agreement time has reached the lamp sense time with the condition true (R152). -/
def Line.soundDue (l : Line) : Bool := decide (Config.senseTime ≤ l.agree) && l.fault

/-- The LAMP_FAULT condition of a line takes a value and is reported (R152). -/
def lineFault (m : Fin 16) (v : Bool) (s : State) : State :=
  (s.setLine m { s.lines.line[m] with fault := v }).postChange .lines (lampWarning m) s.lines.line[m].fault v

/-- A lamp is found faulty (R152). -/
def execLampFaultDetected (m : Fin 16) (s : State) : Host.Outcome State Fault Refusal :=
  occur (s.running && s.lines.line[m].faultDue) (lineFault m true) s

/-- A lamp is found sound again (R152). -/
def execLampFaultCleared (m : Fin 16) (s : State) : Host.Outcome State Fault Refusal :=
  occur (s.running && s.lines.line[m].soundDue) (lineFault m false) s

end Sys2Proof.Machine
end

