-- ==== Sys2Proof/Machine/Clock.lean ====
section
/-! DEFINITION. Machine/Clock.lean: what happens with no row waiting: the rows that have become due are put in the queue, in an open
order; where none is due, one millisecond of the chamber clock passes (R157; assumption log 2). -/

namespace Sys2Proof.Machine

/-! ### One millisecond -/

/-- A port's timers count (R8, R9). -/
def AntennaPort.tick (p : AntennaPort) : AntennaPort :=
  match p.state with
  | .off => p
  | .warming =>
    { p with silence := min Config.timerTop (p.silence + 1), warmUp := min Config.warmUpTime (p.warmUp + 1) }
  | .up => { p with silence := min Config.timerTop (p.silence + 1) }
  | .silent => { p with silence := min Config.timerTop (p.silence + 1) }

/-- A stranger record's age counts (R22). -/
def Stranger.tick (r : Stranger) : Stranger := { r with age := min Config.strangerLife (r.age + 1) }

/-- A pool entry's window counts down (R30). -/
def PoolEntry.tick (e : PoolEntry) : PoolEntry := { e with window := e.window - 1 }

/-- A hot-mic timer counts up, stopping at its top (R106). -/
def HotTimer.tick (t : HotTimer) : HotTimer := { t with elapsed := min Config.hotTop (t.elapsed + 1) }

/-- An entry's age and running hot-mic timer count (R50, R106). -/
def Entry.tick (e : Entry) : Entry := { e with age := min Config.timerTop (e.age + 1), hot := e.hot.map HotTimer.tick }

/-- A silent timer counts down while its holder is not speaking (R103). -/
def LiveSlot.tick (x : LiveSlot) : LiveSlot := if x.speaking then x else { x with timer := x.timer - 1 }

/-- The silence debounce counts while the input stands opposite (R110). -/
def Floor.tick (f : Floor) : Floor :=
  { f with
    live := mapTable f.live fun _ x => x.map LiveSlot.tick
    stability := if f.opposite then min Config.debounceTime (f.stability + 1) else 0 }

/-- A line's hold timer and sense times count over a millisecond in which the line stood as the state has it (R143, R151). -/
def State.tickLine (s : State) (l : Line) : Line :=
  { l with
    hold := l.hold - 1
    disagree := if s.senseInUse l && !s.senseAgrees l then min Config.senseTime (l.disagree + 1) else l.disagree
    agree := if s.senseInUse l && s.senseAgrees l then min Config.senseTime (l.agree + 1) else l.agree }

/-- The blink phase a millisecond later (R144). -/
def nextPhase (phase : Nat) : Nat := (phase + 1) % Config.blinkCycle

/-- One millisecond of the chamber clock passes (R157): every timer counts; no limit is taken here. A line that the new phase turns
dark has its sense times put back to 0 in the same millisecond, before a time that has just reached 50 ms can be taken (assumption
log 28). -/
def tick (s : State) : State :=
  settleLines { s with
    ports := mapTable s.ports fun _ p => p.tick
    combiner := { s.combiner with
      pool := mapTable s.combiner.pool fun _ e => e.map PoolEntry.tick
      strangers := mapTable s.combiner.strangers fun _ r => r.map Stranger.tick }
    roster := mapTable s.roster fun _ e => e.map Entry.tick
    sweepDue := s.sweep.isSome
    floor := s.floor.tick
    lines := { s.lines with
      line := mapTable s.lines.line fun _ l => s.tickLine l
      phase := nextPhase s.lines.phase
      boundaryDue := s.lines.boundaryDue || nextPhase s.lines.phase % Config.blinkStep == 0 } }

/-! ### What is due -/

/-- The rows of one kind, in rising order of what they name, for which something is due. -/
def rowsOf {n : Nat} (p : Fin n → Bool) (row : Fin n → Instr) : List Instr := ((List.finRange n).filter p).map row

/-- A row, if it is due. -/
def rowIf (due : Bool) (row : Instr) : List Instr := if due then [row] else []

/-- The command in progress, if it is not yet carried out (R167, R169). -/
def CommandPort.dueCommand (c : CommandPort) : List Instr :=
  match c.inProgress with
  | some t => if t.done then [] else [rowOf t.code t.params]
  | none => []

/-- What is due apart from the chamber clock: the command in progress, the waiting command's start, and a frame to be taken. -/
def State.dueAtOnce (s : State) : List (List Instr) :=
  [s.command.dueCommand, rowIf s.command.handOverDue .waitingCommandStart, rowIf s.frameOffered .frameTake]

/-- What is due on the chamber clock, kind by kind (R157). -/
def State.dueOnClock (s : State) : List (List Instr) :=
  [ rowsOf (fun p => s.ports[p].warmUpDue) .warmUpEnd,
    rowsOf (fun p => s.ports[p].silenceDue s.tuning.silenceTime) .portSilenceExpiry,
    rowsOf (fun i => strangerDue s.combiner.strangers[i]) .strangerAgeExpiry,
    rowsOf (fun i => windowDue s.combiner.pool[i]) .poolWindowExpiry,
    rowsOf s.fadingDueAt .entryFading,
    rowsOf s.lostDueAt .entryLost,
    rowIf (s.sweepDue && s.sweep.isSome) .sweepVisit,
    rowsOf (fun k => silentDue s.floor.live[k]) .silentExpiry,
    rowsOf (fun n => hotDue s.tuning.hotDelay s.roster[n]) .hotDelayReached,
    rowIf s.floor.debounceDue .silenceDebounceExpiry,
    rowIf s.lines.boundaryDue .blinkBoundary,
    rowsOf (fun m => s.lines.line[m].holdDue) .holdExpiry,
    rowsOf (fun m => s.lines.line[m].faultDue) .lampFaultDetected,
    rowsOf (fun m => s.lines.line[m].soundDue) .lampFaultCleared ]

/-- Everything that is due in a state, kind by kind. -/
def State.due (s : State) : List (List Instr) := if s.running then s.dueAtOnce ++ s.dueOnClock else s.dueAtOnce

/-- The part with no row waiting (assumption log 2): held in reset it rests; what has become due is put in the queue, in an open
order; where nothing is due, a running clock counts a millisecond, and a stopped one nothing. -/
def autonomous (s : State) : State :=
  if s.inReset then s
  else
    match s.due.flatten with
    | [] => if s.clockRunning then tick s else s
    | _ :: ds =>
      { s with
        pending := shuffle s.choice (ds.length + 1) s.due
        choice := s.choice + (ds.length + 1) }

end Sys2Proof.Machine
end

