-- ==== Sys2Proof/Machine/ConfigCommands.lean ====
section
/-! DEFINITION. Machine/ConfigCommands.lean: SET_PROFILE, READ_PROFILE, the thirteen rows of SET_TUNING, READ_TUNING (chapters 4, 10
and 11). -/

namespace Sys2Proof.Machine

/-! ### Profiles -/

/-- A profile is written, and the sweep of it starts at position 0 (R63, R76). -/
def writeProfile (p : Fin 4) (x : Profile) (s : State) : State :=
  { s with profiles := setAt s.profiles p x, sweep := some ⟨p, 0⟩, sweepDue := false }

/-- SET_PROFILE: the checks of R62, then R63. -/
def setProfileBody (profile : Byte) (fields : RawProfile) (s : State) : Handling :=
  match profileNumber profile with
  | none => refuse s .badArg 0
  | some p =>
    if !profileCodesOk fields then refuse s .badArg 0
    else if s.sweep.isSome then refuse s .busy 0
    else .answered (writeProfile p (adjustedProfile fields) s) (storedReply (profileWasAdjusted fields) [])

/-- SET_PROFILE (R62, R63). -/
def execSetProfile (profile : Byte) (fields : RawProfile) (s : State) : Host.Outcome State Fault Refusal :=
  runCommand (.setProfile profile fields) (setProfileBody profile fields) s

/-- READ_PROFILE (R64). -/
def readProfileBody (profile : Byte) (s : State) : Handling :=
  match profileNumber profile with
  | none => refuse s .badArg 10
  | some p => .answered s (okReply (profileBytes s.profiles[p]))

/-- READ_PROFILE (R64). -/
def execReadProfile (profile : Byte) (s : State) : Host.Outcome State Fault Refusal :=
  runCommand (.readProfile profile) (readProfileBody profile) s

/-! ### Tuning -/

/-- The tuning items replaced. -/
def State.setTuning (s : State) (t : Tuning) : State := { s with tuning := t }

/-- The reply of an accepted numeric item: the stored value, ADJUSTED where it differs from the value carried (R172, R179). -/
def storedValue (v : BitVec 32) (stored : Int) : Reply :=
  storedReply (stored != v.toInt) (bytesOfValue (BitVec.ofInt 32 stored))

/-- The reply of an accepted item of another kind: OK with the stored value (R172). -/
def storedCode (stored : BitVec 32) : Reply := okReply (bytesOfValue stored)

/-- Every UP port whose silence timer has reached the port silence time becomes SILENT, reported in subject order; the combiner then
re-checks its entries (R11, R32). -/
def judgeSilence (s : State) : State :=
  let due := (List.finRange 4).filter fun p => s.ports[p].silenceDue s.tuning.silenceTime
  let s := forList (fun p s => s.portBecomes p { s.ports[p] with state := .silent }) due s
  if due.isEmpty then s else recheckCoverage s

/-- SET_TUNING of the port silence time, with the new value applied to all four ports at once (R11; assumption log 21). -/
def setPortSilenceTimeBody (v : BitVec 32) (s : State) : Handling :=
  let x := adjustValue 500 10000 100 v.toInt
  if s.tuning.silenceTime = x.toNat then .answered s (storedValue v x)
  else .acted (judgeSilence (s.setTuning { s.tuning with silenceTime := x.toNat })) (storedValue v x)

/-- SET_TUNING of the port silence time (R8, R11, R172). -/
def execSetPortSilenceTime (v : BitVec 32) (s : State) : Host.Outcome State Fault Refusal :=
  runCommand (.setPortSilenceTime v) (setPortSilenceTimeBody v) s

/-- SET_TUNING of the combining window: it applies to pool entries opened afterwards (R27). -/
def setCombiningWindowBody (v : BitVec 32) (s : State) : Handling :=
  let x := adjustValue 2 40 1 v.toInt
  .answered (s.setTuning { s.tuning with window := x.toNat }) (storedValue v x)

/-- SET_TUNING of the combining window (R27, R172). -/
def execSetCombiningWindow (v : BitVec 32) (s : State) : Host.Outcome State Fault Refusal :=
  runCommand (.setCombiningWindow v) (setCombiningWindowBody v) s

/-- The subject an act concerns, as its place in the subject order. -/
def Act.rank : Act → Nat
  | .report id _ => id.subject.rank
  | .both id _ _ _ => id.subject.rank
  | .quietCells n => Subject.rank (.entry n)
  | .quietEntry n => Subject.rank (.entry n)
  | .quietSitting => 0

/-- The reports of one event of many subjects, put in subject order (R118). -/
def inSubjectOrder (s : State) : State :=
  { s with engine := { s.engine with posted := s.engine.posted.insertionSort fun a b => a.act.rank ≤ b.act.rank } }

/-- SET_TUNING of the lost time, with every entry judged against a changed value (R52; assumption log 21). -/
def setLostTimeBody (v : BitVec 32) (s : State) : Handling :=
  let x := adjustValue 1000 30000 100 v.toInt
  if s.tuning.lostTime = x.toNat then .answered s (storedValue v x)
  else .acted (inSubjectOrder (forEach judgeAge (s.setTuning { s.tuning with lostTime := x.toNat }))) (storedValue v x)

/-- SET_TUNING of the lost time (R51, R52, R172). -/
def execSetLostTime (v : BitVec 32) (s : State) : Host.Outcome State Fault Refusal :=
  runCommand (.setLostTime v) (setLostTimeBody v) s

/-- SET_TUNING of the signal floor (R81). -/
def setSignalFloorBody (v : BitVec 32) (s : State) : Handling :=
  let x := adjustValue (-110) (-60) 1 v.toInt
  .answered (s.setTuning { s.tuning with signalFloor := x }) (storedValue v x)

/-- SET_TUNING of the signal floor (R81, R172). -/
def execSetSignalFloor (v : BitVec 32) (s : State) : Host.Outcome State Fault Refusal :=
  runCommand (.setSignalFloor v) (setSignalFloorBody v) s

/-- SET_TUNING of the smoothing shift (R82). -/
def setSmoothingShiftBody (v : BitVec 32) (s : State) : Handling :=
  let x := adjustValue 1 3 1 v.toInt
  .answered (s.setTuning { s.tuning with shift := x.toNat }) (storedValue v x)

/-- SET_TUNING of the smoothing shift (R82, R172). -/
def execSetSmoothingShift (v : BitVec 32) (s : State) : Host.Outcome State Fault Refusal :=
  runCommand (.setSmoothingShift v) (setSmoothingShiftBody v) s

/-- SET_TUNING of the weak threshold: clamped, then checked against the poor threshold (R83). -/
def setWeakThresholdBody (v : BitVec 32) (s : State) : Handling :=
  let x := adjustValue 0 40 1 v.toInt
  if s.tuning.poor < x then .answered (s.setTuning { s.tuning with weak := x }) (storedValue v x) else refuse s .badArg 4

/-- SET_TUNING of the weak threshold (R83, R172). -/
def execSetWeakThreshold (v : BitVec 32) (s : State) : Host.Outcome State Fault Refusal :=
  runCommand (.setWeakThreshold v) (setWeakThresholdBody v) s

/-- SET_TUNING of the poor threshold: clamped, then checked against the weak threshold (R83). -/
def setPoorThresholdBody (v : BitVec 32) (s : State) : Handling :=
  let x := adjustValue (-10) 39 1 v.toInt
  if x < s.tuning.weak then .answered (s.setTuning { s.tuning with poor := x }) (storedValue v x) else refuse s .badArg 4

/-- SET_TUNING of the poor threshold (R83, R172). -/
def execSetPoorThreshold (v : BitVec 32) (s : State) : Host.Outcome State Fault Refusal :=
  runCommand (.setPoorThreshold v) (setPoorThresholdBody v) s

/-- SET_TUNING of the silent time: loaded timers keep what they hold (R105). -/
def setSilentTimeBody (v : BitVec 32) (s : State) : Handling :=
  let x := adjustValue 1000 120000 1000 v.toInt
  .answered (s.setTuning { s.tuning with silentTime := x.toNat }) (storedValue v x)

/-- SET_TUNING of the silent time (R105, R172). -/
def execSetSilentTime (v : BitVec 32) (s : State) : Host.Outcome State Fault Refusal :=
  runCommand (.setSilentTime v) (setSilentTimeBody v) s

/-- SET_TUNING of auto-revoke (R105, R172). -/
def setAutoRevokeBody (v : BitVec 32) (s : State) : Handling :=
  match onOffValue v with
  | some b => .answered (s.setTuning { s.tuning with autoRevoke := b }) (storedCode v)
  | none => refuse s .badArg 4

/-- SET_TUNING of auto-revoke (R105, R172). -/
def execSetAutoRevoke (v : BitVec 32) (s : State) : Host.Outcome State Fault Refusal :=
  runCommand (.setAutoRevoke v) (setAutoRevokeBody v) s

/-- A new hot delay is applied at once to every running hot-mic timer, in entry order (R107). -/
def judgeHot (n : Fin 200) (s : State) : State := if hotDue s.tuning.hotDelay s.roster[n] then hotReached n s else s

/-- SET_TUNING of the hot delay (R107). -/
def setHotDelayBody (v : BitVec 32) (s : State) : Handling :=
  let x := adjustValue 0 5000 100 v.toInt
  .acted (forEach judgeHot (s.setTuning { s.tuning with hotDelay := x.toNat })) (storedValue v x)

/-- SET_TUNING of the hot delay (R107, R172). -/
def execSetHotDelay (v : BitVec 32) (s : State) : Host.Outcome State Fault Refusal :=
  runCommand (.setHotDelay v) (setHotDelayBody v) s

/-- SET_TUNING of the priority function: a CHAIR hold begins or ends with the chair's claim (R112). -/
def setPriorityFunctionBody (v : BitVec 32) (s : State) : Handling :=
  match onOffValue v with
  | some b => .acted (followClaim (s.setTuning { s.tuning with priority := b })) (storedCode v)
  | none => refuse s .badArg 4

/-- SET_TUNING of the priority function (R112, R172). -/
def execSetPriorityFunction (v : BitVec 32) (s : State) : Host.Outcome State Fault Refusal :=
  runCommand (.setPriorityFunction v) (setPriorityFunctionBody v) s

/-- The pending types with one class's type replaced; the three fixed classes have no item (R122). -/
def PendingTypes.withType (p : PendingTypes) (c : WClass) (t : PendingType) : PendingTypes :=
  match c with
  | .sigLost => { p with sigLost := t }
  | .battCritical => { p with battCritical := t }
  | .receiverSilent => { p with receiverSilent := t }
  | .sigWeak => { p with sigWeak := t }
  | .hotMic => { p with hotMic := t }
  | .battLow => { p with battLow := t }
  | .silentFloor => p
  | .lampFault => p
  | .stranger => p

/-- The warnings that a change from LATCHED to SELF_CLEARING makes QUIET: those of the class in STANDING (R122). -/
def standingOf (c : WClass) (r : WarnRecord) : Bool := r.id.cls == c && r.state == .standing

/-- A pending type takes effect for every warning of the class at once (R122). -/
def changePendingType (c : WClass) (t : PendingType) (s : State) : State :=
  let s' := s.setTuning { s.tuning with pendingTypes := s.tuning.pendingTypes.withType c t }
  match pendingTypeOf s.tuning.pendingTypes c, t with
  | .latched, .selfClearing => { s' with engine := s'.engine.quietAll (standingOf c) }
  | .latched, .latched => s'
  | .selfClearing, .latched => s'
  | .selfClearing, .selfClearing => s'

/-- SET_TUNING of a pending type; an item number that names no item is refused (R122, R172, R179). -/
def setPendingTypeBody (item : Byte) (v : BitVec 32) (s : State) : Handling :=
  match pendingItemClass item, pendingTypeValue v with
  | some c, some t => .acted (changePendingType c t s) (storedCode v)
  | _, _ => refuse s .badArg 4

/-- SET_TUNING of a pending type (R122, R172). -/
def execSetPendingType (item : Byte) (v : BitVec 32) (s : State) : Host.Outcome State Fault Refusal :=
  runCommand (.setPendingType item v) (setPendingTypeBody item v) s

/-- SET_TUNING of the IRQ mask: bits 9 to 31 are ignored and read back as 0 (R133, R179). -/
def setIrqMaskBody (v : BitVec 32) (s : State) : Handling :=
  .answered (s.setTuning { s.tuning with irqMask := v.setWidth 9 }) (storedCode ((v.setWidth 9).setWidth 32))

/-- SET_TUNING of the IRQ mask (R133, R172). -/
def execSetIrqMask (v : BitVec 32) (s : State) : Host.Outcome State Fault Refusal :=
  runCommand (.setIrqMask v) (setIrqMaskBody v) s

/-- READ_TUNING (R173). -/
def readTuningBody (item : Byte) (s : State) : Handling :=
  match tuningValue s.tuning item with
  | some v => .answered s (storedCode v)
  | none => refuse s .badArg 4

/-- READ_TUNING (R173). -/
def execReadTuning (item : Byte) (s : State) : Host.Outcome State Fault Refusal :=
  runCommand (.readTuning item) (readTuningBody item) s

end Sys2Proof.Machine
end

