-- ==== Sys2Proof/Machine/RosterCommands.lean ====
section
/-! DEFINITION. Machine/RosterCommands.lean: ENROL, ENROL_STRANGER, RETIRE, FIND_UNIT, FIND_SEAT, READ_ENTRY, AMEND_ENTRY
(chapter 3). -/

namespace Sys2Proof.Machine

/-- A Unit ID that no unit may have (R2, R38). -/
def badUnit (u : UnitId) : Bool := u == 0 || u == 0xFFFFFF

/-- ENROL: the checks of R38, then R39. -/
def enrolBody (unit : UnitId) (seat group profile : Byte) (s : State) : Handling :=
  match placeOf seat group profile with
  | none => refuse s .badArg 1
  | some (st, g, p) =>
    if badUnit unit then refuse s .badArg 1
    else if (s.entryOfUnit unit).isSome then refuse s .duplicateUnit 1
    else if (s.entryOfSeat st).isSome then refuse s .seatTaken 1
    else match s.freeEntry with
      | none => refuse s .rosterFull 1
      | some n => .acted (enrolAt n unit st g p s) (okReply [natByte n.1])

/-- ENROL (R38, R39). -/
def execEnrol (unit : UnitId) (seat group profile : Byte) (s : State) : Host.Outcome State Fault Refusal :=
  runCommand (.enrol unit seat group profile) (enrolBody unit seat group profile) s

/-- ENROL_STRANGER: the checks of R40, then the enrolment of the record's Unit ID. -/
def enrolStrangerBody (position seat group profile : Byte) (s : State) : Handling :=
  match strangerPosition position, placeOf seat group profile with
  | some i, some (st, g, p) => (match s.combiner.strangers[i] with
    | none => refuse s .noEntry 4
    | some r =>
      if (s.entryOfSeat st).isSome then refuse s .seatTaken 4
      else match s.freeEntry with
        | none => refuse s .rosterFull 4
        | some n => .acted (enrolAt n r.unit st g p s) (okReply (natByte n.1 :: bytesOfUnit r.unit)))
  | _, _ => refuse s .badArg 4

/-- ENROL_STRANGER (R40). -/
def execEnrolStranger (position seat group profile : Byte) (s : State) : Host.Outcome State Fault Refusal :=
  runCommand (.enrolStranger position seat group profile) (enrolStrangerBody position seat group profile) s

/-- A command that names an entry: out of range BAD_ARG, an empty slot NO_ENTRY (R43, R46, R96 to R98). -/
def onEntry (entry : Byte) (len : Nat) (f : Fin 200 → Entry → Handling) (s : State) : Handling :=
  match entryNumber entry with
  | none => refuse s .badArg len
  | some n => match s.roster[n] with
    | none => refuse s .noEntry len
    | some e => f n e

/-- RETIRE (R46, R47). -/
def execRetire (entry : Byte) (s : State) : Host.Outcome State Fault Refusal :=
  runCommand (.retire entry) (fun s => onEntry entry 0 (fun n _ => .acted (retireEntry n s) (okReply [])) s) s

/-- The answer of a search (R41, R42). -/
def found (s : State) (n : Option (Fin 200)) : Handling :=
  match n with
  | some n => .answered s (okReply [natByte n.1])
  | none => refuse s .noEntry 1

/-- FIND_UNIT (R41). -/
def execFindUnit (unit : UnitId) (s : State) : Host.Outcome State Fault Refusal :=
  runCommand (.findUnit unit) (fun s => found s (s.entryOfUnit unit)) s

/-- FIND_SEAT (R42). -/
def findSeatBody (seat : Byte) (s : State) : Handling :=
  match seatNumber seat with
  | none => refuse s .badArg 1
  | some st => found s (s.entryOfSeat st)

/-- FIND_SEAT (R42). -/
def execFindSeat (seat : Byte) (s : State) : Host.Outcome State Fault Refusal :=
  runCommand (.findSeat seat) (findSeatBody seat) s

/-- READ_ENTRY (R43). -/
def execReadEntry (entry : Byte) (s : State) : Host.Outcome State Fault Refusal :=
  runCommand (.readEntry entry) (fun s => onEntry entry 57 (fun n e => .answered s (okReply (s.entryRecord n e))) s) s

/-- Another roster entry holds the seat (R44). -/
def State.seatHeldByOther (s : State) (n : Fin 200) (seat : Nat) : Bool :=
  (firstIndex fun m => m != n && (match s.roster[m] with
    | some e => e.seat == seat
    | none => false)).isSome

/-- An entry with the three values of an amendment (R44). -/
def Entry.amended (e : Entry) (seat : Nat) (group : Fin 8) (profile : Fin 4) : Entry :=
  { e with seat := seat, group := group, battery := { e.battery with profile := profile } }

/-- An amendment that passes its checks (R45). -/
def amend (n : Fin 200) (e : Entry) (seat : Nat) (group : Fin 8) (profile : Fin 4) (s : State) : State :=
  let s' := s.setSlot n (some (e.amended seat group profile))
  if e.battery.profile = profile then s' else reclassifyEntry n s'

/-- AMEND_ENTRY: the checks of R44, then R45. -/
def amendEntryBody (entry seat group profile : Byte) (s : State) : Handling :=
  match placeOf seat group profile with
  | none => refuse s .badArg 0
  | some (st, g, p) => onEntry entry 0 (fun n e =>
    if s.seatHeldByOther n st then refuse s .seatTaken 0 else .acted (amend n e st g p s) (okReply [])) s

/-- AMEND_ENTRY (R44, R45). -/
def execAmendEntry (entry seat group profile : Byte) (s : State) : Host.Outcome State Fault Refusal :=
  runCommand (.amendEntry entry seat group profile) (amendEntryBody entry seat group profile) s

end Sys2Proof.Machine
end

