-- ==== Sys2Proof/Machine/FloorCommands.lean ====
section
/-! DEFINITION. Machine/FloorCommands.lean: GRANT_FLOOR, REVOKE_FLOOR, SET_FLOOR_CAPACITY, MUTE, UNMUTE, MUTE_ALL, UNMUTE_ALL,
SET_CHAIR (chapter 6). -/

namespace Sys2Proof.Machine

/-- The lowest free live slot below the capacity (R96). -/
def Floor.freeLiveSlot (f : Floor) : Option (Fin 6) := firstIndex fun k => decide (k.1 < f.capacity) && f.live[k].isNone

/-- A grant of a live slot (R96). -/
def grant (n : Fin 200) (k : Fin 6) (s : State) : State := derive n (s.setLive k (some (loadedSlot s n)))

/-- GRANT_FLOOR to an occupied roster slot: checks 3 to 7 of R96. -/
def grantBody (n : Fin 200) (s : State) : Handling :=
  if s.mode ≠ .session then refuse s .notInSession 1
  else if s.floor.cause ≠ .none then refuse s .held 1
  else if s.floor.chair = some n then refuse s .isChair 1
  else match s.floor.liveSlotOf n with
    | some k => .answered s (okReply [natByte k.1])
    | none => match s.floor.freeLiveSlot with
      | none => refuse s .floorFull 1
      | some k => .acted (grant n k s) (okReply [natByte k.1])

/-- GRANT_FLOOR (R96). -/
def execGrantFloor (entry : Byte) (s : State) : Host.Outcome State Fault Refusal :=
  runCommand (.grantFloor entry) (fun s => onEntry entry 1 (fun n _ => grantBody n s) s) s

/-- A revocation (R97). -/
def revoke (n : Fin 200) (s : State) : State := derive n (freeSlot n s)

/-- REVOKE_FLOOR of an occupied roster slot (R97). -/
def revokeBody (n : Fin 200) (s : State) : Handling :=
  if (s.floor.liveSlotOf n).isNone && (s.floor.heldSlotOf n).isNone then refuse s .noFloor 0
  else .acted (revoke n s) (okReply [])

/-- REVOKE_FLOOR (R97). -/
def execRevokeFloor (entry : Byte) (s : State) : Host.Outcome State Fault Refusal :=
  runCommand (.revokeFloor entry) (fun s => onEntry entry 0 (fun n _ => revokeBody n s) s) s

/-- A live or held slot at or above a capacity is occupied (R95). -/
def Floor.occupiedFrom (f : Floor) (c : Nat) : Bool :=
  (List.finRange 6).any fun k => decide (c ≤ k.1) && (f.live[k].isSome || f.held[k].isSome)

/-- SET_FLOOR_CAPACITY: clamped first, then checked (R95). -/
def setFloorCapacityBody (capacity : Byte) (s : State) : Handling :=
  let c := clampNat 1 6 capacity.toNat
  if s.floor.occupiedFrom c then refuse s .occupied 1
  else .acted { s with floor := { s.floor with capacity := c } } (storedReply (c != capacity.toNat) [natByte c])

/-- SET_FLOOR_CAPACITY (R95). -/
def execSetFloorCapacity (capacity : Byte) (s : State) : Host.Outcome State Fault Refusal :=
  runCommand (.setFloorCapacity capacity) (setFloorCapacityBody capacity) s

/-- An entry's chair-muted flag takes a value, and speaking and the hot-mic timer are derived afresh; a flag that has the value
already changes nothing (R98). -/
def setMuted (v : Bool) (n : Fin 200) (s : State) : State :=
  match s.roster[n] with
  | none => s
  | some e => if e.muted = v then s else derive n (s.setSlot n (some { e with muted := v }))

/-- MUTE and UNMUTE of an occupied roster slot (R98). -/
def muteBody (v : Bool) (n : Fin 200) (s : State) : Handling :=
  if s.floor.chair = some n then refuse s .isChair 0 else .acted (setMuted v n s) (okReply [])

/-- MUTE (R98). -/
def execMute (entry : Byte) (s : State) : Host.Outcome State Fault Refusal :=
  runCommand (.mute entry) (fun s => onEntry entry 0 (fun n _ => muteBody true n s) s) s

/-- UNMUTE (R98). -/
def execUnmute (entry : Byte) (s : State) : Host.Outcome State Fault Refusal :=
  runCommand (.unmute entry) (fun s => onEntry entry 0 (fun n _ => muteBody false n s) s) s

/-- Every entry but the chair designation is handled as for MUTE or UNMUTE of it alone, in entry order (R99). -/
def setAllMuted (v : Bool) (s : State) : State :=
  forEach (fun n s => if s.floor.chair = some n then s else setMuted v n s) s

/-- MUTE_ALL (R99). -/
def execMuteAll (s : State) : Host.Outcome State Fault Refusal :=
  runCommand .muteAll (fun s => .acted (setAllMuted true s) (okReply [])) s

/-- UNMUTE_ALL (R99). -/
def execUnmuteAll (s : State) : Host.Outcome State Fault Refusal :=
  runCommand .unmuteAll (fun s => .acted (setAllMuted false s) (okReply [])) s

/-- An entry's chair-muted flag is cleared, with nothing derived yet. -/
def clearMute (n : Fin 200) (s : State) : State :=
  match s.roster[n] with
  | none => s
  | some e => s.setSlot n (some { e with muted := false })

/-- The new chair is made ready: its slot freed, its mute cleared, its hot-mic timer stopped (R102, step 1). The step's net effect is
taken: the freeing does not first start a hot-mic timer that the same step stops (assumption log 27). -/
def prepareChair (n : Fin 200) (s : State) : State := stopHot n (clearMute n (freeSlot n s))

/-- The designation changes, and the former chair's hot-mic timer is derived afresh (R102, step 2). -/
def designate (chair : Option (Fin 200)) (s : State) : State :=
  let former := s.floor.chair
  let s := { s with floor := { s.floor with chair := chair } }
  match former with
  | some m => derive m s
  | none => s

/-- SET_CHAIR with a change of designation: the four steps of R102. -/
def changeChair (chair : Option (Fin 200)) (s : State) : State :=
  let s := match chair with
    | some n => prepareChair n s
    | none => s
  let s := designate chair s
  let s := match s.floor.cause with
    | .chair => endHold s
    | .none => s
    | .silence => s
  match s.floor.cause with
  | .none => if s.chairClaims then beginHold s else s
  | .chair => s
  | .silence => s

/-- SET_CHAIR to a designation that is allowed (R102). -/
def setChairTo (chair : Option (Fin 200)) (s : State) : Handling :=
  if s.floor.chair = chair then .answered s (okReply []) else .acted (changeChair chair s) (okReply [])

/-- SET_CHAIR: an entry number, or 0xFF for none (R102, R178). -/
def setChairBody (entry : Byte) (s : State) : Handling :=
  if entry = 0xFF then setChairTo none s else onEntry entry 0 (fun n _ => setChairTo (some n) s) s

/-- SET_CHAIR (R102). -/
def execSetChair (entry : Byte) (s : State) : Host.Outcome State Fault Refusal :=
  runCommand (.setChair entry) (setChairBody entry) s

end Sys2Proof.Machine
end

