-- ==== Sys2Proof/Machine/IntakeCommands.lean ====
section
/-! DEFINITION. Machine/IntakeCommands.lean: READ_STRANGERS, READ_PORT, ENABLE_PORT (chapters 1 and 2). -/

namespace Sys2Proof.Machine

/-- READ_STRANGERS (R25). -/
def execReadStrangers (s : State) : Host.Outcome State Fault Refusal :=
  runCommand .readStrangers (fun s => .answered s (okReply s.strangersRecord)) s

/-- READ_PORT: the port as it stands, and then its congested flag cleared (R14). -/
def readPortBody (port : Byte) (s : State) : Handling :=
  match portNumber port with
  | none => refuse s .badArg 8
  | some p => .answered (s.setPort p { s.ports[p] with congested := false }) (okReply s.ports[p].record)

/-- READ_PORT (R14). -/
def execReadPort (port : Byte) (s : State) : Host.Outcome State Fault Refusal := runCommand (.readPort port) (readPortBody port) s

/-- ENABLE_PORT with the value on; a port that is enabled already is left as it stands (R12). -/
def enablePortOnBody (port : Byte) (s : State) : Handling :=
  match portNumber port with
  | none => refuse s .badArg 0
  | some p =>
    if s.ports[p].enabled then .answered s (okReply []) else .acted (s.portBecomes p s.ports[p].turnedOn) (okReply [])

/-- ENABLE_PORT on (R12). -/
def execEnablePortOn (port : Byte) (s : State) : Host.Outcome State Fault Refusal :=
  runCommand (.enablePortOn port) (enablePortOnBody port) s

/-- No port is receiving (section 1.4). -/
def State.noneReceiving (s : State) : Bool := (List.finRange 4).all fun p => !s.ports[p].state.receiving

/-- The combiner's re-check when a port of a given state has been turned off (section 1.4, R13, R32). A port that was receiving stops
being so, and every open entry is tested; a SILENT port brings on no test. Where it was the only receiving port R13 and R32 contradict
each other, and the free value says whether the entries are left to their windows (R13) or, all of them covered, close (R32)
(assumption log 24). -/
def recheckAfterDisable (was : PortState) (s : State) : State :=
  if was.receiving && !(s.noneReceiving && Config.lastPortLeavesWindows) then recheckCoverage s else s

/-- A port is turned off, and the combiner re-checks its open pool entries (R13, R32). -/
def disablePort (p : Fin 4) (s : State) : State := recheckAfterDisable s.ports[p].state (s.portBecomes p s.ports[p].turnedOff)

/-- ENABLE_PORT with the value off, or with a value that is neither on nor off and is refused (R13, R178; assumption log 8); a port
that is OFF already is left as it stands. -/
def enablePortOffBody (port value : Byte) (s : State) : Handling :=
  match portNumber port with
  | none => refuse s .badArg 0
  | some p =>
    if value ≠ 0 then refuse s .badArg 0
    else if s.ports[p].enabled then .acted (disablePort p s) (okReply []) else .answered s (okReply [])

/-- ENABLE_PORT off (R13). -/
def execEnablePortOff (port value : Byte) (s : State) : Host.Outcome State Fault Refusal :=
  runCommand (.enablePortOff port value) (enablePortOffBody port value) s

end Sys2Proof.Machine
end

