-- ==== Sys2Proof/Machine/LineCommands.lean ====
section
/-! DEFINITION. Machine/LineCommands.lean: STAGE_LINE, APPLY_LINES, READ_LINE (chapter 8). -/

namespace Sys2Proof.Machine

/-- STAGE_LINE: the checks of R147, then the staged configuration replaced. -/
def stageLineBody (line : Byte) (config : RawLineConfig) (s : State) : Handling :=
  match lineNumber line, lineConfigOf config with
  | some m, some c => .answered (s.setLine m { s.lines.line[m] with staged := c }) (okReply [])
  | _, _ => refuse s .badArg 0

/-- STAGE_LINE (R147). -/
def execStageLine (line : Byte) (config : RawLineConfig) (s : State) : Host.Outcome State Fault Refusal :=
  runCommand (.stageLine line config) (stageLineBody line config) s

/-- APPLY_LINES (R148). -/
def execApplyLines (s : State) : Host.Outcome State Fault Refusal :=
  runCommand .applyLines (fun s => .answered { s with lines := { s.lines with commitPending := true } } (okReply [])) s

/-- READ_LINE (R150). -/
def readLineBody (line : Byte) (s : State) : Handling :=
  match lineNumber line with
  | some m => .answered s (okReply (s.lineRecord s.lines.line[m]))
  | none => refuse s .badArg 32

/-- READ_LINE (R150). -/
def execReadLine (line : Byte) (s : State) : Host.Outcome State Fault Refusal := runCommand (.readLine line) (readLineBody line) s

end Sys2Proof.Machine
end

