-- ==== Sys2Proof/Machine/ModeCommands.lean ====
section
/-! DEFINITION. Machine/ModeCommands.lean: SET_MODE, READ_STATUS, CHAMBER_RESET, and the answer to an unknown command (chapters 9
and 10). -/

namespace Sys2Proof.Machine

/-- SET_MODE carrying RECESS, or a value that names no mode and is refused after the wake (R158; assumption log 8). -/
def setModeRecessBody (value : Byte) (s : State) : Handling :=
  if value ≠ 0 then refuse s .badArg 0
  else match s.mode with
    | .session => .acted (leaveSession s) (okReply [])
    | .recess => .answered s (okReply [])
    | .dormant => .answered s (okReply [])

/-- SET_MODE RECESS (R158, R159). -/
def execSetModeRecess (value : Byte) (s : State) : Host.Outcome State Fault Refusal :=
  runCommand (.setModeRecess value) (setModeRecessBody value) s

/-- SET_MODE carrying SESSION (R158, R159); from DORMANT the wake has been made just before (R163). -/
def setModeSessionBody (s : State) : Handling :=
  match s.mode with
  | .recess => .acted (enterSession s) (okReply [])
  | .session => .answered s (okReply [])
  | .dormant => .acted (enterSession s) (okReply [])

/-- SET_MODE SESSION (R158, R159, R163). -/
def execSetModeSession (s : State) : Host.Outcome State Fault Refusal := runCommand .setModeSession setModeSessionBody s

/-- SET_MODE carrying DORMANT (R158, R160). -/
def setModeDormantBody (s : State) : Handling :=
  match s.mode with
  | .recess => .acted (enterDormant s) (okReply [])
  | .session => .acted (enterDormant s) (okReply [])
  | .dormant => .answered s (okReply [])

/-- SET_MODE DORMANT (R158, R160). -/
def execSetModeDormant (s : State) : Host.Outcome State Fault Refusal := runDormantCommand .setModeDormant setModeDormantBody s

/-- READ_STATUS (R174). -/
def execReadStatus (s : State) : Host.Outcome State Fault Refusal :=
  runCommand .readStatus (fun s => .answered s (okReply s.statusRecord)) s

/-- CHAMBER_RESET (R175). -/
def execChamberReset (s : State) : Host.Outcome State Fault Refusal :=
  runCommand .chamberReset (fun s => .acted (chamberResetAll s) (okReply [])) s

/-- An unknown command code is answered UNKNOWN_COMMAND, with no reply data (R170). -/
def execUnknownCommand (code : Byte) (s : State) : Host.Outcome State Fault Refusal :=
  runCommand (.unknownCommand code) (fun s => .answered s ⟨.unknownCommand, []⟩) s

end Sys2Proof.Machine
end

