-- ==== Sys2Proof/Machine/WarningCommands.lean ====
section
/-! DEFINITION. Machine/WarningCommands.lean: READ_ATTENTION, ACKNOWLEDGE, ACK_LISTED (chapter 7). -/

namespace Sys2Proof.Machine

/-- READ_ATTENTION: a position 0 to 31 (R131). -/
def readAttentionBody (position : Byte) (s : State) : Handling :=
  if position.toNat < Config.attentionSize then .answered s (okReply (s.engine.attentionRecord position.toNat))
  else refuse s .badArg 9

/-- READ_ATTENTION (R131). -/
def execReadAttention (position : Byte) (s : State) : Host.Outcome State Fault Refusal :=
  runCommand (.readAttention position) (readAttentionBody position) s

/-- ACKNOWLEDGE: the checks of R128 in their order, then the acknowledgement. -/
def acknowledgeBody (kind index cls : Byte) (stamp : Stamp) (s : State) : Handling :=
  match warningOf kind index cls with
  | none => refuse s .badArg 0
  | some id => match s.engine.find id with
    | none => refuse s .notPending 0
    | some r =>
      if r.state = .noted then refuse s .notPending 0
      else if r.stamp ≠ stamp then refuse s .stale 0
      else .acted { s with engine := s.engine.acknowledge r } (okReply [])

/-- ACKNOWLEDGE (R128). -/
def execAcknowledge (kind index cls : Byte) (stamp : Stamp) (s : State) : Host.Outcome State Fault Refusal :=
  runCommand (.acknowledge kind index cls stamp) (acknowledgeBody kind index cls stamp) s

/-- ACK_LISTED (R130). -/
def ackListedBody (s : State) : Handling :=
  .acted { s with engine := s.engine.acknowledgeListed } (okReply [natByte s.engine.attention.length])

/-- ACK_LISTED (R130). -/
def execAckListed (s : State) : Host.Outcome State Fault Refusal := runCommand .ackListed ackListedBody s

end Sys2Proof.Machine
end

