-- ==== Sys2Proof/Machine/Dispatch.lean ====
section
/-! DEFINITION. Machine/Dispatch.lean: one arm per row of the table, each one direct call of its meaning. -/

namespace Sys2Proof.Machine

def exec (i : Instr) (s : State) : Host.Outcome State Fault Refusal :=
  match i with
  | .deviceReset => Sys2Proof.Machine.execDeviceReset s
  | .resetEnd => Sys2Proof.Machine.execResetEnd s
  | .frameComplete p b => Sys2Proof.Machine.execFrameComplete p b s
  | .stopBitMissing p => Sys2Proof.Machine.execStopBitMissing p s
  | .byteGapTimeout p => Sys2Proof.Machine.execByteGapTimeout p s
  | .frameGapReject p => Sys2Proof.Machine.execFrameGapReject p s
  | .answerSent p => Sys2Proof.Machine.execAnswerSent p s
  | .resyncIdle p => Sys2Proof.Machine.execResyncIdle p s
  | .warmUpEnd p => Sys2Proof.Machine.execWarmUpEnd p s
  | .portSilenceExpiry p => Sys2Proof.Machine.execPortSilenceExpiry p s
  | .frameTake => Sys2Proof.Machine.execFrameTake s
  | .strangerAgeExpiry pos => Sys2Proof.Machine.execStrangerAgeExpiry pos s
  | .poolWindowExpiry pos => Sys2Proof.Machine.execPoolWindowExpiry pos s
  | .entryFading n => Sys2Proof.Machine.execEntryFading n s
  | .entryLost n => Sys2Proof.Machine.execEntryLost n s
  | .sweepVisit => Sys2Proof.Machine.execSweepVisit s
  | .silentExpiry k => Sys2Proof.Machine.execSilentExpiry k s
  | .hotDelayReached n => Sys2Proof.Machine.execHotDelayReached n s
  | .silenceInputChange high => Sys2Proof.Machine.execSilenceInputChange high s
  | .silenceDebounceExpiry => Sys2Proof.Machine.execSilenceDebounceExpiry s
  | .blinkBoundary => Sys2Proof.Machine.execBlinkBoundary s
  | .holdExpiry m => Sys2Proof.Machine.execHoldExpiry m s
  | .senseInputChange m high => Sys2Proof.Machine.execSenseInputChange m high s
  | .lampFaultDetected m => Sys2Proof.Machine.execLampFaultDetected m s
  | .lampFaultCleared m => Sys2Proof.Machine.execLampFaultCleared m s
  | .csNFall => Sys2Proof.Machine.execCsNFall s
  | .csNRise => Sys2Proof.Machine.execCsNRise s
  | .waitingCommandStart => Sys2Proof.Machine.execWaitingCommandStart s
  | .commandRefusedBusy b => Sys2Proof.Machine.execCommandRefusedBusy b s
  | .enrol unit seat group profile => Sys2Proof.Machine.execEnrol unit seat group profile s
  | .enrolStranger position seat group profile => Sys2Proof.Machine.execEnrolStranger position seat group profile s
  | .retire entry => Sys2Proof.Machine.execRetire entry s
  | .findUnit unit => Sys2Proof.Machine.execFindUnit unit s
  | .findSeat seat => Sys2Proof.Machine.execFindSeat seat s
  | .readEntry entry => Sys2Proof.Machine.execReadEntry entry s
  | .amendEntry entry seat group profile => Sys2Proof.Machine.execAmendEntry entry seat group profile s
  | .grantFloor entry => Sys2Proof.Machine.execGrantFloor entry s
  | .revokeFloor entry => Sys2Proof.Machine.execRevokeFloor entry s
  | .setFloorCapacity capacity => Sys2Proof.Machine.execSetFloorCapacity capacity s
  | .mute entry => Sys2Proof.Machine.execMute entry s
  | .unmute entry => Sys2Proof.Machine.execUnmute entry s
  | .muteAll => Sys2Proof.Machine.execMuteAll s
  | .unmuteAll => Sys2Proof.Machine.execUnmuteAll s
  | .setChair entry => Sys2Proof.Machine.execSetChair entry s
  | .readAttention position => Sys2Proof.Machine.execReadAttention position s
  | .acknowledge kind index cls stamp => Sys2Proof.Machine.execAcknowledge kind index cls stamp s
  | .ackListed => Sys2Proof.Machine.execAckListed s
  | .readStrangers => Sys2Proof.Machine.execReadStrangers s
  | .readPort port => Sys2Proof.Machine.execReadPort port s
  | .enablePortOn port => Sys2Proof.Machine.execEnablePortOn port s
  | .enablePortOff port value => Sys2Proof.Machine.execEnablePortOff port value s
  | .setProfile profile fields => Sys2Proof.Machine.execSetProfile profile fields s
  | .readProfile profile => Sys2Proof.Machine.execReadProfile profile s
  | .setPortSilenceTime value => Sys2Proof.Machine.execSetPortSilenceTime value s
  | .setCombiningWindow value => Sys2Proof.Machine.execSetCombiningWindow value s
  | .setLostTime value => Sys2Proof.Machine.execSetLostTime value s
  | .setSignalFloor value => Sys2Proof.Machine.execSetSignalFloor value s
  | .setSmoothingShift value => Sys2Proof.Machine.execSetSmoothingShift value s
  | .setWeakThreshold value => Sys2Proof.Machine.execSetWeakThreshold value s
  | .setPoorThreshold value => Sys2Proof.Machine.execSetPoorThreshold value s
  | .setSilentTime value => Sys2Proof.Machine.execSetSilentTime value s
  | .setAutoRevoke value => Sys2Proof.Machine.execSetAutoRevoke value s
  | .setHotDelay value => Sys2Proof.Machine.execSetHotDelay value s
  | .setPriorityFunction value => Sys2Proof.Machine.execSetPriorityFunction value s
  | .setPendingType item value => Sys2Proof.Machine.execSetPendingType item value s
  | .setIrqMask value => Sys2Proof.Machine.execSetIrqMask value s
  | .readTuning item => Sys2Proof.Machine.execReadTuning item s
  | .stageLine line config => Sys2Proof.Machine.execStageLine line config s
  | .applyLines => Sys2Proof.Machine.execApplyLines s
  | .readLine line => Sys2Proof.Machine.execReadLine line s
  | .setModeRecess value => Sys2Proof.Machine.execSetModeRecess value s
  | .setModeSession => Sys2Proof.Machine.execSetModeSession s
  | .setModeDormant => Sys2Proof.Machine.execSetModeDormant s
  | .readStatus => Sys2Proof.Machine.execReadStatus s
  | .chamberReset => Sys2Proof.Machine.execChamberReset s
  | .unknownCommand code => Sys2Proof.Machine.execUnknownCommand code s
  | .characterComplete p b => Sys2Proof.Machine.execCharacterComplete p b s
  | .byteComplete b => Sys2Proof.Machine.execByteComplete b s

end Sys2Proof.Machine
end

