-- ==== Sys2Proof/Machine/Step.lean ====
section
/-! DEFINITION. Machine/Step.lean: one step takes the row at the front of the queue; with an empty queue the part acts by itself. -/

namespace Sys2Proof.Machine

/-- One step (assumption log 1 and 2). -/
def step (s : State) : Host.Outcome State Fault Refusal :=
  match s.pending with
  | [] => .next (autonomous s)
  | i :: rest => exec i { s with pending := rest }

/-- The state with the row that a word spells at the front of its queue; no row of the table has bits, so no word spells one
(assumption log 22). -/
def State.withFetchWord (s : State) (nbits w : Nat) : State :=
  match decodeTableWord nbits w with
  | some i => { s with pending := i :: s.pending }
  | none => s

end Sys2Proof.Machine
end

