-- ==== Sys2Proof/Safety.lean ====
section
/-! DEFINITION. Safety.lean: what counts as a safe run of the part, the laws that the spec says its state keeps at all times, and the
words that the statements about it share. -/

namespace Sys2Proof.Machine

/-! ### Runs -/

/-- A step completes: it answers a next state. -/
def Completes (o : Host.Outcome State Fault Refusal) : Prop := ∃ s', o = .next s'

/-- A state reached from another by steps that all complete. -/
inductive Reaches : State → State → Prop where
  | refl (s : State) : Reaches s s
  | next {s t u : State} : Reaches s t → step t = .next u → Reaches s u

/-- A state from which no run stops. -/
def Safe (s : State) : Prop := ∀ t, Reaches s t → Completes (step t)

/-- A law that every step keeps. -/
def KeptByEveryStep (law : State → Prop) : Prop := ∀ s t, law s → step s = .next t → law t

/-! ### Words of the statements -/

/-- The part carries out a command as it stands: RESET_N is high and the part is awake. -/
def Ready (s : State) : Prop := s.inReset = false ∧ s.mode ≠ .dormant

/-- The chamber clock's limits may be taken: the clock runs and RESET_N is high. -/
def Ticking (s : State) : Prop := s.inReset = false ∧ s.clockRunning = true

/-- A command is answered with the given reply and with no other effect. -/
def OnlyAnswers (i : Instr) (s : State) (r : Reply) : Prop := exec i s = .next (complete i r s)

/-- A command brings a state about and is answered with the given reply; the warning engine and the lines follow first. -/
def Brings (i : Instr) (s s' : State) (r : Reply) : Prop := exec i s = .next (complete i r (finish s'))

/-- The rows that stand for an SPI command. -/
def IsCommand (i : Instr) : Prop := (wireOf i).isSome

/-- What a master reads on MISO while it clocks out bytes, one for each. -/
def misoStream : CommandPort → List Byte → List (Option Byte)
  | _, [] => []
  | c, b :: bs => (c.byte b).miso :: misoStream (c.byte b) bs

/-! ### Laws -/

/-- The chamber clock runs outside DORMANT and outside a device reset, which leaves the mode at RECESS (R156, R157). -/
structure ClockLaw (s : State) : Prop where
  runs : s.clockRunning = (s.mode != .dormant && !s.inReset)
  reset : s.inReset = true → s.mode = .recess

/-- The laws of a port (R6, R8, R9, section 1.0). -/
structure PortLaw (p : AntennaPort) : Prop where
  off : p.state = .off ↔ p.enabled = false
  offTimers : p.state = .off → p.warmUp = 0 ∧ p.silence = 0 ∧ p.inbox = []
  upTimer : p.state = .up → p.warmUp = 2000
  warmUp : p.warmUp ≤ 2000
  silence : p.silence ≤ 65535
  inbox : p.inbox.length ≤ 2
  frame : p.frame.length ≤ 9
  receiving : p.rx = .receiving ↔ p.frame ≠ []

/-- The laws of the pool (R28, R33, R34): one open entry for a roster entry at most, none for an empty slot, each heard by a port,
and none in DORMANT. -/
structure PoolLaw (s : State) : Prop where
  once : ∀ (i j : Fin 12) (e f : PoolEntry), s.combiner.pool[i] = some e → s.combiner.pool[j] = some f → e.entry = f.entry → i = j
  enrolled : ∀ (i : Fin 12) (e : PoolEntry), s.combiner.pool[i] = some e → s.roster[e.entry].isSome
  heard : ∀ (i : Fin 12) (e : PoolEntry), s.combiner.pool[i] = some e → ∃ p : Fin 4, e.strengths[p].isSome
  dormant : s.mode = .dormant → ∀ i : Fin 12, s.combiner.pool[i] = none

/-- The laws of the keys (R2, R23, R36): Unit IDs and seats held once, in range; a stranger record per Unit ID and none for an
enrolled unit; and only valid frames in the inboxes. -/
structure KeyLaw (s : State) : Prop where
  unitOnce : ∀ (n m : Fin 200) (e f : Entry), s.roster[n] = some e → s.roster[m] = some f → e.unit = f.unit → n = m
  seatOnce : ∀ (n m : Fin 200) (e f : Entry), s.roster[n] = some e → s.roster[m] = some f → e.seat = f.seat → n = m
  ranges : ∀ (n : Fin 200) (e : Entry), s.roster[n] = some e → badUnit e.unit = false ∧ 1 ≤ e.seat ∧ e.seat ≤ 250
  strangerOnce : ∀ (i j : Fin 8) (q r : Stranger),
    s.combiner.strangers[i] = some q → s.combiner.strangers[j] = some r → q.unit = r.unit → i = j
  strangerApart : ∀ (i : Fin 8) (r : Stranger) (n : Fin 200) (e : Entry),
    s.combiner.strangers[i] = some r → s.roster[n] = some e → r.unit ≠ e.unit
  strangerRange : ∀ (i : Fin 8) (r : Stranger), s.combiner.strangers[i] = some r → badUnit r.unit = false
  inboxes : ∀ (p : Fin 4) (f : InboxFrame), f ∈ s.ports[p].inbox → validFrame f.bytes = true

/-- A profile in its ranges (R62, section 4.2). -/
structure ProfileLaw (p : Profile) : Prop where
  codes : p.ve < p.vc ∧ p.vc < p.vl ∧ p.vl ≤ 31
  h : p.h ≤ 300 ∧ p.h % 10 = 0
  k : 1 ≤ p.k ∧ p.k ≤ 4
  nd : 1 ≤ p.nd ∧ p.nd ≤ 15
  nu : 1 ≤ p.nu ∧ p.nu ≤ 15
  j : 100 ≤ p.j ∧ p.j ≤ 1000

/-- The tuning items in their ranges and on their steps, Pt below W (R83, R172, section 10.5). -/
structure TuningLaw (t : Tuning) : Prop where
  silenceTime : 500 ≤ t.silenceTime ∧ t.silenceTime ≤ 10000 ∧ t.silenceTime % 100 = 0
  window : 2 ≤ t.window ∧ t.window ≤ 40
  lostTime : 1000 ≤ t.lostTime ∧ t.lostTime ≤ 30000 ∧ t.lostTime % 100 = 0
  signalFloor : -110 ≤ t.signalFloor ∧ t.signalFloor ≤ -60
  shift : 1 ≤ t.shift ∧ t.shift ≤ 3
  weak : 0 ≤ t.weak ∧ t.weak ≤ 40
  poor : -10 ≤ t.poor ∧ t.poor ≤ 39
  apart : t.poor < t.weak
  silentTime : 1000 ≤ t.silentTime ∧ t.silentTime ≤ 120000 ∧ t.silentTime % 1000 = 0
  hotDelay : t.hotDelay ≤ 5000 ∧ t.hotDelay % 100 = 0

/-- Every setting is in its range. -/
structure SettingsLaw (s : State) : Prop where
  profiles : ∀ p : Fin 4, ProfileLaw s.profiles[p]
  tuning : TuningLaw s.tuning

/-- The battery fields of an entry (R65, section 3.1): a level exactly when F is present, a candidate only beside another level, and
values in range. -/
structure BatteryLaw (b : Battery) : Prop where
  level : b.filtered.isSome ↔ b.level ≠ .unknown
  pending : ∀ c, b.pending = some c → b.level ≠ .unknown ∧ c.level ≠ .unknown ∧ c.level ≠ b.level ∧ 1 ≤ c.count
  filtered : ∀ f, b.filtered = some f → f ≤ 5110
  lastCell : ∀ c, b.lastCell = some c → c ≤ 1022

/-- The signal fields of an entry (R84, R87): present together, and Q in range. -/
structure SignalLaw (g : Signal) : Prop where
  level : g.margin.isSome ↔ g.level ≠ .unknown
  serving : g.serving.isSome ↔ g.margin.isSome
  margin : ∀ q, g.margin = some q → -40 ≤ q ∧ q ≤ 60

/-- The evaluators' fields of every entry keep their laws (R65, R84). -/
def EvaluatorLaw (s : State) : Prop :=
  ∀ (n : Fin 200) (e : Entry), s.roster[n] = some e → BatteryLaw e.battery ∧ SignalLaw e.signal

/-- The laws of the floor (R94, R95, R100, R102, R110). -/
structure FloorLaw (s : State) : Prop where
  capacity : 1 ≤ s.floor.capacity ∧ s.floor.capacity ≤ 6
  liveBelow : ∀ (k : Fin 6) (x : LiveSlot), s.floor.live[k] = some x → k.1 < s.floor.capacity
  heldBelow : ∀ (k : Fin 6) (n : Fin 200), s.floor.held[k] = some n → k.1 < s.floor.capacity
  liveOnce : ∀ (j k : Fin 6) (x y : LiveSlot), s.floor.live[j] = some x → s.floor.live[k] = some y → x.holder = y.holder → j = k
  heldOnce : ∀ (j k : Fin 6) (n : Fin 200), s.floor.held[j] = some n → s.floor.held[k] = some n → j = k
  heldEmpty : s.floor.cause = .none → ∀ k : Fin 6, s.floor.held[k] = none
  liveEmpty : s.floor.cause ≠ .none → ∀ k : Fin 6, s.floor.live[k] = none
  liveEnrolled : ∀ (k : Fin 6) (x : LiveSlot), s.floor.live[k] = some x → s.roster[x.holder].isSome
  heldEnrolled : ∀ (k : Fin 6) (n : Fin 200), s.floor.held[k] = some n → s.roster[n].isSome
  chairEnrolled : ∀ n : Fin 200, s.floor.chair = some n → s.roster[n].isSome
  chairLive : ∀ (k : Fin 6) (x : LiveSlot), s.floor.live[k] = some x → s.floor.chair ≠ some x.holder
  chairHeld : ∀ (k : Fin 6) (n : Fin 200), s.floor.held[k] = some n → s.floor.chair ≠ some n
  sitting : s.mode ≠ .session → ∀ k : Fin 6, s.floor.live[k] = none ∧ s.floor.held[k] = none
  silence : s.floor.asserted = true ↔ s.floor.cause = .silence

/-- What the floor arbiter has stored agrees with what it derives (R100, R106). -/
structure SpeakingLaw (s : State) : Prop where
  live : ∀ (k : Fin 6) (x : LiveSlot), s.floor.live[k] = some x → x.speaking = s.speaking x.holder
  hot : ∀ (n : Fin 200) (e : Entry), s.roster[n] = some e → e.hot.isSome = s.hotTerms n e

/-- The laws of the warning engine (R117, R123, R124): each warning once, in subject and class order; a list of at most 32 pending
warnings, none twice, in non-increasing severity; warnings unlisted only beside a full list, and none of higher severity than a
listed one. -/
structure AttentionLaw (g : Engine) : Prop where
  keys : (g.warnings.map fun r => r.id.key).Pairwise (· < ·)
  short : g.attention.length ≤ 32
  once : g.attention.Nodup
  pending : ∀ id ∈ g.attention, ∃ r ∈ g.warnings, r.id = id ∧ r.state.pending = true
  ordered : (g.attention.map fun id => id.cls.severity).Pairwise (· ≥ ·)
  full : g.overflow = true → g.attention.length = 32
  lowest : ∀ r ∈ g.unlisted, ∀ id ∈ g.attention, r.id.cls.severity ≤ id.cls.severity

/-- Between handlings nothing posted waits for the engine, and the engine keeps its laws (R118). -/
structure EngineLaw (s : State) : Prop where
  taken : s.engine.posted = []
  laws : AttentionLaw s.engine

/-- What pending types and modes leave of the warnings: only a LATCHED class has a STANDING one (R121, R122), and outside SESSION the
classes of a sitting are QUIET (R127). -/
structure WarningLaw (s : State) : Prop where
  standing : ∀ r ∈ s.engine.warnings, r.state = .standing → pendingTypeOf s.tuning.pendingTypes r.id.cls = .latched
  sitting : s.mode ≠ .session → ∀ r ∈ s.engine.warnings, r.id.cls.sitting = false

end Sys2Proof.Machine
end

