-- ==== Sys2Proof/WellFormed.lean ====
section
/-! DEFINITION. WellFormed.lean: which operands a row may carry. A command's parameters may hold any byte (a value out of range is
the command's own business); only where the table splits one SPI command into several rows by a parameter's value may a row not
carry the value that names another row, and UNKNOWN_COMMAND may not carry a known code. -/

namespace Sys2Proof

/-- Item numbers that SET_PENDING_TYPE may carry: the six pending types (items 12 to 17), and the numbers that name none of the
eighteen items (0 and 19 to 255), which it refuses (section 11.8, R179). -/
def pendingItemNumber (item : Byte) : Bool :=
  (12 ≤ item.toNat && item.toNat ≤ 17) || item.toNat == 0 || 19 ≤ item.toNat

/-- The check on each row whose operand could name another row. -/
def WellFormed : Instr → Bool
  | .enablePortOff _ v => v != 1
  | .setModeRecess v => v != 1 && v != 2
  | .setPendingType item _ => pendingItemNumber item
  | .unknownCommand code => !knownCode code
  | _ => true

end Sys2Proof
end

