-- ==== Sys2Proof/Certificates/Slice0/Obligations.lean ====
section
/-! DEFINITION. Certificates/Slice0/Obligations.lean: the statements for the provers. `finish` is the end of every handling: the
engine takes what the blocks have posted, and the lines follow (stated by HandlingEndsWithReportsAndLines); `complete` gives a
command's reply to the transaction it belongs to (stated by ReplyGoesToItsOwnTransaction). A statement that says `exec c s = .next …`
says the whole next state, so it is the frame as well. -/

open Sys2Proof Sys2Proof.Machine

/-! ### The step and the queue -/

/-- A step takes the row at the front of the queue and is exec of it on the state with the queue's rest. -/
def Obligations.StepRunsTheFrontRow : Prop :=
  ∀ (c : Instr) (rest : List Instr) (s : State), step { s with pending := c :: rest } = exec c { s with pending := rest }

/-- No run from any state stops, and no row is refused. That a row which is not due, or which RESET_N low holds back, leaves the state as
it is is the model's choice (assumption log 3), as are the queue and what happens on an empty one (log 1 and 2). -/
def Obligations.NoRunStops : Prop := ∀ s : State, Safe s

/-- The model's choice (assumption log 2 and 4): with no row waiting, the rows that are due are queued, each kind in its order, the
kinds in an open order. -/
def Sys2Proof.Claims.EmptyQueueQueuesWhatIsDue : Prop :=
  ∀ s : State, s.pending = [] → s.inReset = false → s.due.flatten ≠ [] →
    ∃ l : List Instr,
      step s = .next { s with pending := l, choice := s.choice + s.due.flatten.length } ∧ l.Perm s.due.flatten ∧
        ∀ q ∈ s.due, q.Sublist l

/-- The model's choice (assumption log 2): with no row waiting and nothing due, a running clock counts a millisecond; a part in reset
or with its clock stopped rests. -/
def Sys2Proof.Claims.IdlePartCountsOrRests : Prop :=
  ∀ s : State, s.pending = [] →
    (s.inReset = true → step s = .next s) ∧
    (s.inReset = false → s.due.flatten = [] → s.clockRunning = false → step s = .next s) ∧
    (s.inReset = false → s.due.flatten = [] → s.clockRunning = true → step s = .next (tick s))

/-- The rows that are due. Apart from the clock: the command in progress until it is carried out (R167, R169), the start of the waiting
command once none is in progress (R169), and a frame that a port offers outside DORMANT (R18). On a running clock alone (R157), each
limit that is reached: R9, R8, R22, R30, R51, R76, R104, R106, R110, R144, R143, R152. That they are the rows the part queues by itself
is the model's choice (assumption log 2). -/
def Sys2Proof.Claims.RowsAreDue : Prop :=
  ∀ (s : State) (i : Instr), i ∈ s.due.flatten ↔
    (∃ t : Taken, s.command.inProgress = some t ∧ t.done = false ∧ i = rowOf t.code t.params) ∨
    (i = .waitingCommandStart ∧ s.command.waiting ≠ none ∧ ∀ t : Taken, s.command.inProgress = some t → t.done = true) ∨
    (i = .frameTake ∧ s.mode ≠ .dormant ∧ ∃ p : Fin 4, s.ports[p].inbox ≠ []) ∨
    s.clockRunning = true ∧ s.inReset = false ∧ match i with
      | .warmUpEnd p => s.ports[p].state = .warming ∧ 2000 ≤ s.ports[p].warmUp
      | .portSilenceExpiry p => s.ports[p].state = .up ∧ s.tuning.silenceTime ≤ s.ports[p].silence
      | .strangerAgeExpiry j => ∃ r : Stranger, s.combiner.strangers[j] = some r ∧ 10000 ≤ r.age
      | .poolWindowExpiry j => ∃ e : PoolEntry, s.combiner.pool[j] = some e ∧ e.window = 0
      | .entryFading n => ∃ (e : Entry) (b : BeaconInterval), s.roster[n] = some e ∧ e.presence = .live ∧ e.interval = some b ∧
          3 * (if b = .fast then 100 else 500) < e.age ∧ 3 * (if b = .fast then 100 else 500) < s.tuning.lostTime
      | .entryLost n => ∃ e : Entry, s.roster[n] = some e ∧ (e.presence = .live ∨ e.presence = .fading) ∧ s.tuning.lostTime < e.age
      | .sweepVisit => s.sweepDue = true ∧ s.sweep ≠ none
      | .silentExpiry k => ∃ x : LiveSlot, s.floor.live[k] = some x ∧ x.speaking = false ∧ x.timer = 0 ∧ x.expired = false
      | .hotDelayReached n => ∃ (e : Entry) (h : HotTimer), s.roster[n] = some e ∧ e.hot = some h ∧
          s.tuning.hotDelay ≤ h.elapsed ∧ h.reached = false
      | .silenceDebounceExpiry => s.floor.pinHigh = s.floor.asserted ∧ 20 ≤ s.floor.stability
      | .blinkBoundary => s.lines.boundaryDue = true
      | .holdExpiry m => s.lines.line[m].active = true ∧ s.lines.line[m].source = false ∧ s.lines.line[m].hold = 0
      | .lampFaultDetected m => 50 ≤ s.lines.line[m].disagree ∧ s.lines.line[m].fault = false
      | .lampFaultCleared m => 50 ≤ s.lines.line[m].agree ∧ s.lines.line[m].fault = true
      | _ => False

/-- With no row waiting the part acts by itself: exactly the rows that are due are queued, else a millisecond is counted (the model's
choice, assumption log 2 and 4). -/
def Obligations.EmptyQueueActsByItself : Prop :=
  Claims.EmptyQueueQueuesWhatIsDue ∧ Claims.RowsAreDue ∧ Claims.IdlePartCountsOrRests

/-- What a millisecond counts: silence and warm-up timers, ages, pool windows, silent and hot-mic timers, the debounce, the phase. -/
def Sys2Proof.Claims.TimersAreCounted : Prop :=
  ∀ s : State,
    (∀ p : Fin 4, (tick s).ports[p].silence =
      if s.ports[p].state = .off then s.ports[p].silence else min 65535 (s.ports[p].silence + 1)) ∧
    (∀ p : Fin 4, (tick s).ports[p].warmUp =
      if s.ports[p].state = .warming then min 2000 (s.ports[p].warmUp + 1) else s.ports[p].warmUp) ∧
    (∀ (i : Fin 8) (r : Stranger), s.combiner.strangers[i] = some r →
      (tick s).combiner.strangers[i] = some { r with age := min 10000 (r.age + 1) }) ∧
    (∀ (i : Fin 12) (e : PoolEntry), s.combiner.pool[i] = some e →
      (tick s).combiner.pool[i] = some { e with window := e.window - 1 }) ∧
    (∀ (n : Fin 200) (e : Entry), s.roster[n] = some e → ∃ h : Option HotTimer,
      (tick s).roster[n] = some { e with age := min 65535 (e.age + 1), hot := h } ∧
        (∀ t, e.hot = some t → h = some { t with elapsed := min 5000 (t.elapsed + 1) }) ∧ (e.hot = none → h = none)) ∧
    (∀ (k : Fin 6) (x : LiveSlot), s.floor.live[k] = some x →
      (tick s).floor.live[k] = some { x with timer := if x.speaking then x.timer else x.timer - 1 }) ∧
    (tick s).floor.stability =
      (if s.floor.pinHigh = s.floor.asserted then min 20 (s.floor.stability + 1) else 0) ∧
    (tick s).lines.phase = (s.lines.phase + 1) % 1000 ∧
    (∀ m : Fin 16, s.lines.line[m].source = s.sourceState s.lines.line[m].live.source →
      (s.lines.line[m].source = true → s.lines.line[m].active = true) →
      (tick s).lines.line[m].hold = s.lines.line[m].hold - 1)

/-- What a millisecond counts of the lamp sense, line by line (R151): a line lit before and after it counts the time that its input
calls for; a line dark after it has both times at 0, which for a time that would have reached 50 ms at that very moment is the model's
choice (assumption log 28). -/
def Sys2Proof.Claims.SenseTimesAreCounted : Prop :=
  ∀ (s : State) (m : Fin 16) (l x : Line), s.lines.line[m] = l → (tick s).lines.line[m] = x →
    (l.live.senseCheck = true → s.lineLit l = true → (tick s).lineLit x = true →
      (l.sense = s.lineDriven l → x.agree = min 50 (l.agree + 1) ∧ x.disagree = 0) ∧
      (l.sense ≠ s.lineDriven l → x.disagree = min 50 (l.disagree + 1) ∧ x.agree = 0)) ∧
    (l.live.senseCheck = false ∨ (tick s).lineLit x = false → x.disagree = 0 ∧ x.agree = 0) ∧
    x = { l with source := x.source, active := x.active, hold := x.hold, disagree := x.disagree, agree := x.agree } ∧
    x.source = (tick s).sourceState l.live.source

/-- What else a millisecond changes: it marks a sweep's visit and a blink boundary as due (assumption log 17 and 18), and leaves
everything that is no timer as it was. -/
def Sys2Proof.Claims.MillisecondKeepsTheRest : Prop :=
  ∀ s : State,
    (tick s).sweepDue = s.sweep.isSome ∧
    ((tick s).lines.boundaryDue = true ↔ s.lines.boundaryDue = true ∨ 125 ∣ (s.lines.phase + 1) % 1000) ∧
    (∀ p : Fin 4, (tick s).ports[p] =
      { s.ports[p] with silence := (tick s).ports[p].silence, warmUp := (tick s).ports[p].warmUp }) ∧
    (∀ i : Fin 8, s.combiner.strangers[i] = none → (tick s).combiner.strangers[i] = none) ∧
    (∀ i : Fin 12, s.combiner.pool[i] = none → (tick s).combiner.pool[i] = none) ∧
    (∀ n : Fin 200, s.roster[n] = none → (tick s).roster[n] = none) ∧
    (∀ k : Fin 6, s.floor.live[k] = none → (tick s).floor.live[k] = none) ∧
    tick s = { s with
      ports := (tick s).ports
      combiner := { s.combiner with pool := (tick s).combiner.pool, strangers := (tick s).combiner.strangers }
      roster := (tick s).roster, sweepDue := (tick s).sweepDue
      floor := { s.floor with live := (tick s).floor.live, stability := (tick s).floor.stability }
      lines := { s.lines with
        line := (tick s).lines.line, phase := (tick s).lines.phase, boundaryDue := (tick s).lines.boundaryDue } }

/-- One millisecond of the chamber clock: what it counts, and what it leaves (R157). -/
def Obligations.MillisecondCountsTheTimers : Prop :=
  Claims.TimersAreCounted ∧ Claims.SenseTimesAreCounted ∧ Claims.MillisecondKeepsTheRest

/-- What the engine does with one act (R70, R74, R118, R119, R121): a report of a subject that exists raises or clears its warning, one
of an empty slot has no effect; the two reports of a joint one are taken in either order (assumption log 13); a quieting makes the
warnings it names QUIET. -/
def Sys2Proof.Claims.ActsAreTakenWhole : Prop :=
  ∀ s : State,
    (∀ (id : WarnId) (v : Bool),
      ((∀ n : Fin 200, id.subject = .entry n → s.roster[n].isSome) → applyAct s (.report id v) = { s with
        engine := if v then s.engine.raise id else s.engine.clear (pendingTypeOf s.tuning.pendingTypes id.cls) id }) ∧
      (∀ n : Fin 200, id.subject = .entry n → s.roster[n] = none → applyAct s (.report id v) = s)) ∧
    (∀ (a b : WarnId) (v w : Bool) (s' : State), s' = { s with choice := s.choice + 1 } →
      applyAct s (.both a v b w) = applyAct (applyAct s' (.report a v)) (.report b w) ∨
      applyAct s (.both a v b w) = applyAct (applyAct s' (.report b w)) (.report a v)) ∧
    (∀ n : Fin 200, ∃ g : Engine, applyAct s (.quietCells n) = { s with engine := g } ∧ ∀ r : WarnRecord, r ∈ g.warnings ↔
      r ∈ s.engine.warnings ∧ ¬(r.id.subject = .entry n ∧ (r.id.cls = .battLow ∨ r.id.cls = .battCritical) ∧ r.state = .standing)) ∧
    (∀ n : Fin 200, ∃ g : Engine, applyAct s (.quietEntry n) = { s with engine := g } ∧ ∀ r : WarnRecord, r ∈ g.warnings ↔
      r ∈ s.engine.warnings ∧ r.id.subject ≠ .entry n) ∧
    (∃ g : Engine, applyAct s .quietSitting = { s with engine := g } ∧ ∀ r : WarnRecord, r ∈ g.warnings ↔
      r ∈ s.engine.warnings ∧ r.id.cls ≠ .sigLost ∧ r.id.cls ≠ .sigWeak ∧ r.id.cls ≠ .hotMic ∧ r.id.cls ≠ .silentFloor)

/-- The end of every handling (R118, section 8.2): every act posted is taken, one after another, those of one block in the order it
posted them, those of different blocks in either order; nothing but the engine, the count of open orders and the lines changes, and
each line takes up the state that is left. That the acts are taken at the end of the handling is the model's choice (assumption
log 12); so is that a line compares its source once, with the state left, where section 8.2 has it follow at once: a source that falls
and rises within one handling has done neither (assumption log 16). -/
def Sys2Proof.Claims.PostedActsAreTakenInOrder : Prop :=
  ∀ s : State,
    (∃ l : List Act, l.Perm (s.engine.posted.map (·.act)) ∧
      (∀ b : Block, ((s.engine.posted.filter fun p => p.block = b).map (·.act)).Sublist l) ∧
      finish s = settleLines (l.foldl applyAct
        { s with engine := { s.engine with posted := [] }, choice := s.choice + s.engine.posted.length })) ∧
    finish s = { s with engine := (finish s).engine, choice := (finish s).choice, lines := (finish s).lines } ∧
    (finish s).lines = { s.lines with line := mapTable s.lines.line fun _ l => (finish s).settleLine l } ∧
    (finish s).engine.posted = [] ∧
    (s.engine.posted = [] → (finish s).engine = s.engine)

/-- The end of every handling: the acts posted, each taken whole, and the lines (R118, section 8.2; assumption log 12 and 16). -/
def Obligations.HandlingEndsWithReportsAndLines : Prop := Claims.ActsAreTakenWhole ∧ Claims.PostedActsAreTakenInOrder

/-! ### Device reset and modes -/

/-- DEVICE_RESET puts every block into its device-reset state, holds MISO, IRQ_N and the lines released or low, and keeps only the
levels of the input pins, the rows that wait and the count of open orders (assumption log 4, 9 and 10). Every field of the state is
named. -/
def Sys2Proof.Claims.DeviceResetStartsEveryBlockAfresh : Prop :=
  ∀ s : State, ∃ t : State, exec .deviceReset s = .next t ∧ t.inReset = true ∧ t.clockRunning = false ∧
    (∀ p : Fin 4, t.ports[p].enabled = true ∧ t.ports[p].state = .warming ∧ t.ports[p].warmUp = 0 ∧ t.ports[p].silence = 0 ∧
      t.ports[p].inbox = [] ∧ t.ports[p].congested = false ∧ t.ports[p].rx = .resync ∧ t.ports[p].frame = [] ∧
      t.ports[p].rejectOwed = false ∧ t.ports[p].answer = none) ∧
    (∀ i : Fin 12, t.combiner.pool[i] = none) ∧ (∀ i : Fin 8, t.combiner.strangers[i] = none) ∧ t.combiner.nextPort = 0 ∧
    (∀ n : Fin 200, t.roster[n] = none) ∧
    t.profiles = #v[⟨10, 6, 2, 60, 2, 3, 5, 250⟩, ⟨12, 8, 4, 80, 2, 3, 5, 300⟩, ⟨21, 19, 17, 50, 3, 4, 6, 200⟩,
      ⟨16, 14, 12, 40, 3, 4, 6, 200⟩] ∧
    t.mode = .recess ∧ t.sweep = none ∧ t.sweepDue = false ∧
    t.floor.capacity = 4 ∧ (∀ k : Fin 6, t.floor.live[k] = none ∧ t.floor.held[k] = none) ∧ t.floor.chair = none ∧
    t.floor.cause = .none ∧ t.floor.asserted = false ∧ t.floor.stability = 0 ∧ t.floor.pinHigh = s.floor.pinHigh ∧
    t.engine.warnings = [] ∧ t.engine.attention = [] ∧ t.engine.counter = 0 ∧ t.engine.posted = [] ∧ t.irqAsserted = false ∧
    (∀ m : Fin 16, t.lines.line[m].live = ⟨.off, .steady, .activeHigh, 0, .ms1, false⟩ ∧
      t.lines.line[m].staged = ⟨.off, .steady, .activeHigh, 0, .ms1, false⟩ ∧ t.lines.line[m].source = false ∧
      t.lines.line[m].active = false ∧ t.lines.line[m].hold = 0 ∧
      t.lines.line[m].disagree = 0 ∧ t.lines.line[m].agree = 0 ∧ t.lines.line[m].fault = false ∧
      t.lineDriven t.lines.line[m] = false ∧ t.lines.line[m].sense = s.lines.line[m].sense) ∧
    t.lines.commitPending = false ∧ t.lines.phase = 0 ∧ t.lines.boundaryDue = false ∧
    t.tuning = ⟨1500, 12, 4000, -92, 2, 12, 5, 8000, false, 1500, true,
      ⟨.latched, .latched, .selfClearing, .selfClearing, .selfClearing, .selfClearing⟩, 0x1FF⟩ ∧
    t.command = ⟨s.command.csLow, .idle, [], none, none, none, 0, none, none⟩ ∧ t.choice = s.choice ∧ t.pending = s.pending

/-- RESET_END leaves every block as the reset put it, in RECESS with the clock running (R16, R156). -/
def Sys2Proof.Claims.ResetEndStartsThePart : Prop :=
  ∀ s : State, s.inReset = true →
    exec .resetEnd s = .next { s with inReset := false, mode := .recess, clockRunning := true }

/-- While RESET_N is low no command is carried out, no transaction advances, no frame is received and no limit is taken; only the
levels of input pins are followed. -/
def Sys2Proof.Claims.ResetHoldsThePart : Prop :=
  ∀ (i : Instr) (s : State), s.inReset = true → i ≠ .deviceReset → i ≠ .resetEnd → i ≠ .csNFall → i ≠ .csNRise →
    (∀ b, i ≠ .silenceInputChange b) → (∀ m b, i ≠ .senseInputChange m b) → exec i s = .next s

/-- While RESET_N is low the input pins are followed and nothing else moves: no transaction begins or ends, no debounce counts, no sense
time counts (R110, R151, R176; assumption log 3 and 10). -/
def Sys2Proof.Claims.PinsAreFollowedInReset : Prop :=
  ∀ s : State, s.inReset = true →
    exec .csNFall s = .next { s with command := { s.command with csLow := true } } ∧
    exec .csNRise s = .next { s with command := { s.command with csLow := false } } ∧
    (∀ high : Bool, exec (.silenceInputChange high) s = .next { s with floor := { s.floor with pinHigh := high } }) ∧
    (∀ (m : Fin 16) (high : Bool), exec (.senseInputChange m high) s =
      .next (s.setLine m { s.lines.line[m] with sense := high, disagree := 0, agree := 0 }))

/-- A device reset: what it leaves, what is held while it lasts, and its end (R16, R156, R176). -/
def Obligations.DeviceResetHoldsAndStartsThePart : Prop :=
  Claims.DeviceResetStartsEveryBlockAfresh ∧ Claims.ResetHoldsThePart ∧ Claims.PinsAreFollowedInReset ∧ Claims.ResetEndStartsThePart

/-- Every command but SET_MODE DORMANT wakes a DORMANT part and is then carried out as on the part the wake leaves (R163). -/
def Sys2Proof.Claims.CommandsWakeADormantPart : Prop :=
  ∀ (i : Instr) (s : State), IsCommand i → i ≠ .setModeDormant → s.inReset = false → s.mode = .dormant →
    exec i s = exec i (wake s)

/-- What a wake restarts, what it continues, and that it changes nothing else (R164, R15, R57, R110, R153). -/
def Sys2Proof.Claims.WakeRestartsAndContinues : Prop :=
  ∀ s : State,
    (wake s).mode = .recess ∧ (wake s).clockRunning = true ∧
    (∀ p : Fin 4, (wake s).ports[p] =
      { s.ports[p] with silence := if s.ports[p].enabled then 0 else s.ports[p].silence }) ∧
    (∀ n : Fin 200, (wake s).roster[n] = s.roster[n].map fun e => { e with age := 0 }) ∧
    (wake s).floor = { s.floor with stability := 0 } ∧
    (∀ m : Fin 16, (wake s).lines.line[m] = { s.lines.line[m] with disagree := 0, agree := 0 }) ∧
    (wake s).lines = { s.lines with line := (wake s).lines.line } ∧
    wake s = { s with
      mode := .recess, clockRunning := true, ports := (wake s).ports, roster := (wake s).roster
      floor := (wake s).floor, lines := (wake s).lines }

/-- A DORMANT part is woken before a command is carried out, and what the wake does (R163, R164). -/
def Obligations.WakesComeFirst : Prop := Claims.CommandsWakeADormantPart ∧ Claims.WakeRestartsAndContinues

/-- SET_MODE by the value carried and the mode it finds (R158): the mode reached, the floor emptied on leaving SESSION and the cause
CHAIR ended (R114), the pool emptied and the clock stopped at DORMANT (R160), each answered OK; any other value BAD_ARG. That the row
SET_MODE_RECESS carries values other than 0 and answers each of them BAD_ARG, also 1 and 2, to which R158 gives rows of their own, is the
model's choice (assumption log 8): the bytes of a command bring no 1 or 2 to this row. -/
def Sys2Proof.Claims.SetModeChangesTheMode : Prop :=
  ∀ s : State, s.inReset = false →
    (s.mode = .session → ∃ t, exec (.setModeRecess 0) s = .next t ∧
      (∀ k : Fin 6, t.floor.live[k] = none ∧ t.floor.held[k] = none) ∧
      t.floor = { s.floor with
        live := t.floor.live, held := t.floor.held, cause := if s.floor.cause = .silence then .silence else .none } ∧
      (∀ n : Fin 200, t.roster[n] = s.roster[n].map fun e => { e with hot := none }) ∧
      t = complete (.setModeRecess 0) ⟨.ok, []⟩ { s with
        mode := .recess, roster := t.roster, floor := t.floor, engine := t.engine, choice := t.choice, lines := t.lines }) ∧
    (s.mode = .recess → exec (.setModeRecess 0) s = .next (complete (.setModeRecess 0) ⟨.ok, []⟩ s)) ∧
    (∀ v : Byte, v ≠ 0 → s.mode ≠ .dormant → OnlyAnswers (.setModeRecess v) s ⟨.badArg, []⟩) ∧
    (s.mode = .session → exec .setModeSession s = .next (complete .setModeSession ⟨.ok, []⟩ s)) ∧
    (s.mode = .recess → ∃ t, exec .setModeSession s = .next t ∧
      t.floor = { s.floor with live := t.floor.live, held := t.floor.held, cause := t.floor.cause } ∧
      (∀ n : Fin 200, ∃ h, t.roster[n] = s.roster[n].map fun e => { e with hot := h }) ∧
      t = complete .setModeSession ⟨.ok, []⟩ { s with
        mode := .session, roster := t.roster, floor := t.floor, engine := t.engine, choice := t.choice, lines := t.lines }) ∧
    (s.mode ≠ .dormant → ∃ t, exec .setModeDormant s = .next t ∧ (∀ i : Fin 12, t.combiner.pool[i] = none) ∧
      t.combiner = { s.combiner with pool := t.combiner.pool } ∧ (∀ n : Fin 200, t.roster[n] = none ↔ s.roster[n] = none) ∧
      t = complete .setModeDormant ⟨.ok, []⟩ { s with
        mode := .dormant, clockRunning := false, combiner := t.combiner, roster := t.roster
        floor := t.floor, engine := t.engine, choice := t.choice, lines := t.lines }) ∧
    (s.mode = .dormant → exec .setModeDormant s = .next (complete .setModeDormant ⟨.ok, []⟩ s))

/-- Leaving SESSION makes every warning of the four sitting classes QUIET, by SET_MODE RECESS and by SET_MODE DORMANT (R127). -/
def Sys2Proof.Claims.LeavingSessionForcesQuiet : Prop :=
  ∀ s t : State, s.inReset = false → s.mode = .session → s.engine.posted = [] →
    exec (.setModeRecess 0) s = .next t ∨ exec .setModeDormant s = .next t →
    (∀ r ∈ t.engine.warnings, r.id.cls ≠ .sigLost ∧ r.id.cls ≠ .sigWeak ∧ r.id.cls ≠ .hotMic ∧ r.id.cls ≠ .silentFloor) ∧
    (exec (.setModeRecess 0) s = .next t → ∀ r ∈ s.engine.warnings,
      r.id.cls ≠ .sigLost → r.id.cls ≠ .sigWeak → r.id.cls ≠ .hotMic → r.id.cls ≠ .silentFloor → r ∈ t.engine.warnings)

/-- The change to SESSION (R56, R89, R106, R114, R159): SIG_LOST is reported for every LOST entry and SIG_WEAK for every POOR one, in
entry order; the hot-mic timers of the entries whose terms now hold start at 0 (and with a hot delay of 0 report HOT_MIC), in entry
order; and a CHAIR hold begins where the chair claims. -/
def Sys2Proof.Claims.SessionIsEntered : Prop :=
  ∀ s : State, s.inReset = false → s.mode = .recess → FloorLaw s →
    Brings .setModeSession s (enterSession s) ⟨.ok, []⟩ ∧
    (∀ n : Fin 200, (enterSession s).roster[n] = s.roster[n].map fun e => { e with
      hot := if e.switch = .opened ∧ (e.presence = .live ∨ e.presence = .fading) ∧ s.floor.chair ≠ some n
        then some (e.hot.getD ⟨0, s.tuning.hotDelay == 0⟩) else none }) ∧
    (enterSession s).engine = { s.engine with posted := s.engine.posted ++
      ((List.finRange 200).flatMap fun n => match s.roster[n] with
        | some e => (if e.presence = .lost then [⟨.roster, .report ⟨.entry n, .sigLost⟩ true⟩] else []) ++
            (if e.signal.level = .poor then [⟨.signal, .report ⟨.entry n, .sigWeak⟩ true⟩] else [])
        | none => []) ++
      ((List.finRange 200).flatMap fun n => match s.roster[n] with
        | some e =>
          if e.switch = .opened ∧ (e.presence = .live ∨ e.presence = .fading) ∧ s.floor.chair ≠ some n then
            (if e.hot = none ∧ s.tuning.hotDelay = 0 then [⟨.floor, .report ⟨.entry n, .hotMic⟩ true⟩] else [])
          else (if (∃ h, e.hot = some h ∧ h.reached = true) then [⟨.floor, .report ⟨.entry n, .hotMic⟩ false⟩] else [])
        | none => []) } ∧
    (∀ claims : Bool, (claims = true ↔ s.tuning.priority = true ∧ ∃ (n : Fin 200) (e : Entry), s.floor.chair = some n ∧
        s.roster[n] = some e ∧ e.switch = .opened ∧ (e.presence = .live ∨ e.presence = .fading)) →
      (enterSession s).floor = { s.floor with
        cause := if s.floor.cause = .silence then .silence else if claims then .chair else .none }) ∧
    enterSession s = { s with
      mode := .session, roster := (enterSession s).roster, floor := (enterSession s).floor, engine := (enterSession s).engine }

/-- The entry into DORMANT in its three steps (R34, R160): the recess effects, complete with their reports; every open pool entry
closed and its observation applied (in entry order, assumption log 11), complete with their reports; the clock stopped. -/
def Sys2Proof.Claims.DormantIsEntered : Prop :=
  ∀ s : State, s.inReset = false → s.mode ≠ .dormant →
    (∃ (s' : State) (l : List (Fin 12)), s' = (if s.mode = .session then (leaveSession s).takeReports else s) ∧
      l.Nodup ∧ (∀ i : Fin 12, i ∈ l ↔ s.combiner.pool[i] ≠ none) ∧
      (l.filterMap fun i => s.combiner.pool[i].map fun e => e.entry.1).Pairwise (· ≤ ·) ∧
      Brings .setModeDormant s
        { (l.foldl (fun u i => closeAt i u) s').takeReports with mode := .dormant, clockRunning := false } ⟨.ok, []⟩) ∧
    ∃ t : State, exec .setModeDormant s = .next t ∧
      (s.mode = .session → (∀ k : Fin 6, t.floor.live[k] = none ∧ t.floor.held[k] = none) ∧
        t.floor = { s.floor with
          live := t.floor.live, held := t.floor.held, cause := if s.floor.cause = .silence then .silence else .none } ∧
        ∀ (n : Fin 200) (f : Entry), t.roster[n] = some f → f.hot = none) ∧
      (PoolLaw s → ∀ (i : Fin 12) (e : PoolEntry) (f : Entry), s.combiner.pool[i] = some e → s.roster[e.entry] = some f →
        t.roster[e.entry] = some { f with
          lastBeacon := some e.beacon
          interval := some (if e.payload.fast then .fast else .slow)
          age := 0
          presence := if e.payload.farewell then .off else .live
          switch := if e.payload.farewell then .closed else if e.payload.switchOpen then .opened else .closed
          strengths := e.strengths
          disagree := e.disagree
          battery := evalBattery s.profiles[f.battery.profile] f.battery e.payload.cell
          signal := evalSignal s.tuning f.signal (bestCounted e.strengths)
          hot := none })

/-- SET_MODE, the changes into SESSION and DORMANT, and the forced quiet at the end of a sitting (R114, R127, R158 to R160). -/
def Obligations.ModesChangeAsCommanded : Prop :=
  Claims.SetModeChangesTheMode ∧ Claims.SessionIsEntered ∧ Claims.DormantIsEntered ∧ Claims.LeavingSessionForcesQuiet

/-- READ_STATUS is answered with the status record and changes nothing else; an unknown code is answered UNKNOWN_COMMAND (R174,
R170). -/
def Sys2Proof.Claims.StatusIsReadAndUnknownCodesAnswered : Prop :=
  ∀ s : State, Ready s →
    OnlyAnswers .readStatus s ⟨.ok,
      [s.mode.code, s.floor.cause.code, natByte ((List.finRange 200).filter fun n => s.roster[n].isSome).length,
        natByte s.engine.attention.length, flagByte s.engine.overflow,
        (match s.sweep with
          | some w => natByte w.position.1
          | none => 0xFF),
        flagByte s.lines.commitPending, flagByte s.floor.asserted, 0x4D, 0x04, 0x16, 0x01]⟩ ∧
    ∀ code : Byte, OnlyAnswers (.unknownCommand code) s ⟨.unknownCommand, []⟩

/-- CHAMBER_RESET keeps what the chamber controller configured and returns the rest to its start (R175, R17, R35, R59, R80, R116,
R138, R155); the level of SILENCE_N and the model's own count of open orders stay (assumption log 4 and 9), and its marks of a visit and
a boundary are cleared (log 17 and 18). -/
def Obligations.ChamberResetKeepsTheConfiguration : Prop :=
  ∀ s : State, Ready s → ∃ t : State, exec .chamberReset s = .next t ∧ t.inReset = false ∧ t.mode = .recess ∧ t.clockRunning = true ∧
    (∀ p : Fin 4, t.ports[p] = { s.ports[p] with
      state := if s.ports[p].enabled then .warming else .off
      warmUp := 0, silence := 0, inbox := [], congested := false }) ∧
    (∀ i : Fin 12, t.combiner.pool[i] = none) ∧ (∀ i : Fin 8, t.combiner.strangers[i] = none) ∧ t.combiner.nextPort = 0 ∧
    (∀ n : Fin 200, t.roster[n] = s.roster[n].map fun e =>
      ⟨e.unit, e.seat, e.group, .awaited, 0, none, none, .unknown, false, #v[none, none, none, none],
        ⟨e.battery.profile, none, none, .unknown, none⟩, ⟨none, .unknown, none⟩, false, none⟩) ∧
    t.profiles = s.profiles ∧ t.sweep = none ∧ t.sweepDue = false ∧ t.tuning = s.tuning ∧
    t.floor.capacity = s.floor.capacity ∧ t.floor.chair = s.floor.chair ∧ t.floor.cause = .none ∧
    (∀ k : Fin 6, t.floor.live[k] = none ∧ t.floor.held[k] = none) ∧ t.floor.asserted = false ∧ t.floor.stability = 0 ∧
    t.floor.pinHigh = s.floor.pinHigh ∧
    t.engine.warnings = [] ∧ t.engine.attention = [] ∧ t.engine.counter = 0 ∧ t.engine.posted = [] ∧ t.choice = s.choice ∧
    (∀ m : Fin 16, t.lines.line[m].live = s.lines.line[m].live ∧ t.lines.line[m].staged = s.lines.line[m].staged ∧
      t.lines.line[m].disagree = 0 ∧ t.lines.line[m].agree = 0 ∧ t.lines.line[m].fault = false ∧
      t.lines.line[m].source = (s.lines.line[m].live.source == .on) ∧
      t.lines.line[m].active = (s.lines.line[m].live.source == .on) ∧
      t.lines.line[m].hold = (if s.lines.line[m].live.source = .on ∧ s.lines.line[m].active = false
        then s.lines.line[m].live.holdTime else 0) ∧ t.lines.line[m].sense = s.lines.line[m].sense) ∧
    t.lines.commitPending = false ∧ t.lines.phase = 0 ∧ t.lines.boundaryDue = false ∧
    t.command = { s.command with
      inProgress := t.command.inProgress, reply := t.command.reply, lastReply := some ⟨.ok, []⟩ } ∧
    t.pending = s.pending

/-! ### The command port -/

/-- Every well-formed command is read back from the code and parameter bytes that spell it, which are as many as its code takes. -/
def Sys2Proof.Claims.CommandsAreReadBackFromTheirBytes : Prop :=
  ∀ (i : Instr) (code : Byte) (ps : List Byte), WellFormed i = true → wireOf i = some (code, ps) →
    rowOf code ps = i ∧ ps.length = paramLength code

/-- Every code with its fixed number of parameter bytes is a well-formed command whose bytes are those (R167, R170). -/
def Sys2Proof.Claims.EveryCodeWithItsParametersIsACommand : Prop :=
  ∀ (code : Byte) (ps : List Byte), ps.length = paramLength code →
    WellFormed (rowOf code ps) = true ∧ wireOf (rowOf code ps) = some (code, ps)

/-- Commands and the bytes that spell them determine each other (sections 11.4 to 11.8); that the values which belong to no row are
carried by ENABLE_PORT_OFF, SET_MODE_RECESS and SET_PENDING_TYPE is the model's choice (assumption log 8). -/
def Obligations.CommandsAndTheirBytesAgree : Prop := Claims.CommandsAreReadBackFromTheirBytes ∧ Claims.EveryCodeWithItsParametersIsACommand

/-- CS_N begins and ends a transaction; a command taken outlives it, without its reply (R166 to R168). -/
def Sys2Proof.Claims.ChipSelectBoundsATransaction : Prop :=
  ∀ s : State, s.inReset = false →
    (s.command.csLow = false → exec .csNFall s = .next { s with command := { s.command with
      csLow := true, phase := .collecting, collected := [], reply := none, sent := 0, miso := none } }) ∧
    (s.command.csLow = true → exec .csNRise s = .next { s with command := { s.command with
      csLow := false, phase := .idle, collected := [], reply := none, sent := 0, miso := none
      inProgress := s.command.inProgress.map fun t => { t with owned := false }
      waiting := s.command.waiting.map fun t => { t with owned := false } } })

/-- A byte in COLLECTING is collected; the one that completes the command has it taken, as the command in progress or as the
waiting one, or refused BUSY at once when both places are full (R167, R169, R170). -/
def Sys2Proof.Claims.BytesAreCollectedThenTaken : Prop :=
  ∀ (s : State) (b code : Byte) (ps : List Byte),
    s.inReset = false → s.command.csLow = true → s.command.phase = .collecting → s.command.collected ++ [b] = code :: ps →
    (knownCode code = true → ps.length ≠ paramLength code →
      exec (.byteComplete b) s = .next { s with command := { s.command with miso := some 0, collected := code :: ps } }) ∧
    (knownCode code = false ∨ ps.length = paramLength code →
      (s.command.inProgress = none → exec (.byteComplete b) s = .next { s with command := { s.command with
        miso := some 0, collected := [], phase := .awaiting, inProgress := some ⟨code, ps, true, false⟩ } }) ∧
      (s.command.inProgress.isSome → s.command.waiting = none →
        exec (.byteComplete b) s = .next { s with command := { s.command with
          miso := some 0, collected := [], phase := .awaiting, waiting := some ⟨code, ps, true, false⟩ } }) ∧
      (s.command.inProgress.isSome → s.command.waiting.isSome →
        exec (.byteComplete b) s = exec (.commandRefusedBusy b) s ∧
        exec (.commandRefusedBusy b) s = .next { s with command := { s.command with
          miso := some 0, collected := [], phase := .awaiting
          reply := some ⟨.busy, List.replicate (replyLength code) 0⟩ } }))

/-- BYTE_COMPLETE moves the port's transaction by one byte, in every phase, and nothing else; while CS_N is high it has no effect
(R166). -/
def Sys2Proof.Claims.ByteMovesTheTransaction : Prop :=
  ∀ (s : State) (b : Byte), s.inReset = false →
    (s.command.csLow = true → exec (.byteComplete b) s = .next { s with command := s.command.byte b }) ∧
    (s.command.csLow = false → exec (.byteComplete b) s = .next s)

/-- Once its reply is formed, a transaction reads the marker, the status and the reply data, and 0xFF from then on; before, 0x00
(R167). -/
def Sys2Proof.Claims.ReplyIsRead : Prop :=
  ∀ (c : CommandPort) (bs cs : List Byte),
    c.phase = .awaiting →
    (c.reply = none → misoStream c bs = List.replicate bs.length (some 0)) ∧
    (∀ r : Reply, c.reply = some r → bs.length = r.data.length + 2 →
      misoStream c (bs ++ cs) = some 0xA5 :: some r.status.code :: r.data.map some ++ List.replicate cs.length (some 0xFF))

/-- The bytes of a transaction after its command (R166, R167). -/
def Obligations.ReplyIsClockedOut : Prop := Claims.ByteMovesTheTransaction ∧ Claims.ReplyIsRead

/-- The waiting command starts when the command in progress is complete (R169). -/
def Sys2Proof.Claims.WaitingCommandStarts : Prop :=
  ∀ (s : State) (t w : Taken), s.inReset = false → s.command.inProgress = some t → t.done = true →
    s.command.waiting = some w →
    exec .waitingCommandStart s = .next { s with command := { s.command with inProgress := some w, waiting := none } }

/-- The wire: a transaction begins, collects, takes a command or refuses it BUSY, and ends; the waiting command starts (R166 to R170). -/
def Obligations.TransactionsTakeCommands : Prop := Claims.ChipSelectBoundsATransaction ∧ Claims.BytesAreCollectedThenTaken ∧ Claims.WaitingCommandStarts

/-- A command carried out as the command in progress gives its reply to its own transaction alone and leaves its place, unless a
command waits to take it over; one that no transaction brought leaves the wire as it stands (R167 to R169; assumption log 1). -/
def Obligations.ReplyGoesToItsOwnTransaction : Prop :=
  ∀ (i : Instr) (r : Reply) (s : State),
    (∀ t : Taken, s.command.inProgress = some t → t.done = false → rowOf t.code t.params = i →
      complete i r s = { s with command := { s.command with
        reply := if t.owned then some r else s.command.reply
        inProgress := if s.command.waiting.isSome then some { t with done := true } else none
        lastReply := some r } }) ∧
    (s.command.inProgress = none → complete i r s = { s with command := { s.command with lastReply := some r } })

/-- Every reply has its command's fixed length, and one that refuses is all 0x00 (R167, R171). -/
def Obligations.RepliesHaveTheirFixedLength : Prop :=
  ∀ (i : Instr) (code : Byte) (ps : List Byte) (s t : State), WellFormed i = true → wireOf i = some (code, ps) →
    s.inReset = false → exec i s = .next t →
    ∃ r : Reply, t.command.lastReply = some r ∧ r.data.length = replyLength code ∧
      (r.status = .ok ∨ r.status = .adjusted ∨ r.data = List.replicate (replyLength code) 0)

/-- The commands that name an entry alone refuse a number out of range BAD_ARG and an empty slot NO_ENTRY, with no effect
(R43, R46, R96, R97, R98, R102). -/
def Obligations.EntryCommandsRefuseOtherNumbers : Prop :=
  ∀ (b : Byte) (s : State), Ready s →
    (200 ≤ b.toNat →
      OnlyAnswers (.retire b) s ⟨.badArg, []⟩ ∧ OnlyAnswers (.readEntry b) s ⟨.badArg, List.replicate 57 0⟩ ∧
      OnlyAnswers (.grantFloor b) s ⟨.badArg, [0]⟩ ∧ OnlyAnswers (.revokeFloor b) s ⟨.badArg, []⟩ ∧
      OnlyAnswers (.mute b) s ⟨.badArg, []⟩ ∧ OnlyAnswers (.unmute b) s ⟨.badArg, []⟩ ∧
      (b ≠ 0xFF → OnlyAnswers (.setChair b) s ⟨.badArg, []⟩)) ∧
    (∀ n : Fin 200, b.toNat = n.1 → s.roster[n] = none →
      OnlyAnswers (.retire b) s ⟨.noEntry, []⟩ ∧ OnlyAnswers (.readEntry b) s ⟨.noEntry, List.replicate 57 0⟩ ∧
      OnlyAnswers (.grantFloor b) s ⟨.noEntry, [0]⟩ ∧ OnlyAnswers (.revokeFloor b) s ⟨.noEntry, []⟩ ∧
      OnlyAnswers (.mute b) s ⟨.noEntry, []⟩ ∧ OnlyAnswers (.unmute b) s ⟨.noEntry, []⟩ ∧
      OnlyAnswers (.setChair b) s ⟨.noEntry, []⟩)

/-! ### Antenna ports -/

/-- A character other than the tenth begins a frame in LISTENING, is added to it in RECEIVING, and is ignored otherwise (R1). -/
def Sys2Proof.Claims.CharactersBuildAFrame : Prop :=
  ∀ (p : Fin 4) (b : Byte) (s : State), s.inReset = false → s.ports[p].enabled = true →
    (s.ports[p].rx = .listening → exec (.characterComplete p b) s =
      .next (finish (s.setPort p { s.ports[p] with rx := .receiving, frame := [b] }))) ∧
    (s.ports[p].rx = .receiving → s.ports[p].frame.length < 9 → exec (.characterComplete p b) s =
      .next (finish (s.setPort p { s.ports[p] with frame := s.ports[p].frame ++ [b] }))) ∧
    (s.ports[p].rx = .resync ∨ s.ports[p].rx = .answering → exec (.characterComplete p b) s = .next (finish s))

/-- What makes ten bytes a valid frame (R2, R177). -/
def Sys2Proof.Claims.FrameValidity : Prop :=
  ∀ b0 b1 b2 b3 b4 b5 b6 b7 b8 b9 : Byte,
    validFrame [b0, b1, b2, b3, b4, b5, b6, b7, b8, b9] = true ↔
      (b0.toNat + b1.toNat + b2.toNat + b3.toNat + b4.toNat + b5.toNat + b6.toNat + b7.toNat + b8.toNat + b9.toNat) % 256 = 0 ∧
      (b0.toNat = 0x6B ∨
        b0.toNat = 0x61 ∧ b1.toNat * 65536 + b2.toNat * 256 + b3.toNat ≠ 0 ∧
          b1.toNat * 65536 + b2.toNat * 256 + b3.toNat ≠ 0xFFFFFF)

/-- The tenth character has the frame judged at once: REJECT and dropped; TAKEN into the inbox with its warming mark; HOLD with the
congested flag set; in DORMANT, WAKE and dropped (R2 to R5). -/
def Sys2Proof.Claims.FrameIsJudgedAndAnswered : Prop :=
  ∀ (p : Fin 4) (b : Byte) (s : State) (x : AntennaPort) (st : PortState) (w : Nat), s.inReset = false → s.ports[p] = x →
    x.enabled = true → x.rx = .receiving → x.frame.length = 9 →
    (x.state = .silent → st = .warming ∧ w = 0) → (x.state ≠ .silent → st = x.state ∧ w = x.warmUp) →
    (validFrame (x.frame ++ [b]) = false → exec (.frameComplete p b) s =
      .next (finish (s.setPort p { x with rx := .answering, frame := [], rejectOwed := false, answer := some .reject }))) ∧
    (validFrame (x.frame ++ [b]) = true → s.mode ≠ .dormant → x.inbox.length < 2 → exec (.frameComplete p b) s =
      .next (finish ((s.setPort p { x with
        state := st, warmUp := w, silence := 0, inbox := x.inbox ++ [⟨x.frame ++ [b], st == .warming⟩]
        rx := .answering, frame := [], rejectOwed := false, answer := some .taken }).postChange .ports ⟨.port p, .receiverSilent⟩
          (x.state == .silent) false))) ∧
    (validFrame (x.frame ++ [b]) = true → s.mode ≠ .dormant → 2 ≤ x.inbox.length → exec (.frameComplete p b) s =
      .next (finish ((s.setPort p { x with
        state := st, warmUp := w, silence := 0, congested := true
        rx := .answering, frame := [], rejectOwed := false, answer := some .hold }).postChange .ports ⟨.port p, .receiverSilent⟩
          (x.state == .silent) false))) ∧
    (validFrame (x.frame ++ [b]) = true → s.mode = .dormant → exec (.frameComplete p b) s =
      .next (finish (((wake s).setPort p { x with
        state := st, warmUp := w, silence := 0
        rx := .answering, frame := [], rejectOwed := false, answer := some .wake }).postChange .ports ⟨.port p, .receiverSilent⟩
          (x.state == .silent) false)))

/-- What makes a frame valid, and what becomes of it (R2 to R5, R177). -/
def Obligations.FramesAreJudgedAndAnswered : Prop := Claims.FrameValidity ∧ Claims.FrameIsJudgedAndAnswered

/-- The other moves of the receiver (R1, R2): a frame that goes wrong is ended, its REJECT sent after the frame gap; the answer sent,
RESYNC; the line idle, LISTENING. That the receiver is RESYNC meanwhile is assumption log 6; that a missing stop bit ends a frame at its
first and at its tenth character too, with REJECT owed, is log 7. -/
def Sys2Proof.Claims.ReceiverMoves : Prop :=
  ∀ (p : Fin 4) (s : State), s.inReset = false → s.ports[p].enabled = true →
    (s.ports[p].rx = .receiving ∨ s.ports[p].rx = .listening → exec (.stopBitMissing p) s =
      .next (finish (s.setPort p { s.ports[p] with rx := .resync, frame := [], rejectOwed := true }))) ∧
    (s.ports[p].rx = .receiving → s.ports[p].frame ≠ [] → exec (.byteGapTimeout p) s =
      .next (finish (s.setPort p { s.ports[p] with rx := .resync, frame := [], rejectOwed := true }))) ∧
    (s.ports[p].rejectOwed = true → exec (.frameGapReject p) s =
      .next (finish (s.setPort p
        { s.ports[p] with rx := .answering, frame := [], rejectOwed := false, answer := some .reject }))) ∧
    (s.ports[p].rx = .answering → s.ports[p].answer.isSome → exec (.answerSent p) s =
      .next (finish (s.setPort p { s.ports[p] with rx := .resync, answer := none }))) ∧
    (s.ports[p].rx = .resync → s.ports[p].rejectOwed = false → s.ports[p].answer = none → exec (.resyncIdle p) s =
      .next (finish (s.setPort p { s.ports[p] with rx := .listening })))

/-- An answer byte that a port had begun before it was disabled is completed, and the port then releases its line (R13). -/
def Sys2Proof.Claims.AnswerOutlivesItsPort : Prop :=
  ∀ (p : Fin 4) (s : State), s.inReset = false → s.ports[p].enabled = false → s.ports[p].answer.isSome →
    exec (.answerSent p) s = .next (finish (s.setPort p { s.ports[p] with answer := none }))

/-- The receiver of a port (R1, R2, R13; assumption log 6 and 7). -/
def Obligations.ReceiverMovesWithItsLine : Prop :=
  Claims.CharactersBuildAFrame ∧ Claims.ReceiverMoves ∧ Claims.AnswerOutlivesItsPort

/-- The end of a warm-up makes a port UP or SILENT; the silence timer's limit makes an UP port SILENT; a port that becomes SILENT
reports RECEIVER_SILENT, and the combiner re-checks its entries (R8 to R10, R32). -/
def Obligations.PortTimersMoveThePort : Prop :=
  ∀ (p : Fin 4) (s : State), Ticking s →
    (s.ports[p].state = .warming → 2000 ≤ s.ports[p].warmUp →
      (s.ports[p].silence < s.tuning.silenceTime →
        exec (.warmUpEnd p) s = .next (finish (s.setPort p { s.ports[p] with state := .up }))) ∧
      (s.tuning.silenceTime ≤ s.ports[p].silence →
        exec (.warmUpEnd p) s = .next (finish (recheckCoverage ((s.setPort p { s.ports[p] with state := .silent }).post .ports
          (.report ⟨.port p, .receiverSilent⟩ true)))))) ∧
    (s.ports[p].state = .up → s.tuning.silenceTime ≤ s.ports[p].silence →
      exec (.portSilenceExpiry p) s = .next (finish (recheckCoverage ((s.setPort p { s.ports[p] with state := .silent }).post .ports
        (.report ⟨.port p, .receiverSilent⟩ true)))))

/-- ENABLE_PORT and READ_PORT (R7, R12 to R14, R32, R178). Disabling a port that was receiving while another still is has every open
pool entry tested; a port that was not receiving brings on no test. Where it was the only receiving port R13 and R32 contradict each
other, and both outcomes are stated, each for its value of a free value (assumption log 24): the entries are left to their windows (R13),
or every one of them is covered and closes (R32). That ENABLE_PORT_OFF carries and refuses the values that are neither on nor off, and 1,
which has a row of its own, is the model's choice (assumption log 8), and so is that the receiver of a port turned off stands at RESYNC
(assumption log 25). -/
def Obligations.PortsAreEnabledDisabledAndRead : Prop :=
  ∀ (b v : Byte) (s : State), Ready s →
    (4 ≤ b.toNat → OnlyAnswers (.enablePortOn b) s ⟨.badArg, []⟩ ∧ OnlyAnswers (.enablePortOff b v) s ⟨.badArg, []⟩ ∧
      OnlyAnswers (.readPort b) s ⟨.badArg, List.replicate 8 0⟩) ∧
    ∀ p : Fin 4, b.toNat = p.1 →
      (v ≠ 0 → OnlyAnswers (.enablePortOff b v) s ⟨.badArg, []⟩) ∧
      (s.ports[p].enabled = true → OnlyAnswers (.enablePortOn b) s ⟨.ok, []⟩) ∧
      (s.ports[p].enabled = false → OnlyAnswers (.enablePortOff b 0) s ⟨.ok, []⟩) ∧
      (s.ports[p].enabled = false → s.ports[p].state = .off → Brings (.enablePortOn b) s (s.setPort p { s.ports[p] with
        enabled := true, state := .warming, rx := .resync, frame := [], rejectOwed := false
        warmUp := 0, silence := 0, inbox := [] }) ⟨.ok, []⟩) ∧
      (s.ports[p].enabled = true → ∀ s' : State, s' = (s.setPort p { s.ports[p] with
          enabled := false, state := .off, rx := .resync, frame := [], rejectOwed := false
          warmUp := 0, silence := 0, inbox := [] }).postChange .ports ⟨.port p, .receiverSilent⟩ (s.ports[p].state == .silent) false →
        (s.ports[p].state = .warming ∨ s.ports[p].state = .up →
          ((∃ q : Fin 4, q ≠ p ∧ (s.ports[q].state = .warming ∨ s.ports[q].state = .up)) →
            Brings (.enablePortOff b 0) s (recheckCoverage s') ⟨.ok, []⟩) ∧
          ((∀ q : Fin 4, q ≠ p → s.ports[q].state = .off ∨ s.ports[q].state = .silent) →
            Brings (.enablePortOff b 0) s (if Config.lastPortLeavesWindows then s' else recheckCoverage s') ⟨.ok, []⟩ ∧
            s'.combiner.pool = s.combiner.pool ∧ ∀ i : Fin 12, (recheckCoverage s').combiner.pool[i] = none)) ∧
        (s.ports[p].state = .silent ∨ s.ports[p].state = .off → Brings (.enablePortOff b 0) s s' ⟨.ok, []⟩)) ∧
      exec (.readPort b) s = .next (complete (.readPort b)
        ⟨.ok, [flagByte s.ports[p].enabled, s.ports[p].state.code] ++ natWord s.ports[p].warmUp ++ natWord s.ports[p].silence ++
          [natByte s.ports[p].inbox.length, flagByte s.ports[p].congested]⟩
        (s.setPort p { s.ports[p] with congested := false }))

/-! ### Sighting combiner -/

/-- The effective strength: a clamped magnitude and two decibels for each corrected symbol beyond the second (R19). -/
def Sys2Proof.Claims.EffectiveStrengthIsBounded : Prop :=
  ∀ r e : Nat, e ≤ 15 →
    (20 ≤ r → r ≤ 110 → 2 ≤ e → effectiveStrength r e = -(r : Int) - 2 * ((e : Int) - 2)) ∧
    (20 ≤ r → r ≤ 110 → e < 2 → effectiveStrength r e = -(r : Int)) ∧
    (r < 20 → effectiveStrength r e = effectiveStrength 20 e) ∧ (110 < r → effectiveStrength r e = effectiveStrength 110 e) ∧
    -136 ≤ effectiveStrength r e ∧ effectiveStrength r e ≤ -20

/-- The strength of a sighting, wherever it is taken, is the effective strength of its magnitude and error count (R19, R177). -/
def Sys2Proof.Claims.SightingsCarryTheirStrength : Prop :=
  ∀ (p : Fin 4) (b0 b1 b2 b3 b4 b5 b6 b7 b8 b9 : Byte) (w : Bool),
    (sightingOf p ⟨[b0, b1, b2, b3, b4, b5, b6, b7, b8, b9], w⟩).s = effectiveStrength b7.toNat (b8.toNat / 16)

/-- FRAME_TAKE takes the oldest frame of the next port in rotation; a KEEPALIVE is set aside and a SIGHTING handled whole (R18,
R20). -/
def Sys2Proof.Claims.FrameIsTakenInRotation : Prop :=
  ∀ (s : State) (d : Nat) (f : InboxFrame) (rest : List InboxFrame), Ready s → d < 4 →
    s.ports[s.combiner.nextPort + Fin.ofNat 4 d].inbox = f :: rest →
    (∀ d' < d, s.ports[s.combiner.nextPort + Fin.ofNat 4 d'].inbox = []) →
    ∃ p : Fin 4, ∃ s' : State, p = s.combiner.nextPort + Fin.ofNat 4 d ∧
      s' = { s with
        ports := setAt s.ports p { s.ports[p] with inbox := rest }
        combiner := { s.combiner with nextPort := p + 1 } } ∧
      (f.bytes.head? ≠ some 0x61 → f.bytes ≠ [] → exec .frameTake s = .next (finish s')) ∧
      (f.bytes.head? = some 0x61 → (∀ (n : Fin 200) (e : Entry), s.roster[n] = some e → e.unit ≠ frameUnit f.bytes) →
        exec .frameTake s = .next (finish (takeStranger (sightingOf p f) s'))) ∧
      (∀ n : Fin 200, f.bytes.head? = some 0x61 → s.entryOfUnit (frameUnit f.bytes) = some n →
        exec .frameTake s = .next (finish (takeEnrolled n (sightingOf p f) s')))

/-- A stranger sighting refreshes its record, or is added at the lowest free position, or replaces the oldest record (R21). -/
def Sys2Proof.Claims.StrangerIsEntered : Prop :=
  ∀ (c : Combiner) (x : Sighting) (i : Fin 8),
    (∀ r : Stranger, c.strangers[i] = some r → r.unit = x.unit →
      (∀ j : Fin 8, j < i → ∀ q, c.strangers[j] = some q → q.unit ≠ x.unit) →
      strangersAfter c x =
        setAt c.strangers i (some ⟨r.unit, x.s, x.port, 0, min 255 (r.heard + 1)⟩)) ∧
    ((∀ (j : Fin 8) (q : Stranger), c.strangers[j] = some q → q.unit ≠ x.unit) →
      (c.strangers[i] = none → (∀ j : Fin 8, j < i → c.strangers[j] ≠ none) →
        strangersAfter c x = setAt c.strangers i (some ⟨x.unit, x.s, x.port, 0, 1⟩)) ∧
      ((∀ j : Fin 8, c.strangers[j] ≠ none) → ∀ r : Stranger, c.strangers[i] = some r →
        (∀ (j : Fin 8) (q : Stranger), c.strangers[j] = some q → q.age ≤ r.age ∧ (q.age = r.age → i ≤ j)) →
        strangersAfter c x = setAt c.strangers i (some ⟨x.unit, x.s, x.port, 0, 1⟩)))

/-- The first record of the stranger table makes the STRANGER condition true, which is reported; a later one does not (R24). -/
def Sys2Proof.Claims.StrangerIsReported : Prop :=
  ∀ (x : Sighting) (s s' : State), s' = { s with combiner := { s.combiner with strangers := strangersAfter s.combiner x } } →
    ((∀ i : Fin 8, s.combiner.strangers[i] = none) →
      takeStranger x s = s'.post .combiner (.report ⟨.chamber, .stranger⟩ true)) ∧
    (∀ (i : Fin 8) (r : Stranger), s.combiner.strangers[i] = some r → takeStranger x s = s')

/-- FRAME_TAKE in rotation, and the stranger table (R18, R20, R21, R24). -/
def Obligations.FramesAreTakenAndStrangersEntered : Prop :=
  Claims.FrameIsTakenInRotation ∧ Claims.StrangerIsEntered ∧ Claims.StrangerIsReported

/-- The newness of a sighting of an enrolled unit: it joins its open entry, supersedes it, opens an entry, or is stale and has no
effect (R26). -/
def Obligations.BeaconNewnessIsTested : Prop :=
  ∀ (s : State) (n : Fin 200) (x : Sighting),
    (∀ (i : Fin 12) (e : PoolEntry), s.combiner.positionOf n = some i → s.combiner.pool[i] = some e →
      ((x.beacon.toNat + 256 - e.beacon.toNat) % 256 = 0 → takeEnrolled n x s = joinPool i e x s) ∧
      (1 ≤ (x.beacon.toNat + 256 - e.beacon.toNat) % 256 → (x.beacon.toNat + 256 - e.beacon.toNat) % 256 ≤ 127 →
        takeEnrolled n x s = openPool n x (closeAt i s)) ∧
      (128 ≤ (x.beacon.toNat + 256 - e.beacon.toNat) % 256 → takeEnrolled n x s = s)) ∧
    (∀ e : Entry, s.combiner.positionOf n = none → s.roster[n] = some e →
      (e.lastBeacon = none ∨ e.presence = .lost ∨ e.presence = .off → takeEnrolled n x s = openPool n x s) ∧
      (∀ l : Byte, e.lastBeacon = some l → e.presence ≠ .lost → e.presence ≠ .off →
        (1 ≤ (x.beacon.toNat + 256 - l.toNat) % 256 → (x.beacon.toNat + 256 - l.toNat) % 256 ≤ 127 →
          takeEnrolled n x s = openPool n x s) ∧
        ((x.beacon.toNat + 256 - l.toNat) % 256 = 0 ∨ 128 ≤ (x.beacon.toNat + 256 - l.toNat) % 256 →
          takeEnrolled n x s = s)))

/-- A pool entry as it opens at the lowest free position, and as a sighting joins it; the coverage test follows (R28, R29, R32). -/
def Sys2Proof.Claims.SightingsOpenAndJoinPoolEntries : Prop :=
  ∀ (s : State) (n : Fin 200) (x : Sighting) (i : Fin 12),
    (s.combiner.pool[i] = none → (∀ j : Fin 12, j < i → s.combiner.pool[j] ≠ none) →
      openPool n x s = coverageTest i (s.setPool i (some
        ⟨n, x.beacon, s.tuning.window, setAt #v[none, none, none, none] x.port (some ⟨x.s, x.warming⟩), x.s, x.payload, false⟩))) ∧
    (∀ e : PoolEntry, joinPool i e x s = coverageTest i (s.setPool i (some
        { e with
          disagree := e.disagree || !(x.payload == e.payload)
          strengths := setAt e.strengths x.port (some ⟨x.s, x.warming⟩)
          best := max e.best x.s
          payload := if e.best < x.s then x.payload else e.payload }))) ∧
    (∀ e : PoolEntry, s.combiner.pool[i] = some e →
      ((∀ p : Fin 4, s.ports[p].state = .warming ∨ s.ports[p].state = .up → e.strengths[p].isSome) →
        coverageTest i s = closeAt i s) ∧
      (∀ p : Fin 4, s.ports[p].state = .warming ∨ s.ports[p].state = .up → e.strengths[p] = none → coverageTest i s = s))

/-- The best counted strength is the greatest that is not warming, at the lowest port among equals (R31). -/
def Sys2Proof.Claims.BestCountedStrength : Prop :=
  ∀ v : Strengths,
    (∀ (x : Int) (p : Fin 4), bestCounted v = some (x, p) ↔
      v[p] = some ⟨x, false⟩ ∧ ∀ (q : Fin 4) (y : Int), v[q] = some ⟨y, false⟩ → y ≤ x ∧ (y = x → p ≤ q)) ∧
    (bestCounted v = none ↔ ∀ (p : Fin 4) (y : PortStrength), v[p] = some y → y.warming = true)

/-- Effective strength, and the best counted strength (R19, R31). -/
def Obligations.StrengthsAreMeasuredAndCompared : Prop :=
  Claims.EffectiveStrengthIsBounded ∧ Claims.SightingsCarryTheirStrength ∧ Claims.BestCountedStrength

/-- A pool entry whose window has run out closes and hands over its observation; a stranger record at its age limit is removed
(R22, R24, R30, R31). -/
def Sys2Proof.Claims.WindowsAndStrangersExpire : Prop :=
  ∀ s : State, Ticking s →
    (∀ (i : Fin 12) (e : PoolEntry), s.combiner.pool[i] = some e → e.window = 0 →
      exec (.poolWindowExpiry i) s = .next (finish (applyObservation e.entry
        ⟨e.beacon, e.payload, e.disagree, e.strengths, bestCounted e.strengths⟩ (s.setPool i none)))) ∧
    (∀ (i : Fin 8) (r : Stranger), s.combiner.strangers[i] = some r → 10000 ≤ r.age →
      ((∀ j : Fin 8, j ≠ i → s.combiner.strangers[j] = none) → exec (.strangerAgeExpiry i) s =
        .next (finish ((s.setStranger i none).post .combiner (.report ⟨.chamber, .stranger⟩ false)))) ∧
      (∀ (j : Fin 8) (q : Stranger), j ≠ i → s.combiner.strangers[j] = some q → exec (.strangerAgeExpiry i) s =
        .next (finish (s.setStranger i none))))

/-- The re-check closes exactly the entries that every receiving port has heard (R32). -/
def Sys2Proof.Claims.RecheckClosesCoveredEntries : Prop :=
  ∀ (s : State) (i : Fin 12),
    (s.combiner.pool[i] = none → (recheckCoverage s).combiner.pool[i] = none) ∧
    (∀ e : PoolEntry, s.combiner.pool[i] = some e →
      ((∀ p : Fin 4, s.ports[p].state = .warming ∨ s.ports[p].state = .up → e.strengths[p].isSome) →
        (recheckCoverage s).combiner.pool[i] = none) ∧
      (∀ p : Fin 4, s.ports[p].state = .warming ∨ s.ports[p].state = .up → e.strengths[p] = none →
        (recheckCoverage s).combiner.pool[i] = some e))

/-- A pool entry that closes frees its position and hands over one observation; a re-check does so for each covered entry, in entry
order (assumption log 11), and for no other (R31, R32). -/
def Sys2Proof.Claims.ClosedEntriesHandOver : Prop :=
  ∀ s : State,
    (∀ (i : Fin 12) (e : PoolEntry), s.combiner.pool[i] = some e → closeAt i s = applyObservation e.entry
      ⟨e.beacon, e.payload, e.disagree, e.strengths, bestCounted e.strengths⟩ (s.setPool i none)) ∧
    ∃ l : List (Fin 12), recheckCoverage s = l.foldl (fun u i => closeAt i u) s ∧ l.Nodup ∧
      (∀ i : Fin 12, i ∈ l ↔ ∃ e : PoolEntry, s.combiner.pool[i] = some e ∧
        ∀ p : Fin 4, s.ports[p].state = .warming ∨ s.ports[p].state = .up → e.strengths[p].isSome) ∧
      (l.filterMap fun i => s.combiner.pool[i].map fun e => e.entry.1).Pairwise (· ≤ ·)

/-- In a full pool the entry with the least window remaining, at the lowest position among equals, is closed first, and the new entry
takes its position (R28). -/
def Sys2Proof.Claims.FullPoolMakesRoom : Prop :=
  ∀ (s : State) (n : Fin 200) (x : Sighting) (i : Fin 12) (e : PoolEntry), (∀ j : Fin 12, s.combiner.pool[j] ≠ none) →
    s.combiner.pool[i] = some e →
    (∀ (j : Fin 12) (f : PoolEntry), s.combiner.pool[j] = some f → e.window ≤ f.window ∧ (f.window = e.window → i ≤ j)) →
    openPool n x s = coverageTest i ((closeAt i s).setPool i (some
      ⟨n, x.beacon, s.tuning.window, setAt #v[none, none, none, none] x.port (some ⟨x.s, x.warming⟩), x.s, x.payload, false⟩))

/-- Pool entries opened, joined, covered and closed (R28, R29, R31, R32). -/
def Obligations.PoolEntriesOpenJoinAndClose : Prop :=
  Claims.SightingsOpenAndJoinPoolEntries ∧ Claims.RecheckClosesCoveredEntries ∧ Claims.ClosedEntriesHandOver ∧ Claims.FullPoolMakesRoom

/-! ### Roster -/

/-- What becomes of the stranger table when a unit is enrolled (R23, R24, R39): the unit's record is removed and every other position
stays; STRANGER is reported false exactly where it was the last record; without a record of the unit nothing changes. -/
def Sys2Proof.Claims.StrangerIsForgotten : Prop :=
  ∀ (s : State) (u : UnitId),
    ((∀ (j : Fin 8) (q : Stranger), s.combiner.strangers[j] = some q → q.unit ≠ u) → s.forgetStranger u = s) ∧
    (∀ (i : Fin 8) (r : Stranger), s.combiner.strangers[i] = some r → r.unit = u →
      (∀ (j : Fin 8) (q : Stranger), s.combiner.strangers[j] = some q → q.unit = u → j = i) → ∀ s' : State,
      s' = { s with combiner := { s.combiner with strangers := setAt s.combiner.strangers i none } } →
      ((∀ j : Fin 8, j ≠ i → s.combiner.strangers[j] = none) →
        s.forgetStranger u = s'.post .combiner (.report ⟨.chamber, .stranger⟩ false)) ∧
      (∀ (j : Fin 8) (q : Stranger), j ≠ i → s.combiner.strangers[j] = some q → s.forgetStranger u = s'))

/-- ENROL: its checks in their order, then the entry at the lowest free slot (R37 to R39). -/
def Sys2Proof.Claims.EnrolIsChecked : Prop :=
  ∀ (u : UnitId) (seat group profile : Byte) (s : State), Ready s →
    (u = 0 ∨ u = 0xFFFFFF ∨ seat.toNat = 0 ∨ 250 < seat.toNat ∨ 7 < group.toNat ∨ 3 < profile.toNat →
      OnlyAnswers (.enrol u seat group profile) s ⟨.badArg, [0]⟩) ∧
    (u ≠ 0 → u ≠ 0xFFFFFF → 1 ≤ seat.toNat → seat.toNat ≤ 250 → ∀ (g : Fin 8) (p : Fin 4), group.toNat = g.1 → profile.toNat = p.1 →
      ((∃ n e, s.roster[(n : Fin 200)] = some e ∧ e.unit = u) →
        OnlyAnswers (.enrol u seat group profile) s ⟨.duplicateUnit, [0]⟩) ∧
      ((∀ (n : Fin 200) (e : Entry), s.roster[n] = some e → e.unit ≠ u) →
        ((∃ n e, s.roster[(n : Fin 200)] = some e ∧ e.seat = seat.toNat) →
          OnlyAnswers (.enrol u seat group profile) s ⟨.seatTaken, [0]⟩) ∧
        ((∀ (n : Fin 200) (e : Entry), s.roster[n] = some e → e.seat ≠ seat.toNat) →
          ((∀ n : Fin 200, s.roster[n] ≠ none) → OnlyAnswers (.enrol u seat group profile) s ⟨.rosterFull, [0]⟩) ∧
          (∀ n : Fin 200, s.roster[n] = none → (∀ m : Fin 200, m < n → s.roster[m] ≠ none) →
            Brings (.enrol u seat group profile) s
              ((s.setSlot n (some ⟨u, seat.toNat, g, .awaited, 0, none, none, .unknown, false, #v[none, none, none, none],
                ⟨p, none, none, .unknown, none⟩, ⟨none, .unknown, none⟩, false, none⟩)).forgetStranger u)
              ⟨.ok, [natByte n.1]⟩))))

/-- ENROL: its checks, the entry it creates, and the unit's stranger record removed (R23, R24, R37 to R39). -/
def Obligations.EnrolChecksAndCreates : Prop := Claims.EnrolIsChecked ∧ Claims.StrangerIsForgotten

/-- ENROL_STRANGER: its checks in their order, then the record's unit enrolled at the lowest free slot (R40). -/
def Sys2Proof.Claims.EnrolStrangerIsChecked : Prop :=
  ∀ (b seat group profile : Byte) (s : State), Ready s →
    (7 < b.toNat ∨ seat.toNat = 0 ∨ 250 < seat.toNat ∨ 7 < group.toNat ∨ 3 < profile.toNat →
      OnlyAnswers (.enrolStranger b seat group profile) s ⟨.badArg, [0, 0, 0, 0]⟩) ∧
    (1 ≤ seat.toNat → seat.toNat ≤ 250 → ∀ (i g : Fin 8) (p : Fin 4), b.toNat = i.1 → group.toNat = g.1 → profile.toNat = p.1 →
      (s.combiner.strangers[i] = none → OnlyAnswers (.enrolStranger b seat group profile) s ⟨.noEntry, [0, 0, 0, 0]⟩) ∧
      (∀ r : Stranger, s.combiner.strangers[i] = some r →
        ((∃ n e, s.roster[(n : Fin 200)] = some e ∧ e.seat = seat.toNat) →
          OnlyAnswers (.enrolStranger b seat group profile) s ⟨.seatTaken, [0, 0, 0, 0]⟩) ∧
        ((∀ (n : Fin 200) (e : Entry), s.roster[n] = some e → e.seat ≠ seat.toNat) →
          ((∀ n : Fin 200, s.roster[n] ≠ none) →
            OnlyAnswers (.enrolStranger b seat group profile) s ⟨.rosterFull, [0, 0, 0, 0]⟩) ∧
          (∀ n : Fin 200, s.roster[n] = none → (∀ m : Fin 200, m < n → s.roster[m] ≠ none) →
            Brings (.enrolStranger b seat group profile) s
              ((s.setSlot n (some ⟨r.unit, seat.toNat, g, .awaited, 0, none, none, .unknown, false, #v[none, none, none, none],
                ⟨p, none, none, .unknown, none⟩, ⟨none, .unknown, none⟩, false, none⟩)).forgetStranger r.unit)
              ⟨.ok, natByte n.1 :: bytesOfUnit r.unit⟩))))

/-- ENROL_STRANGER, in a table in which each unit has one record: the record named is removed and every other position stays, and
STRANGER is reported false exactly where it was the last (R23, R24, R40). -/
def Sys2Proof.Claims.EnrolledRecordIsRemoved : Prop :=
  ∀ (b seat group profile : Byte) (i g : Fin 8) (p : Fin 4) (n : Fin 200) (r : Stranger) (s s' : State), Ready s → KeyLaw s →
    b.toNat = i.1 → 1 ≤ seat.toNat → seat.toNat ≤ 250 → group.toNat = g.1 → profile.toNat = p.1 →
    s.combiner.strangers[i] = some r → (∀ (m : Fin 200) (e : Entry), s.roster[m] = some e → e.seat ≠ seat.toNat) →
    s.roster[n] = none → (∀ m : Fin 200, m < n → s.roster[m] ≠ none) →
    s' = { s with
      roster := setAt s.roster n (some ⟨r.unit, seat.toNat, g, .awaited, 0, none, none, .unknown, false, #v[none, none, none, none],
        ⟨p, none, none, .unknown, none⟩, ⟨none, .unknown, none⟩, false, none⟩)
      combiner := { s.combiner with strangers := setAt s.combiner.strangers i none } } →
    ((∀ j : Fin 8, j ≠ i → s.combiner.strangers[j] = none) → Brings (.enrolStranger b seat group profile) s
      (s'.post .combiner (.report ⟨.chamber, .stranger⟩ false)) ⟨.ok, natByte n.1 :: bytesOfUnit r.unit⟩) ∧
    (∀ (j : Fin 8) (q : Stranger), j ≠ i → s.combiner.strangers[j] = some q → Brings (.enrolStranger b seat group profile) s s'
      ⟨.ok, natByte n.1 :: bytesOfUnit r.unit⟩)

/-- ENROL_STRANGER: its checks, the entry it creates, and the record removed (R23, R24, R37, R39, R40). -/
def Obligations.EnrolStrangerChecksAndCreates : Prop := Claims.EnrolStrangerIsChecked ∧ Claims.EnrolledRecordIsRemoved

/-- RETIRE empties the slot, drops its open pool entry, frees its floor slot, ends its chair designation and the hold that it
claimed, and quiets its warnings; every other holder keeps its slot, or returns to it where the chair's hold ends; and nothing of another
unit's entry changes but a hot-mic timer of a returned holder (R46, R47, R33, R108). -/
def Obligations.RetireEmptiesTheSlot : Prop :=
  ∀ (b : Byte) (n : Fin 200) (e : Entry) (s : State), Ready s → s.engine.posted = [] → FloorLaw s → b.toNat = n.1 →
    s.roster[n] = some e →
    ∃ t : State, exec (.retire b) s = .next t ∧ t.roster[n] = none ∧
      (∀ m : Fin 200, m ≠ n → s.roster[m] = none → t.roster[m] = none) ∧
      (∀ (i : Fin 12) (x : PoolEntry), t.combiner.pool[i] = some x ↔ s.combiner.pool[i] = some x ∧ x.entry ≠ n) ∧
      t.combiner = { s.combiner with pool := t.combiner.pool } ∧
      t.floor.chair = (if s.floor.chair = some n then none else s.floor.chair) ∧
      t.floor = { s.floor with live := t.floor.live, held := t.floor.held, chair := t.floor.chair, cause := t.floor.cause } ∧
      (¬(s.floor.chair = some n ∧ s.floor.cause = .chair) → t.floor.cause = s.floor.cause ∧
        (∀ (k : Fin 6) (x : LiveSlot), t.floor.live[k] = some x ↔ s.floor.live[k] = some x ∧ x.holder ≠ n) ∧
        (∀ (k : Fin 6) (m : Fin 200), t.floor.held[k] = some m ↔ s.floor.held[k] = some m ∧ m ≠ n) ∧
        (∀ m : Fin 200, m ≠ n → t.roster[m] = s.roster[m]) ∧
        ∀ r : WarnRecord, r ∈ t.engine.warnings ↔ r ∈ s.engine.warnings ∧ r.id.subject ≠ .entry n) ∧
      (s.floor.chair = some n → s.floor.cause = .chair → t.floor.cause = .none ∧
        (∀ k : Fin 6, t.floor.held[k] = none ∧ t.floor.live[k] = s.floor.held[k].map fun m =>
          ⟨m, s.tuning.silentTime, t.speaking m, false⟩) ∧
        (∀ (m : Fin 200) (f : Entry), m ≠ n → s.roster[m] = some f → t.roster[m] = some
          (if s.floor.heldSlotOf m = none then f
            else { f with hot := if t.hotTerms m f then some (f.hot.getD ⟨0, s.tuning.hotDelay == 0⟩) else none }))) ∧
      (∀ r ∈ t.engine.warnings, r.id.subject ≠ .entry n) ∧
      t = complete (.retire b) ⟨.ok, []⟩ { s with
        combiner := t.combiner, roster := t.roster, floor := t.floor
        engine := t.engine, choice := t.choice, lines := t.lines }

/-- FIND_UNIT (R41): the entry that holds the Unit ID, or NO_ENTRY, also for the two Unit IDs that no entry can hold; nothing but the
wake of a DORMANT part changes. -/
def Obligations.UnitsAreFound : Prop :=
  ∀ (u : UnitId) (s : State), s.inReset = false →
    (∀ (n : Fin 200) (e : Entry), KeyLaw s → s.roster[n] = some e → e.unit = u →
      exec (.findUnit u) s = .next (complete (.findUnit u) ⟨.ok, [natByte n.1]⟩ (wakeIfDormant s))) ∧
    ((∀ (n : Fin 200) (e : Entry), s.roster[n] = some e → e.unit ≠ u) →
      exec (.findUnit u) s = .next (complete (.findUnit u) ⟨.noEntry, [0]⟩ (wakeIfDormant s))) ∧
    (u = 0 ∨ u = 0xFFFFFF → KeyLaw s →
      exec (.findUnit u) s = .next (complete (.findUnit u) ⟨.noEntry, [0]⟩ (wakeIfDormant s)))

/-- FIND_SEAT and READ_ENTRY (R42, R43). -/
def Sys2Proof.Claims.SeatsAreFoundAndEntriesRead : Prop :=
  ∀ (b : Byte) (s : State), Ready s →
    (b.toNat = 0 ∨ 250 < b.toNat → OnlyAnswers (.findSeat b) s ⟨.badArg, [0]⟩) ∧
    (1 ≤ b.toNat → b.toNat ≤ 250 →
      (∀ (n : Fin 200) (e : Entry), KeyLaw s → s.roster[n] = some e → e.seat = b.toNat →
        OnlyAnswers (.findSeat b) s ⟨.ok, [natByte n.1]⟩) ∧
      ((∀ (n : Fin 200) (e : Entry), s.roster[n] = some e → e.seat ≠ b.toNat) →
        OnlyAnswers (.findSeat b) s ⟨.noEntry, [0]⟩)) ∧
    (∀ (n : Fin 200) (e : Entry), b.toNat = n.1 → s.roster[n] = some e →
      OnlyAnswers (.readEntry b) s ⟨.ok, s.entryRecord n e⟩)

/-- The 57 bytes of the entry record (section 11.5), with the codes of section 11.2. -/
def Sys2Proof.Claims.EntryRecordLayout : Prop :=
  ∀ (s : State) (n : Fin 200) (e : Entry), ∃ flags marks : Byte,
    s.entryRecord n e =
      bytesOfUnit e.unit ++ [natByte e.seat, natByte e.group.1,
        (match e.presence with
          | .awaited => 0
          | .live => 1
          | .fading => 2
          | .lost => 3
          | .off => 4)] ++ natWord e.age ++
      ([(match e.interval with
        | some .fast => 1
        | some .slow => 5
        | none => 0xFF)] : List Byte) ++
      (match e.lastBeacon with
        | some l => [0, l]
        | none => [0xFF, 0xFF]) ++
      ([(match e.switch with
        | .unknown => 0
        | .opened => 1
        | .closed => 2), flags] : List Byte) ++
      ((List.finRange 4).map fun p => match e.strengths[p] with
        | some x => natByte x.s.natAbs
        | none => 0) ++
      [marks, natByte e.battery.profile.1] ++
      (match e.battery.lastCell with
        | some c => natWord c
        | none => [0xFF, 0xFF]) ++
      (match e.battery.filtered with
        | some f => natWord f
        | none => [0xFF, 0xFF]) ++
      [e.battery.level.code] ++
      (match e.battery.pending with
        | some c => [c.level.code, natByte c.count]
        | none => [0, 0]) ++
      ([(match e.signal.margin with
        | some q => BitVec.ofInt 8 q
        | none => 0x80),
       (match e.signal.level with
        | .unknown => 0
        | .good => 1
        | .weak => 2
        | .poor => 3),
       (match e.signal.serving with
        | some p => natByte p.1
        | none => 0xFF)] : List Byte) ++
      (match s.floor.liveSlotOf n, s.floor.heldSlotOf n with
        | some k, _ => [1, natByte k.1]
        | none, some k => [2, natByte k.1]
        | none, none => [0, 0]) ++
      (match e.hot with
        | some h => natWord h.elapsed
        | none => [0xFF, 0xFF]) ++
      [WClass.sigLost, .battCritical, .sigWeak, .hotMic, .battLow, .silentFloor].flatMap (fun c =>
        match s.engine.find ⟨.entry n, c⟩ with
        | some r => (match r.state with
            | .raised => 1
            | .noted => 2
            | .standing => 3) :: bytesOfWord r.stamp ++ [if (⟨.entry n, c⟩ : WarnId) ∈ s.engine.attention then 1 else 0]
        | none => [0, 0, 0, 0]) ∧
    (∀ l : BattLevel, l.code = (match l with
      | .unknown => 0
      | .ok => 1
      | .low => 2
      | .critical => 3
      | .exhausted => 4)) ∧
    (flags.getLsbD 0 = true ↔ e.disagree = true) ∧ (flags.getLsbD 1 = true ↔ e.muted = true) ∧
    (flags.getLsbD 2 = true ↔ s.floor.chair = some n) ∧ (flags.getLsbD 3 = true ↔ s.speaking n = true) ∧ flags.toNat < 16 ∧
    (∀ p : Fin 4, marks.getLsbD p.1 = true ↔ ∃ x : Int, e.strengths[p] = some ⟨x, true⟩) ∧ marks.toNat < 16 ∧
    (s.entryRecord n e).length = 57

/-- FIND_SEAT, READ_ENTRY, READ_STATUS and the answer to an unknown code (R42, R43, R170, R174, section 11.5). -/
def Obligations.RecordsAreFoundAndRead : Prop :=
  Claims.SeatsAreFoundAndEntriesRead ∧ Claims.EntryRecordLayout ∧ Claims.StatusIsReadAndUnknownCodesAnswered

/-- AMEND_ENTRY: its checks in their order, then the three values replaced, and a changed profile's re-classification (R44, R45). -/
def Obligations.AmendmentReplacesThreeValues : Prop :=
  ∀ (b seat group profile : Byte) (s : State), Ready s →
    (200 ≤ b.toNat ∨ seat.toNat = 0 ∨ 250 < seat.toNat ∨ 7 < group.toNat ∨ 3 < profile.toNat →
      OnlyAnswers (.amendEntry b seat group profile) s ⟨.badArg, []⟩) ∧
    (1 ≤ seat.toNat → seat.toNat ≤ 250 → ∀ (n : Fin 200) (g : Fin 8) (p : Fin 4), b.toNat = n.1 → group.toNat = g.1 →
      profile.toNat = p.1 →
      (s.roster[n] = none → OnlyAnswers (.amendEntry b seat group profile) s ⟨.noEntry, []⟩) ∧
      (∀ e : Entry, s.roster[n] = some e →
        ((∃ m f, s.roster[(m : Fin 200)] = some f ∧ m ≠ n ∧ f.seat = seat.toNat) →
          OnlyAnswers (.amendEntry b seat group profile) s ⟨.seatTaken, []⟩) ∧
        ((∀ (m : Fin 200) (f : Entry), s.roster[m] = some f → m ≠ n → f.seat ≠ seat.toNat) →
          (e.battery.profile = p → Brings (.amendEntry b seat group profile) s
            (s.setSlot n (some { e with seat := seat.toNat, group := g })) ⟨.ok, []⟩) ∧
          (e.battery.profile ≠ p → Brings (.amendEntry b seat group profile) s
            (reclassifyEntry n (s.setSlot n (some
              { e with seat := seat.toNat, group := g, battery := { e.battery with profile := p } }))) ⟨.ok, []⟩))))

/-- An observation sets the entry's fields and changes no other entry but a hot-mic timer where the chair's claim moves the floor
(R48, R49). -/
def Sys2Proof.Claims.ObservationSetsTheEntry : Prop :=
  ∀ (s : State) (n : Fin 200) (e : Entry) (o : Observation), s.roster[n] = some e →
    (∃ h, (applyObservation n o s).roster[n] = some { e with
      lastBeacon := some o.beacon
      interval := some (if o.payload.fast then .fast else .slow)
      age := 0
      presence := if o.payload.farewell then .off else .live
      switch := if o.payload.farewell then .closed else if o.payload.switchOpen then .opened else .closed
      strengths := o.strengths
      disagree := o.disagree
      battery := evalBattery s.profiles[e.battery.profile] e.battery o.payload.cell
      signal := evalSignal s.tuning e.signal o.best
      hot := h }) ∧
    (∀ (m : Fin 200) (f : Entry), m ≠ n → s.roster[m] = some f →
      ∃ h, (applyObservation n o s).roster[m] = some { f with hot := h }) ∧
    (∀ m : Fin 200, s.roster[m] = none → (applyObservation n o s).roster[m] = none) ∧
    applyObservation n o s = { s with
      roster := (applyObservation n o s).roster, floor := (applyObservation n o s).floor, engine := (applyObservation n o s).engine }

/-- What an observation hands on (R49, R56, R70, R74, R89): SIG_LOST false where the entry was LOST in SESSION; the battery's report,
and after it the quieting where fresh cells were taken; SIG_WEAK where it changed; and the entry to the floor arbiter. -/
def Sys2Proof.Claims.ObservationIsHandedOn : Prop :=
  ∀ (s : State) (n : Fin 200) (e f : Entry) (o : Observation), s.roster[n] = some e →
    f = { e with
      lastBeacon := some o.beacon
      interval := some (if o.payload.fast then .fast else .slow)
      age := 0
      presence := if o.payload.farewell then .off else .live
      switch := if o.payload.farewell then .closed else if o.payload.switchOpen then .opened else .closed
      strengths := o.strengths
      disagree := o.disagree
      battery := evalBattery s.profiles[e.battery.profile] e.battery o.payload.cell
      signal := evalSignal s.tuning e.signal o.best } →
    ∀ u v : State,
      u = postBattery n e.battery.level f.battery.level ((s.setSlot n (some f)).postChange .roster ⟨.entry n, .sigLost⟩
        (s.mode == .session && e.presence == .lost) false) →
      ((∃ x : Nat, e.battery.filtered = some x ∧ o.payload.cell ≤ 1022 ∧ x + s.profiles[e.battery.profile].j ≤ 5 * o.payload.cell) →
        v = u.post .battery (.quietCells n)) →
      (¬(∃ x : Nat, e.battery.filtered = some x ∧ o.payload.cell ≤ 1022 ∧ x + s.profiles[e.battery.profile].j ≤ 5 * o.payload.cell) →
        v = u) →
      applyObservation n o s = floorTakes n (v.postChange .signal ⟨.entry n, .sigWeak⟩
        (s.mode == .session && e.signal.level == .poor) (s.mode == .session && f.signal.level == .poor))

/-- What the floor arbiter does with an entry's new switch and presence (R49, R101, R109): speaking and the hot-mic timer derived
afresh; and where the entry is the chair, a CHAIR hold begins from NONE with its claim and ends without it. -/
def Sys2Proof.Claims.FloorTakesAnEntry : Prop :=
  ∀ (n : Fin 200) (s : State),
    (s.floor.chair ≠ some n → floorTakes n s = derive n s) ∧
    (s.floor.chair = some n → ∀ claims : Bool,
      (claims = true ↔ s.tuning.priority = true ∧ s.mode = .session ∧ ∃ e : Entry, s.roster[n] = some e ∧ e.switch = .opened ∧
        (e.presence = .live ∨ e.presence = .fading)) →
      (s.floor.cause = .none → floorTakes n s = if claims then (moveToHeld (derive n s)).setCause .chair else derive n s) ∧
      (s.floor.cause = .chair → floorTakes n s = if claims then derive n s else (moveBack (derive n s)).setCause .none) ∧
      (s.floor.cause = .silence → floorTakes n s = derive n s))

/-- An observation applied to its entry, and what it hands on to the evaluators, the engine and the floor arbiter (R48, R49). -/
def Obligations.ObservationIsApplied : Prop :=
  Claims.ObservationSetsTheEntry ∧ Claims.ObservationIsHandedOn ∧ Claims.FloorTakesAnEntry

/-- A LIVE entry fades, and a LIVE or FADING entry is lost, by its age; a loss discards the signal fields and is reported in SESSION
(R51, R53, R56, R89, R90). -/
def Sys2Proof.Claims.EntriesFadeAndAreLost : Prop :=
  ∀ (s : State) (n : Fin 200) (e : Entry), Ticking s → s.roster[n] = some e →
    (∀ i : BeaconInterval, e.presence = .live → e.interval = some i →
      3 * (if i = .fast then 100 else 500) < e.age → 3 * (if i = .fast then 100 else 500) < s.tuning.lostTime →
      exec (.entryFading n) s = .next (finish (floorTakes n (s.setSlot n (some { e with presence := .fading }))))) ∧
    (e.presence = .live ∨ e.presence = .fading → s.tuning.lostTime < e.age →
      exec (.entryLost n) s = .next (finish (floorTakes n
        (((s.setSlot n (some { e with presence := .lost, signal := ⟨none, .unknown, none⟩ })).postChange .roster ⟨.entry n, .sigLost⟩
          false (s.mode == .session)).postChange .signal ⟨.entry n, .sigWeak⟩
          (s.mode == .session && e.signal.level == .poor) false))))

/-- Pool windows, stranger ages and roster ages reach their limits (R22, R30, R51, R53). -/
def Obligations.AgesAndWindowsRunOut : Prop := Claims.WindowsAndStrangersExpire ∧ Claims.EntriesFadeAndAreLost

/-! ### Battery and signal evaluation -/

/-- The voltage of a level code, and the classification of a voltage, also of one below 0, as F less H may be (R60, R69, R72). -/
def Sys2Proof.Claims.VoltagesAreClassified : Prop :=
  (∀ c : Nat, c ≤ 15 → codeVoltage c = 2000 + 50 * c) ∧ (∀ c : Nat, 16 ≤ c → c ≤ 31 → codeVoltage c = 2800 + 100 * (c - 16)) ∧
  ∀ (p : Profile) (x : Int), p.ve < p.vc → p.vc < p.vl → p.vl ≤ 31 →
    (classify p x = .exhausted ↔ x ≤ codeVoltage p.ve) ∧
    (classify p x = .critical ↔ codeVoltage p.ve < x ∧ x ≤ codeVoltage p.vc) ∧
    (classify p x = .low ↔ codeVoltage p.vc < x ∧ x ≤ codeVoltage p.vl) ∧
    (classify p x = .ok ↔ codeVoltage p.vl < x)

/-- The filter's step is the quotient rounded to the nearest, halves away from zero; it never passes the reading, it is 0 within half
a step, and it has the sign of the difference (R71, R87). -/
def Sys2Proof.Claims.FilterStepRoundsAndNeverPasses : Prop :=
  ∀ (k : Nat) (d : Int), 1 ≤ k → k ≤ 4 →
    (0 ≤ d → 2 * 2 ^ k * filterStep k d ≤ 2 * d + 2 ^ k ∧ 2 * d + 2 ^ k < 2 * 2 ^ k * filterStep k d + 2 * 2 ^ k) ∧
    filterStep k (-d) = -filterStep k d ∧
    (0 ≤ d → 0 ≤ filterStep k d ∧ filterStep k d ≤ d) ∧
    (filterStep k d = 0 ↔ d.natAbs < 2 ^ (k - 1))

/-- Level codes, classification and the filter step (R60, R69, R71, R72, R87). -/
def Obligations.VoltagesAreClassifiedAndFiltered : Prop := Claims.VoltagesAreClassified ∧ Claims.FilterStepRoundsAndNeverPasses

/-- An evaluation of a cell code: no reading holds, a first reading and a replacement set the level at once, and any other reading is
filtered and confirmed (R66 to R68, R70 to R73). -/
def Sys2Proof.Claims.CellCodesAreEvaluated : Prop :=
  ∀ (p : Profile) (b : Battery) (c : Nat),
    (1023 ≤ c → evalBattery p b c = b) ∧
    (c ≤ 1022 → b.filtered = none → evalBattery p b c =
      { b with lastCell := some c, filtered := some (5 * c), level := classify p (5 * c : Nat), pending := none }) ∧
    (∀ f : Nat, c ≤ 1022 → b.filtered = some f → f + p.j ≤ 5 * c → evalBattery p b c =
      { b with lastCell := some c, filtered := some (5 * c), level := classify p (5 * c : Nat), pending := none }) ∧
    (∀ (f : Nat) (f' : Int) (cand : BattLevel), c ≤ 1022 → b.filtered = some f → 5 * c < f + p.j →
      f' = f + filterStep p.k (5 * c - f) → cand = battCandidate p f' b.level →
      (cand = b.level → evalBattery p b c = { b with lastCell := some c, filtered := some f'.toNat, pending := none }) ∧
      (∀ m : Nat, cand ≠ b.level →
        m = (match b.pending with
          | some q => if q.level = cand then q.count + 1 else 1
          | none => 1) →
        ((if cand.worseThan b.level then p.nd else p.nu) ≤ m → evalBattery p b c =
          { b with lastCell := some c, filtered := some f'.toNat, level := cand, pending := none }) ∧
        (m < (if cand.worseThan b.level then p.nd else p.nu) → evalBattery p b c =
          { b with lastCell := some c, filtered := some f'.toNat, pending := some ⟨cand, m⟩ })))

/-- The candidate level (R65, R72): the level of F where that is worse than the level held, else the level of F less the hysteresis where
that is better, else the level held; worse is later in the order OK, LOW, CRITICAL, EXHAUSTED. -/
def Sys2Proof.Claims.CandidatesHaveHysteresis : Prop :=
  (∀ a b : BattLevel, a.worseThan b = true ↔ a ≠ .unknown ∧ b ≠ .unknown ∧ b.code.toNat < a.code.toNat) ∧
  ∀ (p : Profile) (f : Int) (now : BattLevel), now ≠ .unknown →
    (now.code.toNat < (classify p f).code.toNat → battCandidate p f now = classify p f) ∧
    ((classify p f).code.toNat ≤ now.code.toNat → (classify p (f - p.h)).code.toNat < now.code.toNat →
      battCandidate p f now = classify p (f - p.h)) ∧
    ((classify p f).code.toNat ≤ now.code.toNat → now.code.toNat ≤ (classify p (f - p.h)).code.toNat →
      battCandidate p f now = now)

/-- The battery's reports (R74): BATT_LOW is true at LOW, BATT_CRITICAL at CRITICAL and EXHAUSTED; each is reported when it changes,
both in one report where both change. -/
def Sys2Proof.Claims.BatteryIsReported : Prop :=
  ∀ (s : State) (n : Fin 200) (a b : BattLevel) (la lb ca cb : Bool),
    (la = true ↔ a = .low) → (lb = true ↔ b = .low) →
    (ca = true ↔ a = .critical ∨ a = .exhausted) → (cb = true ↔ b = .critical ∨ b = .exhausted) →
    (la ≠ lb → ca ≠ cb → postBattery n a b s = s.post .battery (.both ⟨.entry n, .battLow⟩ lb ⟨.entry n, .battCritical⟩ cb)) ∧
    (la ≠ lb → ca = cb → postBattery n a b s = s.post .battery (.report ⟨.entry n, .battLow⟩ lb)) ∧
    (la = lb → ca ≠ cb → postBattery n a b s = s.post .battery (.report ⟨.entry n, .battCritical⟩ cb)) ∧
    (la = lb → ca = cb → postBattery n a b s = s)

/-- An evaluation of a cell code, its candidate, and its reports (R65 to R68, R70 to R74). -/
def Obligations.BatteryIsEvaluated : Prop :=
  Claims.CellCodesAreEvaluated ∧ Claims.CandidatesHaveHysteresis ∧ Claims.BatteryIsReported

/-- SWEEP_VISIT re-classifies an entry of the swept profile whose F is present, passes an entry of it whose F is absent, an entry of
another profile and an empty slot, and moves on; after slot 199 the sweep is idle (R76, R77). -/
def Sys2Proof.Claims.SweepVisitsASlot : Prop :=
  ∀ (s s' : State) (w : Sweep), Ticking s → s.sweepDue = true → s.sweep = some w →
    s' = { s with
      sweepDue := false
      sweep := if h : w.position.1 + 1 < 200 then some ⟨w.profile, ⟨w.position.1 + 1, h⟩⟩ else none } →
    (∀ (e : Entry) (f : Nat) (l : BattLevel), s.roster[w.position] = some e → e.battery.profile = w.profile →
      e.battery.filtered = some f → l = classify s.profiles[w.profile] f →
      exec .sweepVisit s = .next (finish (postBattery w.position e.battery.level l
        (s'.setSlot w.position (some { e with battery := { e.battery with level := l, pending := none } }))))) ∧
    (s.roster[w.position] = none ∨
      (∃ e, s.roster[w.position] = some e ∧ (e.battery.profile ≠ w.profile ∨ e.battery.filtered = none)) →
      exec .sweepVisit s = .next (finish s'))

/-- SET_PROFILE: its checks in their order, then the eight fields written as brought into range, and the sweep started (R62, R63,
R79). -/
def Sys2Proof.Claims.ProfileIsWrittenAndSwept : Prop :=
  ∀ (b : Byte) (r : RawProfile) (s : State), Ready s →
    (4 ≤ b.toNat ∨ 32 ≤ r.vl.toNat ∨ r.vl.toNat ≤ r.vc.toNat ∨ r.vc.toNat ≤ r.ve.toNat →
      OnlyAnswers (.setProfile b r) s ⟨.badArg, []⟩) ∧
    (∀ p : Fin 4, b.toNat = p.1 → r.vl.toNat < 32 → r.vc.toNat < r.vl.toNat → r.ve.toNat < r.vc.toNat →
      (s.sweep.isSome → OnlyAnswers (.setProfile b r) s ⟨.busy, []⟩) ∧
      (s.sweep = none → ∃ x : Profile, ∃ st : Status,
        x = ⟨r.vl.toNat, r.vc.toNat, r.ve.toNat, min 300 r.h.toNat / 10 * 10, min 4 (max 1 r.k.toNat), min 15 (max 1 r.nd.toNat),
          min 15 (max 1 r.nu.toNat), min 1000 (max 100 r.j.toNat)⟩ ∧
        st = (if x.h = r.h.toNat ∧ x.k = r.k.toNat ∧ x.nd = r.nd.toNat ∧ x.nu = r.nu.toNat ∧ x.j = r.j.toNat
          then Status.ok else Status.adjusted) ∧
        exec (.setProfile b r) s = .next (complete (.setProfile b r) ⟨st, []⟩
          { s with profiles := setAt s.profiles p x, sweep := some ⟨p, 0⟩, sweepDue := false })))

/-- READ_PROFILE (R64). -/
def Sys2Proof.Claims.ProfilesAreRead : Prop :=
  ∀ (b : Byte) (s : State), Ready s →
    (4 ≤ b.toNat → OnlyAnswers (.readProfile b) s ⟨.badArg, List.replicate 10 0⟩) ∧
    (∀ p : Fin 4, b.toNat = p.1 → OnlyAnswers (.readProfile b) s ⟨.ok,
      [natByte s.profiles[p].vl, natByte s.profiles[p].vc, natByte s.profiles[p].ve] ++ natWord s.profiles[p].h ++
        [natByte s.profiles[p].k, natByte s.profiles[p].nd, natByte s.profiles[p].nu] ++ natWord s.profiles[p].j⟩)

/-- SET_PROFILE, READ_PROFILE and SWEEP_VISIT (R62 to R64, R76, R77, R79). -/
def Obligations.ProfilesAreWrittenReadAndSwept : Prop := Claims.ProfileIsWrittenAndSwept ∧ Claims.ProfilesAreRead ∧ Claims.SweepVisitsASlot

/-- An evaluation of the signal: held without a counted strength, set whole from an absent margin, else smoothed; and the level with
its rise hysteresis of 3 dB (R85 to R88). -/
def Obligations.SignalIsEvaluated : Prop :=
  (∀ (t : Tuning) (g : Signal), evalSignal t g none = g) ∧
  (∀ (t : Tuning) (g : Signal) (b m : Int) (p : Fin 4), m = max (-40) (min 60 (b - t.signalFloor)) →
    (g.margin = none → evalSignal t g (some (b, p)) =
      ⟨some m, if t.weak ≤ m then .good else if t.poor ≤ m then .weak else .poor, some p⟩) ∧
    (∀ q : Int, g.margin = some q → ∃ q' : Int, q' = q + filterStep t.shift (m - q) ∧
      evalSignal t g (some (b, p)) = ⟨some q', nextSigLevel t q' g.level, some p⟩)) ∧
  (∀ (t : Tuning) (q : Int) (now : SigLevel), t.poor < t.weak → now ≠ .unknown →
    (nextSigLevel t q now = .good ↔ t.weak + 3 ≤ q ∨ now = .good ∧ t.weak ≤ q) ∧
    (nextSigLevel t q now = .poor ↔ q < t.poor ∨ now = .poor ∧ q < t.poor + 3) ∧
    nextSigLevel t q now ≠ .unknown)

/-! ### Tuning -/

/-- SET_TUNING of the numeric items that no block acts on at once: clamped to the range, rounded down to a step, stored, and answered
with the stored value (R27, R81, R82, R105, R172, R179). -/
def Sys2Proof.Claims.NumericItemsAreStored : Prop :=
  ∀ (v : BitVec 32) (s : State), Ready s →
    (∃ x : Int, x = max 2 (min 40 v.toInt) ∧ exec (.setCombiningWindow v) s = .next (complete (.setCombiningWindow v)
      ⟨if x = v.toInt then .ok else .adjusted, bytesOfValue (BitVec.ofInt 32 x)⟩ { s with tuning := { s.tuning with window := x.toNat } })) ∧
    (∃ x : Int, x = max (-110) (min (-60) v.toInt) ∧ exec (.setSignalFloor v) s = .next (complete (.setSignalFloor v)
      ⟨if x = v.toInt then .ok else .adjusted, bytesOfValue (BitVec.ofInt 32 x)⟩ { s with tuning := { s.tuning with signalFloor := x } })) ∧
    (∃ x : Int, x = max 1 (min 3 v.toInt) ∧ exec (.setSmoothingShift v) s = .next (complete (.setSmoothingShift v)
      ⟨if x = v.toInt then .ok else .adjusted, bytesOfValue (BitVec.ofInt 32 x)⟩ { s with tuning := { s.tuning with shift := x.toNat } })) ∧
    (∃ x : Int, x = max 1000 (min 120000 v.toInt) / 1000 * 1000 ∧ exec (.setSilentTime v) s = .next (complete (.setSilentTime v)
      ⟨if x = v.toInt then .ok else .adjusted, bytesOfValue (BitVec.ofInt 32 x)⟩ { s with tuning := { s.tuning with silentTime := x.toNat } }))

/-- SET_TUNING of the two signal thresholds: clamped, then checked against each other (R83). -/
def Sys2Proof.Claims.SignalThresholdsStayApart : Prop :=
  ∀ (v : BitVec 32) (s : State), Ready s →
    (∃ x : Int, x = max 0 (min 40 v.toInt) ∧
      (x ≤ s.tuning.poor → OnlyAnswers (.setWeakThreshold v) s ⟨.badArg, [0, 0, 0, 0]⟩) ∧
      (s.tuning.poor < x → exec (.setWeakThreshold v) s = .next (complete (.setWeakThreshold v)
        ⟨if x = v.toInt then .ok else .adjusted, bytesOfValue (BitVec.ofInt 32 x)⟩ { s with tuning := { s.tuning with weak := x } }))) ∧
    (∃ x : Int, x = max (-10) (min 39 v.toInt) ∧
      (s.tuning.weak ≤ x → OnlyAnswers (.setPoorThreshold v) s ⟨.badArg, [0, 0, 0, 0]⟩) ∧
      (x < s.tuning.weak → exec (.setPoorThreshold v) s = .next (complete (.setPoorThreshold v)
        ⟨if x = v.toInt then .ok else .adjusted, bytesOfValue (BitVec.ofInt 32 x)⟩ { s with tuning := { s.tuning with poor := x } })))

/-- SET_TUNING of the port silence time (R8, R11, R32, R172): the value is clamped, rounded down to a step and answered; the value in
force is left without a further effect (assumption log 21); a change makes each UP port SILENT whose silence timer has reached it,
reported in port order, and where there is one the combiner re-checks its entries. -/
def Sys2Proof.Claims.SilenceTimeActsAtOnce : Prop :=
  ∀ (v : BitVec 32) (x : Int) (r : Reply) (s : State), Ready s → x = max 500 (min 10000 v.toInt) / 100 * 100 →
    r = ⟨if x = v.toInt then .ok else .adjusted, bytesOfValue (BitVec.ofInt 32 x)⟩ →
    (s.tuning.silenceTime = x.toNat → OnlyAnswers (.setPortSilenceTime v) s r) ∧
    (s.tuning.silenceTime ≠ x.toNat → ∀ (due : List (Fin 4)) (s' : State),
      due = (List.finRange 4).filter (fun p => s.ports[p].state = .up ∧ x.toNat ≤ s.ports[p].silence) →
      s' = { s with
        tuning := { s.tuning with silenceTime := x.toNat }
        ports := mapTable s.ports fun p a => if p ∈ due then { a with state := .silent } else a
        engine := { s.engine with
          posted := s.engine.posted ++ due.map fun p => ⟨.ports, .report ⟨.port p, .receiverSilent⟩ true⟩ } } →
      Brings (.setPortSilenceTime v) s (if due = [] then s' else recheckCoverage s') r)

/-- One entry judged against the lost time in force (R51 to R53, R56, R90): past it, LOST, with what a loss brings; LIVE and past
three expected intervals below it, FADING; in every other case as it was. -/
def Sys2Proof.Claims.EntryIsJudged : Prop :=
  ∀ (s : State) (n : Fin 200),
    (s.roster[n] = none → judgeAge n s = s) ∧
    ∀ e : Entry, s.roster[n] = some e →
      (e.presence = .live ∨ e.presence = .fading → s.tuning.lostTime < e.age → judgeAge n s = floorTakes n
        (((s.setSlot n (some { e with presence := .lost, signal := ⟨none, .unknown, none⟩ })).postChange .roster ⟨.entry n, .sigLost⟩
          false (s.mode == .session)).postChange .signal ⟨.entry n, .sigWeak⟩ (s.mode == .session && e.signal.level == .poor) false)) ∧
      (∀ i : BeaconInterval, e.presence = .live → e.interval = some i → e.age ≤ s.tuning.lostTime →
        3 * (if i = .fast then 100 else 500) < e.age → 3 * (if i = .fast then 100 else 500) < s.tuning.lostTime →
        judgeAge n s = floorTakes n (s.setSlot n (some { e with presence := .fading }))) ∧
      (e.age ≤ s.tuning.lostTime →
        (∀ i : BeaconInterval, e.interval = some i → e.age ≤ 3 * (if i = .fast then 100 else 500) ∨
          s.tuning.lostTime ≤ 3 * (if i = .fast then 100 else 500)) → judgeAge n s = s) ∧
      (e.presence = .fading → e.age ≤ s.tuning.lostTime → judgeAge n s = s) ∧
      (e.presence ≠ .live → e.presence ≠ .fading → judgeAge n s = s)

/-- SET_TUNING of the lost time (R51 to R53, R56, R90, R118, R172): the value is clamped, rounded down to a step and answered; the
value in force is left without a further effect (assumption log 21); against a changed value every entry is judged in entry order and
the reports go to the engine in subject order. What becomes of each entry, and of the cause of a hold. -/
def Sys2Proof.Claims.LostTimeActsAtOnce : Prop :=
  ∀ (v : BitVec 32) (x : Int) (r : Reply) (s : State), Ready s → x = max 1000 (min 30000 v.toInt) / 100 * 100 →
    r = ⟨if x = v.toInt then .ok else .adjusted, bytesOfValue (BitVec.ofInt 32 x)⟩ →
    (s.tuning.lostTime = x.toNat → OnlyAnswers (.setLostTime v) s r) ∧
    (s.tuning.lostTime ≠ x.toNat → ∀ w u : State,
      w = (List.finRange 200).foldl (fun t n => judgeAge n t) { s with tuning := { s.tuning with lostTime := x.toNat } } →
      u = { w with engine := { w.engine with posted := w.engine.posted.insertionSort fun a b => a.act.rank ≤ b.act.rank } } →
      Brings (.setLostTime v) s u r ∧
      u = { s with
        tuning := { s.tuning with lostTime := x.toNat }, roster := u.roster
        floor := { s.floor with live := u.floor.live, held := u.floor.held, cause := u.floor.cause }
        engine := { s.engine with posted := u.engine.posted } } ∧
      (∀ n : Fin 200, s.roster[n] = none → u.roster[n] = none) ∧
      (∀ (n : Fin 200) (e : Entry), s.roster[n] = some e →
        (e.presence = .live ∨ e.presence = .fading → x.toNat < e.age →
          u.roster[n] = some { e with presence := .lost, signal := ⟨none, .unknown, none⟩, hot := none } ∧
          (s.floor.chair = some n → u.floor.cause = if s.floor.cause = .silence then .silence else .none)) ∧
        (∀ i : BeaconInterval, e.presence = .live → e.interval = some i → e.age ≤ x.toNat →
          3 * (if i = .fast then 100 else 500) < e.age → 3 * (if i = .fast then 100 else 500) < x.toNat →
          ∃ h : Option HotTimer, u.roster[n] = some { e with presence := .fading, hot := h } ∧
            (h = e.hot ∨ h = none ∨ h = some ⟨0, s.tuning.hotDelay == 0⟩)) ∧
        ((e.presence ≠ .live ∨ ∀ i : BeaconInterval, e.interval = some i → e.age ≤ 3 * (if i = .fast then 100 else 500) ∨
            x.toNat ≤ 3 * (if i = .fast then 100 else 500)) →
          (e.presence = .live ∨ e.presence = .fading → e.age ≤ x.toNat) →
          (∃ h : Option HotTimer, u.roster[n] = some { e with hot := h }) ∧
          (s.floor.liveSlotOf n = none → s.floor.heldSlotOf n = none → u.roster[n] = some e))) ∧
      (s.engine.posted = [] → ∀ n : Fin 200,
        (⟨.roster, .report ⟨.entry n, .sigLost⟩ true⟩ ∈ u.engine.posted ↔ s.mode = .session ∧ ∃ e : Entry, s.roster[n] = some e ∧
          (e.presence = .live ∨ e.presence = .fading) ∧ x.toNat < e.age) ∧
        (⟨.signal, .report ⟨.entry n, .sigWeak⟩ false⟩ ∈ u.engine.posted ↔ s.mode = .session ∧ ∃ e : Entry, s.roster[n] = some e ∧
          (e.presence = .live ∨ e.presence = .fading) ∧ x.toNat < e.age ∧ e.signal.level = .poor)))

/-- SET_TUNING of the hot delay (R107, R172): the value is clamped, rounded down to a step and answered; every running hot-mic timer that
has reached it, and has not made HOT_MIC true, makes it true, reported in entry order; nothing else changes. -/
def Sys2Proof.Claims.HotDelayActsAtOnce : Prop :=
  ∀ (v : BitVec 32) (x : Int) (r : Reply) (s : State), Ready s → x = max 0 (min 5000 v.toInt) / 100 * 100 →
    r = ⟨if x = v.toInt then .ok else .adjusted, bytesOfValue (BitVec.ofInt 32 x)⟩ →
    Brings (.setHotDelay v) s { s with
      tuning := { s.tuning with hotDelay := x.toNat }
      roster := mapTable s.roster fun _ y => y.map fun e =>
        { e with hot := e.hot.map fun h => ⟨h.elapsed, h.reached || decide (x.toNat ≤ h.elapsed)⟩ }
      engine := { s.engine with posted := s.engine.posted ++ (List.finRange 200).flatMap fun n =>
        match s.roster[n] with
        | some e => (match e.hot with
          | some h => if h.reached = false ∧ x.toNat ≤ h.elapsed then [⟨.floor, .report ⟨.entry n, .hotMic⟩ true⟩] else []
          | none => [])
        | none => [] } } r

/-- SET_TUNING of the three items that act at once (R11, R52, R107, R172; assumption log 21). -/
def Obligations.TimeLimitsActAtOnce : Prop :=
  Claims.SilenceTimeActsAtOnce ∧ Claims.EntryIsJudged ∧ Claims.LostTimeActsAtOnce ∧ Claims.HotDelayActsAtOnce

/-- SET_TUNING of the two on/off items and of the IRQ mask (R101, R105, R109, R112, R133, R178, R179). -/
def Sys2Proof.Claims.SwitchesAndMaskAreStored : Prop :=
  ∀ (v : BitVec 32) (s : State), Ready s →
    (2 ≤ v.toNat → OnlyAnswers (.setAutoRevoke v) s ⟨.badArg, [0, 0, 0, 0]⟩ ∧
      OnlyAnswers (.setPriorityFunction v) s ⟨.badArg, [0, 0, 0, 0]⟩) ∧
    (∀ on : Bool, v.toNat = on.toNat →
      exec (.setAutoRevoke v) s = .next (complete (.setAutoRevoke v) ⟨.ok, bytesOfValue v⟩
        { s with tuning := { s.tuning with autoRevoke := on } }) ∧
      Brings (.setPriorityFunction v) s (match s.floor.cause, on && s.chairSpeaking with
        | .none, true => beginHold { s with tuning := { s.tuning with priority := on } }
        | .chair, false => endHold { s with tuning := { s.tuning with priority := on } }
        | _, _ => { s with tuning := { s.tuning with priority := on } }) ⟨.ok, bytesOfValue v⟩) ∧
    exec (.setIrqMask v) s = .next (complete (.setIrqMask v) ⟨.ok, bytesOfValue (v &&& 0x1FF)⟩
      { s with tuning := { s.tuning with irqMask := v.setWidth 9 } })

/-- SET_TUNING of the items that store a value (R27, R81 to R83, R105, R112, R133, R172, R179). -/
def Obligations.SettingsAreStored : Prop := Claims.NumericItemsAreStored ∧ Claims.SignalThresholdsStayApart ∧ Claims.SwitchesAndMaskAreStored

/-- SET_TUNING of a pending type: a value that is none is refused; a change from LATCHED to SELF_CLEARING quiets the class's STANDING
warnings and no other, and readmits a warning for each place freed, as `quietAll` does (R122, R126, R172). That this row carries and refuses the items that have no row of their own is the model's choice
(assumption log 8); the wire gives such a row the items 0 and 19 to 255 alone, which name no item (R172, R179). The items 12 to 17 are
the six configurable classes in the order of section 11.8. -/
def Obligations.PendingTypeIsChanged : Prop :=
  ∀ (item : Byte) (v : BitVec 32) (s : State), Ready s →
    (item.toNat < 12 ∨ 17 < item.toNat ∨ 2 ≤ v.toNat → OnlyAnswers (.setPendingType item v) s ⟨.badArg, [0, 0, 0, 0]⟩) ∧
    (∀ (c : WClass) (ty : PendingType), (item.toNat, c) ∈ [(12, WClass.sigLost), (13, .battCritical), (14, .receiverSilent),
        (15, .sigWeak), (16, .hotMic), (17, .battLow)] → v.toNat = (if ty = .latched then 0 else 1) →
      ∃ t : State, exec (.setPendingType item v) s = .next t ∧
        t = complete (.setPendingType item v) ⟨.ok, bytesOfValue v⟩ { s with
          tuning := { s.tuning with pendingTypes := t.tuning.pendingTypes }
          engine := t.engine, choice := t.choice, lines := t.lines } ∧
        (∀ d : WClass, pendingTypeOf t.tuning.pendingTypes d = if d = c then ty else pendingTypeOf s.tuning.pendingTypes d) ∧
        (s.engine.posted = [] → pendingTypeOf s.tuning.pendingTypes c = .latched → ty = .selfClearing →
          (∀ r : WarnRecord, r ∈ t.engine.warnings ↔ r ∈ s.engine.warnings ∧ ¬(r.id.cls = c ∧ r.state = .standing)) ∧
            ∀ sel : WarnRecord → Bool, (∀ r, sel r = true ↔ r.id.cls = c ∧ r.state = .standing) → t.engine = s.engine.quietAll sel) ∧
        (s.engine.posted = [] → ty = .latched ∨ pendingTypeOf s.tuning.pendingTypes c = ty → t.engine = s.engine))

/-- READ_TUNING (R173): BAD_ARG for a number that names no item, else OK with the stored value of the item as section 11.8 numbers
the eighteen; nothing but the wake of a DORMANT part changes. -/
def Obligations.TuningItemsAreRead : Prop :=
  ∀ (item : Byte) (s : State), s.inReset = false →
    (item.toNat = 0 ∨ 18 < item.toNat →
      exec (.readTuning item) s = .next (complete (.readTuning item) ⟨.badArg, [0, 0, 0, 0]⟩ (wakeIfDormant s))) ∧
    (∀ v : BitVec 32, 1 ≤ item.toNat →
      [.ofNat 32 s.tuning.silenceTime, .ofNat 32 s.tuning.window, .ofNat 32 s.tuning.lostTime, .ofInt 32 s.tuning.signalFloor,
        .ofNat 32 s.tuning.shift, .ofInt 32 s.tuning.weak, .ofInt 32 s.tuning.poor, .ofNat 32 s.tuning.silentTime,
        if s.tuning.autoRevoke then 1 else 0, .ofNat 32 s.tuning.hotDelay, if s.tuning.priority then 1 else 0,
        .ofNat 32 s.tuning.pendingTypes.sigLost.code, .ofNat 32 s.tuning.pendingTypes.battCritical.code,
        .ofNat 32 s.tuning.pendingTypes.receiverSilent.code, .ofNat 32 s.tuning.pendingTypes.sigWeak.code,
        .ofNat 32 s.tuning.pendingTypes.hotMic.code, .ofNat 32 s.tuning.pendingTypes.battLow.code,
        s.tuning.irqMask.setWidth 32][item.toNat - 1]? = some v →
      exec (.readTuning item) s = .next (complete (.readTuning item) ⟨.ok, bytesOfValue v⟩ (wakeIfDormant s))) ∧
    (wakeIfDormant s).tuning = s.tuning

/-! ### Floor -/

/-- Speaking and the hot-mic timer derived afresh for an entry: a start reloads the silent timer and ends SILENT_FLOOR; the timer
starts at 0 when its terms first hold, goes on while they hold, and stops when one fails (R100, R103, R106). Reported are, in this
order: SILENT_FLOOR false at a start of speaking that ends it (R103, R104); HOT_MIC true at a start with a hot delay of 0, and false at
the stop of a timer that had reached the delay (R106). Nothing else changes. -/
def Obligations.SpeakingIsDerivedAfresh : Prop :=
  ∀ (s : State) (n : Fin 200) (e : Entry), s.roster[n] = some e →
    (∀ (k : Fin 6) (x : LiveSlot), s.floor.liveSlotOf n = some k → s.floor.live[k] = some x →
      (derive n s).floor = { s.floor with live := setAt s.floor.live k (some
        ⟨x.holder, if s.speaking n && !x.speaking then s.tuning.silentTime else x.timer, s.speaking n,
          if s.speaking n && !x.speaking then false else x.expired⟩) }) ∧
    (s.floor.liveSlotOf n = none → (derive n s).floor = s.floor) ∧
    (derive n s).roster = setAt s.roster n (some { e with
      hot := if s.hotTerms n e then some (e.hot.getD ⟨0, s.tuning.hotDelay == 0⟩) else none }) ∧
    (s.speaking n = true ↔ (s.floor.liveSlotOf n).isSome ∧ e.switch = .opened ∧
      (e.presence = .live ∨ e.presence = .fading) ∧ e.muted = false ∧ s.mode = .session) ∧
    (s.hotTerms n e = true ↔ e.switch = .opened ∧ (e.presence = .live ∨ e.presence = .fading) ∧ s.mode = .session ∧
      s.floor.chair ≠ some n ∧ s.speaking n = false ∧ s.floor.heldSlotOf n = none) ∧
    (derive n s).engine = { s.engine with posted := s.engine.posted ++
      (match s.floor.liveSlotOf n with
        | some k => (match s.floor.live[k] with
          | some x => if s.speaking n = true ∧ x.speaking = false ∧ x.expired = true
            then [⟨.floor, .report ⟨.entry n, .silentFloor⟩ false⟩] else []
          | none => [])
        | none => []) ++
      (match e.hot with
        | none => if s.hotTerms n e = true ∧ s.tuning.hotDelay = 0 then [⟨.floor, .report ⟨.entry n, .hotMic⟩ true⟩] else []
        | some h => if s.hotTerms n e = false ∧ h.reached = true then [⟨.floor, .report ⟨.entry n, .hotMic⟩ false⟩] else []) } ∧
    derive n s = { s with roster := (derive n s).roster, floor := (derive n s).floor, engine := (derive n s).engine }

/-- The two moves of the floor keep slot numbers and holders; a returned slot has its silent timer loaded full (R108). -/
def Sys2Proof.Claims.MovesKeepSlots : Prop :=
  ∀ s : State,
    (∀ k : Fin 6, (moveToHeld s).floor.live[k] = none) ∧
    (∀ (k : Fin 6) (x : LiveSlot), s.floor.live[k] = some x → (moveToHeld s).floor.held[k] = some x.holder) ∧
    (∀ k : Fin 6, s.floor.live[k] = none → (moveToHeld s).floor.held[k] = s.floor.held[k]) ∧
    (∀ k : Fin 6, (moveBack s).floor.held[k] = none) ∧
    (∀ (k : Fin 6) (n : Fin 200), s.floor.held[k] = some n → ∃ x : LiveSlot,
      (moveBack s).floor.live[k] = some x ∧ x.holder = n ∧ x.timer = s.tuning.silentTime ∧ x.expired = false) ∧
    (∀ (m : Fin 200) (e : Entry), s.roster[m] = some e →
      (∃ h, (moveToHeld s).roster[m] = some { e with hot := h }) ∧ ∃ h, (moveBack s).roster[m] = some { e with hot := h }) ∧
    moveToHeld s = { s with
      roster := (moveToHeld s).roster, engine := (moveToHeld s).engine
      floor := { s.floor with live := (moveToHeld s).floor.live, held := (moveToHeld s).floor.held } } ∧
    moveBack s = { s with
      roster := (moveBack s).roster, engine := (moveBack s).engine
      floor := { s.floor with live := (moveBack s).floor.live, held := (moveBack s).floor.held } }

/-- What a move to the held floor does to its holders, in a floor that keeps its law (R104, R106, R108): each holder's hot-mic timer is
stopped and no other; reported are, holder by holder in entry order, a true SILENT_FLOOR as false and a true HOT_MIC as false. -/
def Sys2Proof.Claims.MoveToHeldReports : Prop :=
  ∀ s : State, FloorLaw s →
    (∀ (m : Fin 200) (e : Entry), s.roster[m] = some e → (moveToHeld s).roster[m] = some
      (if s.floor.liveSlotOf m = none then e else { e with hot := none })) ∧
    (moveToHeld s).engine = { s.engine with posted := s.engine.posted ++ (List.finRange 200).flatMap fun n =>
      match (s.floor.liveSlotOf n) with
        | some k =>
          (match s.floor.live[k] with
            | some x => if x.expired then [⟨.floor, .report ⟨.entry n, .silentFloor⟩ false⟩] else []
            | none => []) ++
          (match s.roster[n] with
            | some e => (match e.hot with
              | some h => if h.reached then [⟨.floor, .report ⟨.entry n, .hotMic⟩ false⟩] else []
              | none => [])
            | none => [])
        | none => [] }

/-- What a move back does to its holders, in a floor that keeps its law (R100, R106, R108): each returned slot is full, with speaking
as it is derived; the hot-mic timer of each holder is derived afresh and no other's; reported are, in entry order, HOT_MIC true at a start
with a hot delay of 0, and false at the stop of a timer that had reached the delay. -/
def Sys2Proof.Claims.MoveBackReports : Prop :=
  ∀ s t : State, FloorLaw s → t = moveBack s →
    (∀ (k : Fin 6) (n : Fin 200), s.floor.held[k] = some n →
      t.floor.live[k] = some ⟨n, s.tuning.silentTime, t.speaking n, false⟩) ∧
    (∀ k : Fin 6, s.floor.held[k] = none → t.floor.live[k] = s.floor.live[k]) ∧
    (∀ (m : Fin 200) (e : Entry), s.roster[m] = some e → t.roster[m] = some
      (if s.floor.heldSlotOf m = none then e
        else { e with hot := if t.hotTerms m e then some (e.hot.getD ⟨0, s.tuning.hotDelay == 0⟩) else none })) ∧
    t.engine = { s.engine with posted := s.engine.posted ++ (List.finRange 200).flatMap fun n =>
      match (s.floor.heldSlotOf n), s.roster[n] with
        | some _, some e => (match e.hot with
          | none => if t.hotTerms n e = true ∧ s.tuning.hotDelay = 0 then [⟨.floor, .report ⟨.entry n, .hotMic⟩ true⟩] else []
          | some h => if t.hotTerms n e = false ∧ h.reached = true then [⟨.floor, .report ⟨.entry n, .hotMic⟩ false⟩] else [])
        | _, _ => [] }

/-- The two moves of the floor: slots and holders, timers and reports (R100, R103, R104, R106, R108). -/
def Obligations.FloorMovesKeepSlots : Prop := Claims.MovesKeepSlots ∧ Claims.MoveToHeldReports ∧ Claims.MoveBackReports

/-- GRANT_FLOOR and REVOKE_FLOOR: the checks in their order, then the lowest free slot taken with its timer full, or the slot freed
(R96, R97). -/
def Sys2Proof.Claims.FloorIsGrantedAndRevoked : Prop :=
  ∀ (b : Byte) (n : Fin 200) (e : Entry) (s : State), Ready s → b.toNat = n.1 → s.roster[n] = some e →
    (s.mode ≠ .session → OnlyAnswers (.grantFloor b) s ⟨.notInSession, [0]⟩) ∧
    (s.mode = .session → s.floor.cause ≠ .none → OnlyAnswers (.grantFloor b) s ⟨.held, [0]⟩) ∧
    (s.mode = .session → s.floor.cause = .none → s.floor.chair = some n → OnlyAnswers (.grantFloor b) s ⟨.isChair, [0]⟩) ∧
    (s.mode = .session → s.floor.cause = .none → s.floor.chair ≠ some n →
      (∀ k : Fin 6, s.floor.liveSlotOf n = some k → OnlyAnswers (.grantFloor b) s ⟨.ok, [natByte k.1]⟩) ∧
      (s.floor.liveSlotOf n = none →
        ((∀ k : Fin 6, k.1 < s.floor.capacity → s.floor.live[k] ≠ none) → OnlyAnswers (.grantFloor b) s ⟨.floorFull, [0]⟩) ∧
        (∀ k : Fin 6, k.1 < s.floor.capacity → s.floor.live[k] = none → (∀ j : Fin 6, j < k → s.floor.live[j] ≠ none) →
          Brings (.grantFloor b) s (derive n (s.setLive k (some ⟨n, s.tuning.silentTime, false, false⟩)))
            ⟨.ok, [natByte k.1]⟩))) ∧
    (s.floor.liveSlotOf n = none → s.floor.heldSlotOf n = none → OnlyAnswers (.revokeFloor b) s ⟨.noFloor, []⟩) ∧
    (∀ (k : Fin 6) (x : LiveSlot), s.floor.liveSlotOf n = some k → s.floor.live[k] = some x → s.floor.heldSlotOf n = none →
      Brings (.revokeFloor b) s (derive n ((s.setLive k none).postChange .floor ⟨.entry n, .silentFloor⟩ x.expired false))
        ⟨.ok, []⟩) ∧
    (∀ k : Fin 6, s.floor.liveSlotOf n = none → s.floor.heldSlotOf n = some k →
      Brings (.revokeFloor b) s (derive n (s.setHeld k none)) ⟨.ok, []⟩)

/-- SET_FLOOR_CAPACITY: clamped first, refused OCCUPIED where an occupied slot would go (R95). -/
def Sys2Proof.Claims.CapacityIsClampedThenChecked : Prop :=
  ∀ (b : Byte) (s : State), Ready s → ∃ c : Nat, c = min 6 (max 1 b.toNat) ∧
    ((∃ k : Fin 6, c ≤ k.1 ∧ (s.floor.live[k] ≠ none ∨ s.floor.held[k] ≠ none)) →
      OnlyAnswers (.setFloorCapacity b) s ⟨.occupied, [0]⟩) ∧
    ((∀ k : Fin 6, c ≤ k.1 → s.floor.live[k] = none ∧ s.floor.held[k] = none) →
      Brings (.setFloorCapacity b) s { s with floor := { s.floor with capacity := c } }
        ⟨if c = b.toNat then .ok else .adjusted, [natByte c]⟩)

/-- GRANT_FLOOR, REVOKE_FLOOR and SET_FLOOR_CAPACITY (R95 to R97). -/
def Obligations.FloorIsGrantedRevokedAndSized : Prop := Claims.FloorIsGrantedAndRevoked ∧ Claims.CapacityIsClampedThenChecked

/-- MUTE and UNMUTE of an occupied slot: the chair is not reached; else the flag is set or cleared and speaking derived afresh (R98). -/
def Sys2Proof.Claims.EntryIsMuted : Prop :=
  ∀ (b : Byte) (n : Fin 200) (e : Entry) (s : State), Ready s → b.toNat = n.1 → s.roster[n] = some e →
    (s.floor.chair = some n → OnlyAnswers (.mute b) s ⟨.isChair, []⟩ ∧ OnlyAnswers (.unmute b) s ⟨.isChair, []⟩) ∧
    (s.floor.chair ≠ some n →
      Brings (.mute b) s (if e.muted then s else derive n (s.setSlot n (some { e with muted := true }))) ⟨.ok, []⟩ ∧
      Brings (.unmute b) s (if e.muted then derive n (s.setSlot n (some { e with muted := false })) else s) ⟨.ok, []⟩)

/-- MUTE_ALL and UNMUTE_ALL (R99), also with an empty roster: every entry but the chair's is handled as by MUTE or UNMUTE of it alone, in
entry order; no other field of an entry but its hot-mic timer changes, and an empty slot stays empty. -/
def Sys2Proof.Claims.AllAreMuted : Prop :=
  ∀ (i : Instr) (v : Bool) (s : State), Ready s → (i = .muteAll ∧ v = true) ∨ (i = .unmuteAll ∧ v = false) →
    Brings i s ((List.finRange 200).foldl (fun u n => match u.roster[n] with
      | some e => if s.floor.chair = some n ∨ e.muted = v then u else derive n (u.setSlot n (some { e with muted := v }))
      | none => u) s) ⟨.ok, []⟩ ∧
    ∃ t, exec i s = .next t ∧
      (∀ n : Fin 200, s.roster[n] = none → t.roster[n] = none) ∧
      (∀ (n : Fin 200) (e : Entry), s.roster[n] = some e → ∃ h,
        t.roster[n] = some { e with muted := if s.floor.chair = some n then e.muted else v, hot := h }) ∧
      t = complete i ⟨.ok, []⟩ { s with
        roster := t.roster, floor := { s.floor with live := t.floor.live }
        engine := t.engine, choice := t.choice, lines := t.lines }

/-- MUTE, UNMUTE, MUTE_ALL and UNMUTE_ALL (R98, R99). -/
def Obligations.MutesAreSetAndCleared : Prop := Claims.EntryIsMuted ∧ Claims.AllAreMuted

/-- SET_CHAIR: the present designation again changes nothing; a change frees the new chair's slot, clears its mute and its timer,
ends a CHAIR hold, and begins one if the new chair claims (R102). -/
def Sys2Proof.Claims.ChairIsSet : Prop :=
  ∀ s : State, Ready s →
    (s.floor.chair = none → OnlyAnswers (.setChair 0xFF) s ⟨.ok, []⟩) ∧
    (s.floor.chair ≠ none → ∃ t, exec (.setChair 0xFF) s = .next t ∧
      t.floor = { s.floor with
        live := t.floor.live, held := t.floor.held, chair := none
        cause := if s.floor.cause = .chair then .none else s.floor.cause } ∧
      (∀ m : Fin 200, ∃ h, t.roster[m] = s.roster[m].map fun f => { f with hot := h }) ∧
      t = complete (.setChair 0xFF) ⟨.ok, []⟩ { s with
        roster := t.roster, floor := t.floor, engine := t.engine, choice := t.choice, lines := t.lines }) ∧
    (∀ (b : Byte) (n : Fin 200) (e : Entry), b.toNat = n.1 → s.roster[n] = some e →
      (s.floor.chair = some n → OnlyAnswers (.setChair b) s ⟨.ok, []⟩) ∧
      (s.floor.chair ≠ some n → FloorLaw s → ∃ t, exec (.setChair b) s = .next t ∧
        t.roster[n] = some { e with muted := false, hot := none } ∧
        (∀ m : Fin 200, m ≠ n → ∃ h, t.roster[m] = s.roster[m].map fun f => { f with hot := h }) ∧
        (∀ (k : Fin 6) (x : LiveSlot), t.floor.live[k] = some x → x.holder ≠ n) ∧ (∀ k : Fin 6, t.floor.held[k] ≠ some n) ∧
        t.floor = { s.floor with
          live := t.floor.live, held := t.floor.held, chair := some n
          cause := if s.floor.cause = .silence then .silence
            else if e.switch = .opened ∧ (e.presence = .live ∨ e.presence = .fading) ∧ s.mode = .session ∧ s.tuning.priority = true
            then .chair else .none } ∧
        t = complete (.setChair b) ⟨.ok, []⟩ { s with
          roster := t.roster, floor := t.floor, engine := t.engine, choice := t.choice, lines := t.lines }))

/-- The slots and timers after SET_CHAIR to none, in a floor that keeps its law (R102, R108): where a CHAIR hold ends, every held slot
goes back to the live slot of its number, full and with speaking as it is derived; else both collections stay. The former chair's hot-mic
timer is derived afresh, and no other than the returned holders'. -/
def Sys2Proof.Claims.ChairIsRemoved : Prop :=
  ∀ (m : Fin 200) (s : State), Ready s → FloorLaw s → s.floor.chair = some m → ∃ t, exec (.setChair 0xFF) s = .next t ∧
    (s.floor.cause ≠ .chair → t.floor.live = s.floor.live ∧ t.floor.held = s.floor.held) ∧
    (s.floor.cause = .chair → ∀ k : Fin 6, t.floor.held[k] = none ∧ t.floor.live[k] = s.floor.held[k].map fun n =>
      ⟨n, s.tuning.silentTime, t.speaking n, false⟩) ∧
    ∀ (n : Fin 200) (e : Entry), s.roster[n] = some e → t.roster[n] = some
      (if n = m ∨ s.floor.cause = .chair ∧ s.floor.heldSlotOf n ≠ none
        then { e with hot := if t.hotTerms n e then some (e.hot.getD ⟨0, s.tuning.hotDelay == 0⟩) else none } else e)

/-- The slots and timers after SET_CHAIR to an entry n that is not the chair, in a floor that keeps its law (R102, R108): n's slot is
free; under a cause every other holder is held in its number; without one every other holder is live in its number, as it was, or
returned full where a CHAIR hold has ended. The former chair's hot-mic timer is derived afresh; an entry that is neither chair and holds
no slot is as it was. -/
def Sys2Proof.Claims.NewChairIsMadeReady : Prop :=
  ∀ (b : Byte) (n : Fin 200) (e : Entry) (s : State), Ready s → FloorLaw s → b.toNat = n.1 → s.roster[n] = some e →
    s.floor.chair ≠ some n → ∃ t, exec (.setChair b) s = .next t ∧
    (t.floor.cause ≠ .none → ∀ k : Fin 6, t.floor.live[k] = none ∧ ∀ m : Fin 200, t.floor.held[k] = some m ↔
      m ≠ n ∧ (s.floor.held[k] = some m ∨ ∃ x : LiveSlot, s.floor.live[k] = some x ∧ x.holder = m)) ∧
    (t.floor.cause = .none → ∀ k : Fin 6, t.floor.held[k] = none ∧
      (s.floor.cause = .none → ∀ x : LiveSlot, t.floor.live[k] = some x ↔ s.floor.live[k] = some x ∧ x.holder ≠ n) ∧
      (s.floor.cause = .chair → ∀ x : LiveSlot, t.floor.live[k] = some x ↔
        ∃ m : Fin 200, m ≠ n ∧ s.floor.held[k] = some m ∧ x = ⟨m, s.tuning.silentTime, t.speaking m, false⟩)) ∧
    (∀ (m : Fin 200) (f : Entry), s.floor.chair = some m → s.roster[m] = some f → t.roster[m] = some
      { f with hot := if t.hotTerms m f then some (f.hot.getD ⟨0, s.tuning.hotDelay == 0⟩) else none }) ∧
    ∀ m : Fin 200, m ≠ n → s.floor.chair ≠ some m → s.floor.liveSlotOf m = none → s.floor.heldSlotOf m = none →
      t.roster[m] = s.roster[m]

/-- What SET_CHAIR reports, and in which order: the steps of R102, made of the moves whose reports FloorMovesKeepSlots and
SpeakingIsDerivedAfresh say. A new chair n leaves its slot, and a true SILENT_FLOOR and a true HOT_MIC of it are reported false; the
designation changes and the former chair is derived afresh; a CHAIR hold is moved back; and where n claims from NONE the floor is moved to
held. The order of the reports is the model's reading (assumption log 12), and that the first step starts no timer is log 27. -/
def Sys2Proof.Claims.ChairStepsAreReported : Prop :=
  ∀ s : State, Ready s →
    (∀ (m : Fin 200) (y : State), s.floor.chair = some m → y = derive m { s with floor := { s.floor with chair := none } } →
      Brings (.setChair 0xFF) s (if s.floor.cause = .chair then (moveBack y).setCause .none else y) ⟨.ok, []⟩) ∧
    ∀ (b : Byte) (n : Fin 200) (e : Entry) (x y z : State), b.toNat = n.1 → s.roster[n] = some e → s.floor.chair ≠ some n →
      x = { s with
        roster := setAt s.roster n (some { e with muted := false, hot := none })
        floor := { s.floor with
          chair := some n
          live := (match s.floor.liveSlotOf n with
            | some k => setAt s.floor.live k none
            | none => s.floor.live)
          held := (match s.floor.heldSlotOf n with
            | some k => setAt s.floor.held k none
            | none => s.floor.held) }
        engine := { s.engine with posted := s.engine.posted ++
          (match s.floor.liveSlotOf n with
            | some k => (match s.floor.live[k] with
              | some v => if v.expired then [⟨.floor, .report ⟨.entry n, .silentFloor⟩ false⟩] else []
              | none => [])
            | none => []) ++
          (match e.hot with
            | some h => if h.reached then [⟨.floor, .report ⟨.entry n, .hotMic⟩ false⟩] else []
            | none => []) } } →
      y = (match s.floor.chair with
        | some m => derive m x
        | none => x) →
      z = (if s.floor.cause = .chair then (moveBack y).setCause .none else y) →
      Brings (.setChair b) s
        (if s.floor.cause ≠ .silence ∧ e.switch = .opened ∧ (e.presence = .live ∨ e.presence = .fading) ∧ s.mode = .session ∧
            s.tuning.priority = true
          then (moveToHeld z).setCause .chair else z) ⟨.ok, []⟩

/-- SET_CHAIR: designation, floor, timers, reports (R102, R108, R109). -/
def Obligations.ChairIsDesignated : Prop :=
  Claims.ChairIsSet ∧ Claims.ChairIsRemoved ∧ Claims.NewChairIsMadeReady ∧ Claims.ChairStepsAreReported

/-- A silent expiry makes SILENT_FLOOR true, and frees the slot under auto-revoke; a hot-mic timer at the hot delay makes HOT_MIC
true (R104, R106). -/
def Sys2Proof.Claims.FloorTimersReport : Prop :=
  ∀ s : State, Ticking s →
    (∀ (k : Fin 6) (x : LiveSlot), s.floor.live[k] = some x → x.speaking = false → x.timer = 0 → x.expired = false →
      (s.tuning.autoRevoke = false → exec (.silentExpiry k) s =
        .next (finish ((s.setLive k (some { x with expired := true })).post .floor
          (.report ⟨.entry x.holder, .silentFloor⟩ true)))) ∧
      (s.tuning.autoRevoke = true → s.floor.liveSlotOf x.holder = some k → s.floor.heldSlotOf x.holder = none →
        exec (.silentExpiry k) s = .next (finish (derive x.holder (((s.setLive k none).post .floor
          (.report ⟨.entry x.holder, .silentFloor⟩ true)).post .floor (.report ⟨.entry x.holder, .silentFloor⟩ false)))))) ∧
    (∀ (n : Fin 200) (e : Entry) (h : HotTimer), s.roster[n] = some e → e.hot = some h → h.reached = false →
      s.tuning.hotDelay ≤ h.elapsed → exec (.hotDelayReached n) s =
        .next (finish ((s.setSlot n (some { e with hot := some { h with reached := true } })).post .floor
          (.report ⟨.entry n, .hotMic⟩ true))))

/-- The silence key: the input is followed, and 20 ms opposite the debounced level change it and the cause (R110, R111). -/
def Sys2Proof.Claims.SilenceKeyHoldsTheFloor : Prop :=
  ∀ s : State, Ticking s →
    (∀ high : Bool, exec (.silenceInputChange high) s = .next { s with floor := { s.floor with
      pinHigh := high
      stability := if high = s.floor.asserted then s.floor.stability else 0 } }) ∧
    (s.floor.pinHigh = false → s.floor.asserted = false → 20 ≤ s.floor.stability → ∀ s' : State,
      s' = { s with floor := { s.floor with asserted := true, stability := 0 } } →
      (s.floor.cause = .none → exec .silenceDebounceExpiry s = .next (finish ((moveToHeld s').setCause .silence))) ∧
      (s.floor.cause ≠ .none → exec .silenceDebounceExpiry s = .next (finish (s'.setCause .silence)))) ∧
    (s.floor.pinHigh = true → s.floor.asserted = true → 20 ≤ s.floor.stability → ∀ s' : State,
      s' = { s with floor := { s.floor with asserted := false, stability := 0 } } →
      (s.chairKeyOn = true → s.tuning.priority = true →
        exec .silenceDebounceExpiry s = .next (finish (s'.setCause .chair))) ∧
      (s.chairKeyOn = false ∨ s.tuning.priority = false →
        exec .silenceDebounceExpiry s = .next (finish ((moveBack s').setCause .none))))

/-- While the clock is stopped the input is followed and the debounce stands still (R110). -/
def Sys2Proof.Claims.StoppedClockHoldsTheDebounce : Prop :=
  ∀ (s : State) (high : Bool), s.inReset = false → s.clockRunning = false →
    exec (.silenceInputChange high) s = .next { s with floor := { s.floor with pinHigh := high } }

/-- The silent and hot-mic timers and the silence key (R104, R106, R110, R111). -/
def Obligations.FloorTimersAndSilenceKeyAct : Prop :=
  Claims.FloorTimersReport ∧ Claims.SilenceKeyHoldsTheFloor ∧ Claims.StoppedClockHoldsTheDebounce

/-! ### Warnings -/

/-- A raise takes the next stamp and seeks a place; a STANDING warning raised again keeps its place; a RAISED or NOTED one is not
touched (R119, R120, R123). -/
def Sys2Proof.Claims.RaisesAreStampedAndListed : Prop :=
  ∀ (g : Engine) (id : WarnId), AttentionLaw g →
    (g.stateOf id = none →
      (g.raise id).find id = some ⟨id, .raised, g.counter + 1⟩ ∧ (g.raise id).counter = g.counter + 1 ∧
      (g.attention.length < 32 → (g.raise id).attention =
        (g.attention.filter fun x => id.cls.severity ≤ x.cls.severity) ++
          id :: (g.attention.filter fun x => x.cls.severity < id.cls.severity)) ∧
      (g.attention.length = 32 → (∀ x ∈ g.attention, id.cls.severity ≤ x.cls.severity) →
        (g.raise id).attention = g.attention ∧ (g.raise id).overflow = true) ∧
      (g.attention.length = 32 → ∀ x ∈ g.attention.getLast?, x.cls.severity < id.cls.severity →
        id ∈ (g.raise id).attention ∧ x ∉ (g.raise id).attention ∧ (g.raise id).attention.length = 32)) ∧
    (g.stateOf id = some .standing →
      (g.raise id).find id = some ⟨id, .raised, g.counter + 1⟩ ∧ (g.raise id).counter = g.counter + 1 ∧
      (g.raise id).attention = g.attention) ∧
    (g.stateOf id = some .raised ∨ g.stateOf id = some .noted → g.raise id = g) ∧
    (∀ other : WarnId, other ≠ id → (g.raise id).find other = g.find other)

/-- A clear: RAISED becomes QUIET or STANDING by the pending type, NOTED becomes QUIET, and QUIET or STANDING stays (R121). -/
def Sys2Proof.Claims.ClearsFollowThePendingType : Prop :=
  ∀ (g : Engine) (id : WarnId) (ty : PendingType), AttentionLaw g →
    (g.stateOf id = some .raised → ty = .selfClearing →
      (g.clear ty id).find id = none ∧ id ∉ (g.clear ty id).attention) ∧
    (∀ st : Stamp, g.find id = some ⟨id, .raised, st⟩ → ty = .latched →
      (g.clear ty id).find id = some ⟨id, .standing, st⟩ ∧ (g.clear ty id).attention = g.attention) ∧
    (g.stateOf id = some .noted → (g.clear ty id).find id = none ∧ (g.clear ty id).attention = g.attention) ∧
    (g.stateOf id = none ∨ g.stateOf id = some .standing → g.clear ty id = g) ∧
    (g.clear ty id).counter = g.counter ∧ (∀ other : WarnId, other ≠ id → (g.clear ty id).find other = g.find other)

/-- Readmission (R125): into a free place goes the unlisted warning of the highest severity, the first in subject and class order among
those, below all of at least its severity; it keeps its state and stamp. A clear of a listed warning that becomes QUIET frees its
place first. -/
def Sys2Proof.Claims.FreedPlacesAreReadmitted : Prop :=
  ∀ g : Engine,
    (∀ r : WarnRecord, r ∈ g.unlisted ↔ r ∈ g.warnings ∧ (r.state = .raised ∨ r.state = .standing) ∧ r.id ∉ g.attention) ∧
    (32 ≤ g.attention.length ∨ g.unlisted = [] → g.readmit = g) ∧
    (g.attention.length < 32 → (g.warnings.map fun r => r.id.key).Pairwise (· < ·) →
      (g.attention.map fun id => id.cls.severity).Pairwise (· ≥ ·) → ∀ r ∈ g.unlisted,
      (∀ q ∈ g.unlisted, q.id.cls.severity < r.id.cls.severity ∨ q.id.cls.severity = r.id.cls.severity ∧ r.id.key ≤ q.id.key) →
      g.readmit = { g with attention :=
        (g.attention.filter fun x => r.id.cls.severity ≤ x.cls.severity) ++
          r.id :: (g.attention.filter fun x => x.cls.severity < r.id.cls.severity) }) ∧
    (∀ (id : WarnId) (g' : Engine), g.stateOf id = some .raised →
      g' = { g with warnings := g.warnings.filter fun r => r.id ≠ id, attention := g.attention.filter fun x => x ≠ id } →
      g.clear .selfClearing id = if id ∈ g.attention then g'.readmit else g')

/-- Raises, clears and readmission (R119 to R121, R123, R125). -/
def Obligations.RaisesAndClearsChangeTheWarning : Prop :=
  Claims.RaisesAreStampedAndListed ∧ Claims.ClearsFollowThePendingType ∧ Claims.FreedPlacesAreReadmitted

/-- ACKNOWLEDGE: its checks in their order, then RAISED becomes NOTED and STANDING becomes QUIET, out of the list (R128). -/
def Sys2Proof.Claims.AcknowledgementIsChecked : Prop :=
  ∀ (kind index cls : Byte) (stamp : Stamp) (s : State), Ready s →
    (warningOf kind index cls = none → OnlyAnswers (.acknowledge kind index cls stamp) s ⟨.badArg, []⟩) ∧
    (∀ id : WarnId, warningOf kind index cls = some id →
      (s.engine.stateOf id = none ∨ s.engine.stateOf id = some .noted →
        OnlyAnswers (.acknowledge kind index cls stamp) s ⟨.notPending, []⟩) ∧
      (∀ (st : ActiveState) (x : Stamp), s.engine.find id = some ⟨id, st, x⟩ → st ≠ .noted → x ≠ stamp →
        OnlyAnswers (.acknowledge kind index cls stamp) s ⟨.stale, []⟩) ∧
      (∀ st : ActiveState, s.engine.find id = some ⟨id, st, stamp⟩ → st ≠ .noted → s.engine.posted = [] →
        AttentionLaw s.engine → ∃ t : State, exec (.acknowledge kind index cls stamp) s = .next t ∧
          t = complete (.acknowledge kind index cls stamp) ⟨.ok, []⟩ { s with engine := t.engine, lines := t.lines } ∧
          id ∉ t.engine.attention ∧ t.engine.counter = s.engine.counter ∧
          (st = .raised → t.engine.find id = some ⟨id, .noted, stamp⟩) ∧ (st = .standing → t.engine.find id = none) ∧
          (∀ other : WarnId, other ≠ id → t.engine.find other = s.engine.find other)))

/-- The warnings that kind, index and class can name (R117, R128, section 11.2): STRANGER of the chamber whatever the index, and each
other class with a subject of its own kind in range. -/
def Sys2Proof.Claims.WarningsAreNamed : Prop :=
  ∀ (kind index cls : Byte) (id : WarnId), warningOf kind index cls = some id ↔
    (kind.toNat = 0 ∧ cls.toNat = 8 ∧ id = ⟨.chamber, .stranger⟩) ∨
    (∃ p : Fin 4, kind.toNat = 1 ∧ index.toNat = p.1 ∧ cls.toNat = 2 ∧ id = ⟨.port p, .receiverSilent⟩) ∨
    (∃ m : Fin 16, kind.toNat = 2 ∧ index.toNat = m.1 ∧ cls.toNat = 7 ∧ id = ⟨.line m, .lampFault⟩) ∨
    (∃ (n : Fin 200) (c : WClass), kind.toNat = 3 ∧ index.toNat = n.1 ∧ id = ⟨.entry n, c⟩ ∧
      (cls.toNat, c) ∈ [(0, WClass.sigLost), (1, .battCritical), (3, .sigWeak), (4, .hotMic), (5, .battLow), (6, .silentFloor)])

/-- An acknowledged warning leaves the list, and readmission follows (R125, R128). -/
def Sys2Proof.Claims.AcknowledgementReadmits : Prop :=
  ∀ (kind index cls : Byte) (id : WarnId) (st : ActiveState) (x : Stamp) (s : State) (g : Engine), Ready s → s.engine.posted = [] →
    AttentionLaw s.engine → warningOf kind index cls = some id → s.engine.find id = some ⟨id, st, x⟩ → st ≠ .noted →
    g = { s.engine with
      warnings := s.engine.warnings.filterMap fun r =>
        if r.id = id then (if st = .raised then some ⟨id, .noted, x⟩ else none) else some r
      attention := s.engine.attention.filter fun y => y ≠ id } →
    Brings (.acknowledge kind index cls x) s { s with engine := if id ∈ s.engine.attention then g.readmit else g } ⟨.ok, []⟩

/-- ACKNOWLEDGE: the warnings it can name, its checks and its effect (R125, R128). -/
def Obligations.AcknowledgementChecksAndTakes : Prop :=
  Claims.WarningsAreNamed ∧ Claims.AcknowledgementIsChecked ∧ Claims.AcknowledgementReadmits

/-- ACK_LISTED acknowledges every listed warning and no other, and READ_ATTENTION reads one place (R130, R131). -/
def Sys2Proof.Claims.ListIsTakenAndRead : Prop :=
  ∀ s : State, Ready s →
    (s.engine.posted = [] → AttentionLaw s.engine → ∃ t : State, exec .ackListed s = .next t ∧
      t = complete .ackListed ⟨.ok, [natByte s.engine.attention.length]⟩ { s with engine := t.engine, lines := t.lines } ∧
      t.engine.counter = s.engine.counter ∧
      (∀ id ∈ s.engine.attention, ∀ st x, s.engine.find id = some ⟨id, st, x⟩ →
        t.engine.find id = (if st = .raised then some ⟨id, .noted, x⟩ else none)) ∧
      (∀ id, id ∉ s.engine.attention → t.engine.find id = s.engine.find id) ∧
      (∀ id ∈ t.engine.attention, id ∉ s.engine.attention)) ∧
    (∀ b : Byte, 32 ≤ b.toNat → OnlyAnswers (.readAttention b) s ⟨.badArg, List.replicate 9 0⟩) ∧
    (∀ b : Byte, b.toNat < 32 → s.engine.attention.length ≤ b.toNat → OnlyAnswers (.readAttention b) s
      ⟨.ok, [natByte s.engine.attention.length, flagByte s.engine.overflow] ++ List.replicate 7 0xFF⟩) ∧
    (∀ (b : Byte) (id : WarnId) (st : ActiveState) (x : Stamp), b.toNat < 32 → s.engine.attention[b.toNat]? = some id →
      s.engine.find id = some ⟨id, st, x⟩ → OnlyAnswers (.readAttention b) s
        ⟨.ok, [natByte s.engine.attention.length, flagByte s.engine.overflow, id.subject.kindCode, id.subject.indexCode,
          natByte id.cls.code, warnStateCode (some st), natByte id.cls.severity] ++ bytesOfWord x⟩) ∧
    OnlyAnswers .readStrangers s ⟨.ok, (List.finRange 8).flatMap fun i => match s.combiner.strangers[i] with
      | some r => bytesOfUnit r.unit ++ [natByte r.strength.natAbs, natByte r.port.1] ++ natWord r.age ++ [natByte r.heard]
      | none => List.replicate 8 0⟩

/-- Several warnings made QUIET or NOTED in one handling (R126, R127, R130, R70, R47): first all of them, then one readmission for each
place freed; a quieting at fresh cells, at a retirement and at the end of a sitting, and ACK_LISTED. -/
def Sys2Proof.Claims.PlacesAreFreedThenReadmitted : Prop :=
  (∀ (g : Engine) (sel : WarnRecord → Bool), g.quietAll sel =
    Engine.readmit^[(g.attention.filter fun id => g.warnings.any fun r => r.id = id ∧ sel r).length]
      { g with
        warnings := g.warnings.filter fun r => !sel r
        attention := g.attention.filter fun id => !(g.warnings.any fun r => r.id = id ∧ sel r) }) ∧
  (∀ (s : State) (n : Fin 200) (sel : WarnRecord → Bool),
    ((∀ r, sel r = true ↔ r.id.subject = .entry n ∧ (r.id.cls = .battLow ∨ r.id.cls = .battCritical) ∧ r.state = .standing) →
      applyAct s (.quietCells n) = { s with engine := s.engine.quietAll sel }) ∧
    ((∀ r, sel r = true ↔ r.id.subject = .entry n) → applyAct s (.quietEntry n) = { s with engine := s.engine.quietAll sel }) ∧
    ((∀ r, sel r = true ↔ r.id.cls = .sigLost ∨ r.id.cls = .sigWeak ∨ r.id.cls = .hotMic ∨ r.id.cls = .silentFloor) →
      applyAct s .quietSitting = { s with engine := s.engine.quietAll sel })) ∧
  ∀ s : State, Ready s → s.engine.posted = [] →
    Brings .ackListed s { s with engine := Engine.readmit^[s.engine.attention.length] { s.engine with
      warnings := s.engine.warnings.filterMap fun r =>
        if r.id ∈ s.engine.attention then (match r.state with
          | .raised => some ⟨r.id, .noted, r.stamp⟩
          | .noted => some r
          | .standing => none)
        else some r
      attention := [] } } ⟨.ok, [natByte s.engine.attention.length]⟩

/-- IRQ_N (R132, R137): driven low exactly while a warning of a class in the mask is listed, with RESET_N high. -/
def Sys2Proof.Claims.InterruptFollowsTheList : Prop :=
  ∀ s : State, s.irqAsserted = true ↔
    s.inReset = false ∧ ∃ id ∈ s.engine.attention, s.tuning.irqMask.getLsbD (match id.cls with
      | .sigLost => 0
      | .battCritical => 1
      | .receiverSilent => 2
      | .sigWeak => 3
      | .hotMic => 4
      | .battLow => 5
      | .silentFloor => 6
      | .lampFault => 7
      | .stranger => 8) = true

/-- ACK_LISTED, READ_ATTENTION and READ_STRANGERS, the readmission after several warnings, and IRQ_N (R25, R126, R130 to R132). -/
def Obligations.ListIsAcknowledgedAndRead : Prop :=
  Claims.ListIsTakenAndRead ∧ Claims.PlacesAreFreedThenReadmitted ∧ Claims.InterruptFollowsTheList

/-! ### Indicator lines -/

/-- STAGE_LINE, APPLY_LINES and READ_LINE (R147, R148, R150). -/
def Sys2Proof.Claims.LinesAreStagedAndRead : Prop :=
  ∀ (b : Byte) (r : RawLineConfig) (s : State), Ready s →
    (16 ≤ b.toNat ∨ lineConfigOf r = none → OnlyAnswers (.stageLine b r) s ⟨.badArg, []⟩) ∧
    (∀ (m : Fin 16) (c : LineConfig), b.toNat = m.1 → lineConfigOf r = some c →
      exec (.stageLine b r) s = .next (complete (.stageLine b r) ⟨.ok, []⟩ (s.setLine m { s.lines.line[m] with staged := c }))) ∧
    (exec .applyLines s = .next (complete .applyLines ⟨.ok, []⟩ { s with lines := { s.lines with commitPending := true } })) ∧
    (16 ≤ b.toNat → OnlyAnswers (.readLine b) s ⟨.badArg, List.replicate 32 0⟩) ∧
    (∀ m : Fin 16, b.toNat = m.1 → OnlyAnswers (.readLine b) s ⟨.ok, s.lineRecord s.lines.line[m]⟩)

/-- The configurations that STAGE_LINE refuses (R147, R178): a source, display, polarity or hold unit that is no code; an index out of
range of GATE or ATTENTION; and for WARNING a scope that is no code, or its index out of range. -/
def Sys2Proof.Claims.BadConfigurationsAreRefused : Prop :=
  ∀ r : RawLineConfig, lineConfigOf r = none ↔
    7 < r.source.toNat ∨ 3 < r.display.toNat ∨ 1 < r.polarity.toNat ∨ 2 < r.holdUnit.toNat ∨
    (r.source.toNat = 3 ∧ 5 < r.sourceIndex.toNat) ∨
    (r.source.toNat = 6 ∧ (r.sourceIndex.toNat = 0 ∨ 5 < r.sourceIndex.toNat)) ∨
    (r.source.toNat = 2 ∧ (5 < r.scope.toNat ∨ r.scope.toNat = 1 ∧ 7 < r.scopeIndex.toNat ∨
      r.scope.toNat = 2 ∧ 199 < r.scopeIndex.toNat ∨ r.scope.toNat = 3 ∧ 3 < r.scopeIndex.toNat ∨
      r.scope.toNat = 4 ∧ 15 < r.scopeIndex.toNat))

/-- The 32 bytes of the line record (R150, section 11.7): both configurations, then the running state. -/
def Sys2Proof.Claims.LineRecordLayout : Prop :=
  (∀ (s : State) (l : Line), s.lineRecord l = lineConfigBytes l.live ++ lineConfigBytes l.staged ++
    [if l.source then 1 else 0, if l.active then 1 else 0, if s.lineLit l then 1 else 0, if s.lineDriven l then 1 else 0] ++
    natWord l.hold ++ [if l.sense then 1 else 0, if l.fault then 1 else 0] ∧ (s.lineRecord l).length = 32) ∧
  ∀ c : LineConfig, lineConfigBytes c =
    (match c.source with
      | .off => [0, 0, 0, 0, 0, 0, 0]
      | .on => [1, 0, 0, 0, 0, 0, 0]
      | .warning sc cs noted => [2, 0] ++ (match sc with
          | .anyUnit => [0, 0]
          | .group g => [1, natByte g.1]
          | .entry n => [2, natByte n.1]
          | .port p => [3, natByte p.1]
          | .line m => [4, natByte m.1]
          | .chamber => [5, 0]) ++ bytesOfWord (cs.setWidth 16) ++ [if noted then 1 else 0]
      | .gate k => [3, natByte k.1, 0, 0, 0, 0, 0]
      | .chairSpeaking => [4, 0, 0, 0, 0, 0, 0]
      | .hold => [5, 0, 0, 0, 0, 0, 0]
      | .attention v => [6, natByte v, 0, 0, 0, 0, 0]
      | .session => [7, 0, 0, 0, 0, 0, 0]) ++
    [(match c.display with
      | .steady => 0
      | .slow => 1
      | .fast => 2
      | .alert => 3),
     (match c.polarity with
      | .activeHigh => 0
      | .activeLow => 1), natByte c.holdCount,
     (match c.holdUnit with
      | .ms1 => 0
      | .ms10 => 1
      | .ms100 => 2), if c.senseCheck then 1 else 0]

/-- STAGE_LINE with what it refuses, APPLY_LINES, and READ_LINE with its record (R147, R148, R150, R178). -/
def Obligations.LinesAreStagedAppliedAndRead : Prop :=
  Claims.LinesAreStagedAndRead ∧ Claims.BadConfigurationsAreRefused ∧ Claims.LineRecordLayout

/-- A configuration that STAGE_LINE takes reads back as stored: sources, scopes and codes by section 11.7, with what is ignored
read back as 0 (R139, R147, R178). -/
def Obligations.StoredConfigurationsReadBack : Prop :=
  ∀ (r : RawLineConfig) (c : LineConfig), lineConfigOf r = some c →
    lineConfigBytes c =
      [r.source,
        if r.source = 3 ∨ r.source = 6 then r.sourceIndex else 0,
        if r.source = 2 then r.scope else 0,
        if r.source = 2 ∧ r.scope ≠ 0 ∧ r.scope ≠ 5 then r.scopeIndex else 0] ++
      bytesOfWord (if r.source = 2 then r.classSet &&& 0x1FF else 0) ++
      [if r.source = 2 ∧ r.noted ≠ 0 then 1 else 0, r.display, r.polarity, r.holdCount, r.holdUnit, if r.sense ≠ 0 then 1 else 0]

/-- BLINK_BOUNDARY makes a pending commit: staged configurations come into force; a changed line's timers and fault are cleared, its
LAMP_FAULT reported false in line order, and its hold timer loaded where the line becomes active; an unchanged line goes on; with
none pending only the boundary is taken (R143, R144, R148, R149). That a changed line which was active and stays active has its hold
timer at 0 is the model's reading of R149 beside R143 (assumption log 15); the mark of the boundary is log 17. -/
def Obligations.BoundaryMakesTheCommit : Prop :=
  ∀ s : State, Ticking s → s.lines.boundaryDue = true →
    (s.lines.commitPending = false →
      exec .blinkBoundary s = .next (finish { s with lines := { s.lines with boundaryDue := false } })) ∧
    (s.lines.commitPending = true → ∃ t : State, exec .blinkBoundary s = .next t ∧ t.lines.commitPending = false ∧
      t.lines.boundaryDue = false ∧ t.lines.phase = s.lines.phase ∧
      (∀ m : Fin 16, t.lines.line[m].live = s.lines.line[m].staged ∧ t.lines.line[m].staged = s.lines.line[m].staged ∧
        t.lines.line[m].sense = s.lines.line[m].sense ∧
        (s.lines.line[m].live = s.lines.line[m].staged → t.lines.line[m].fault = s.lines.line[m].fault) ∧
        (s.lines.line[m].live = s.lines.line[m].staged → t.lines.line[m] = t.settleLine s.lines.line[m]) ∧
        (s.lines.line[m].live ≠ s.lines.line[m].staged →
          t.lines.line[m].fault = false ∧ t.lines.line[m].disagree = 0 ∧ t.lines.line[m].agree = 0 ∧
          t.lines.line[m].active = t.sourceState s.lines.line[m].staged.source ∧
          t.lines.line[m].source = t.sourceState s.lines.line[m].staged.source ∧
          t.lines.line[m].hold = (if t.sourceState s.lines.line[m].staged.source = true ∧ s.lines.line[m].active = false
            then s.lines.line[m].staged.holdTime else 0))) ∧
      (s.engine.posted = [] → t.engine = ((List.finRange 16).filter fun m =>
        s.lines.line[m].live ≠ s.lines.line[m].staged ∧ s.lines.line[m].fault = true).foldl
          (fun g m => g.clear .latched ⟨.line m, .lampFault⟩) s.engine) ∧
      t = { s with engine := t.engine, choice := t.choice, lines := t.lines })

/-- HOLD_EXPIRY ends a line's activity where its source has fallen; the lamp sense finds a lamp faulty or sound and reports it; a
sense input is followed and the time it contradicts restarted (R143, R151, R152). -/
def Sys2Proof.Claims.LinesExpireAndLampsAreChecked : Prop :=
  ∀ (s : State) (m : Fin 16),
    (Ticking s → s.lines.line[m].active = true → s.lines.line[m].source = false → s.lines.line[m].hold = 0 →
      exec (.holdExpiry m) s = .next (finish (s.setLine m { s.lines.line[m] with active := false }))) ∧
    (Ticking s → 50 ≤ s.lines.line[m].disagree → s.lines.line[m].fault = false →
      exec (.lampFaultDetected m) s = .next (finish ((s.setLine m { s.lines.line[m] with fault := true }).post .lines
        (.report ⟨.line m, .lampFault⟩ true)))) ∧
    (Ticking s → 50 ≤ s.lines.line[m].agree → s.lines.line[m].fault = true →
      exec (.lampFaultCleared m) s = .next (finish ((s.setLine m { s.lines.line[m] with fault := false }).post .lines
        (.report ⟨.line m, .lampFault⟩ false)))) ∧
    (∀ high : Bool, ∃ x : Line,
      exec (.senseInputChange m high) s = .next { s with lines := { s.lines with line := setAt s.lines.line m x } } ∧
      x = { s.lines.line[m] with sense := high, disagree := x.disagree, agree := x.agree } ∧
      (s.lineLit s.lines.line[m] = true → s.lines.line[m].live.senseCheck = true →
        (high = s.lineDriven s.lines.line[m] → x.disagree = 0 ∧ x.agree = s.lines.line[m].agree) ∧
        (high ≠ s.lineDriven s.lines.line[m] → x.agree = 0 ∧ x.disagree = s.lines.line[m].disagree)) ∧
      (s.lineLit s.lines.line[m] = false ∨ s.lines.line[m].live.senseCheck = false → x.disagree = 0 ∧ x.agree = 0))

/-- How a line follows its source: it becomes active with its hold timer loaded, stays active while the source or the timer lasts,
and falls with the source when the timer is at 0 (R143). -/
def Sys2Proof.Claims.LineFollowsItsSource : Prop :=
  ∀ (s : State) (m : Fin 16) (l : Line) (src : Bool), s.lines.line[m] = l → s.engine.posted = [] →
    src = s.sourceState l.live.source →
    (finish s).lines.line[m].source = src ∧
    (src = true → (finish s).lines.line[m].active = true) ∧
    (src = true → l.active = false → (finish s).lines.line[m].hold = l.live.holdTime) ∧
    (l.active = true → (finish s).lines.line[m].hold = l.hold) ∧
    (src = false → l.active = true → (0 < l.hold ∨ l.source = false) → (finish s).lines.line[m].active = true) ∧
    (src = false → (l.active = false ∨ l.source = true ∧ l.hold = 0) → (finish s).lines.line[m].active = false) ∧
    (finish s).lines.line[m].live = l.live ∧ (finish s).lines.line[m].staged = l.staged ∧
    (finish s).lines.line[m].fault = l.fault ∧ (finish s).lines.line[m].sense = l.sense

/-- What each source reads (R140 to R142). -/
def Sys2Proof.Claims.SourcesReadTheBlocks : Prop :=
  ∀ s : State,
    s.sourceState .off = false ∧ s.sourceState .on = true ∧
    (∀ k : Fin 6, s.sourceState (.gate k) = true ↔
      k.1 < s.floor.capacity ∧ ∃ x : LiveSlot, s.floor.live[k] = some x ∧ s.speaking x.holder = true) ∧
    (s.sourceState .chairSpeaking = true ↔ s.mode = .session ∧ s.floor.cause ≠ .silence ∧ ∃ (n : Fin 200) (e : Entry),
      s.floor.chair = some n ∧ s.roster[n] = some e ∧ e.switch = .opened ∧ (e.presence = .live ∨ e.presence = .fading)) ∧
    (s.sourceState .hold = true ↔ s.floor.cause = .chair ∨ s.floor.cause = .silence) ∧
    (s.sourceState .session = true ↔ s.mode = .session) ∧
    (∀ v : Nat, s.sourceState (.attention v) = true ↔ ∃ id ∈ s.engine.attention, v ≤ id.cls.severity) ∧
    ∀ (sc : Scope) (cs : ClassBits) (noted : Bool), s.sourceState (.warning sc cs noted) = true ↔
      ∃ r ∈ s.engine.warnings, (r.state = .raised ∨ r.state = .standing ∨ r.state = .noted ∧ noted = true) ∧
        cs.getLsbD r.id.cls.code = true ∧
        match sc with
        | .anyUnit => ∃ n : Fin 200, r.id.subject = .entry n ∧ s.roster[n].isSome
        | .group g => ∃ (n : Fin 200) (e : Entry), r.id.subject = .entry n ∧ s.roster[n] = some e ∧ e.group = g
        | .entry n => r.id.subject = .entry n ∧ s.roster[n].isSome
        | .port p => r.id.subject = .port p
        | .line m => r.id.subject = .line m
        | .chamber => r.id.subject = .chamber

/-- When a line is lit, and the level it is driven at (R145, R146, R153, R154). An ALERT line blinks while a warning that matches its
source is RAISED or STANDING, as the same source without Include NOTED would be active. -/
def Sys2Proof.Claims.LinesAreLitAndDriven : Prop :=
  ∀ (s : State) (l : Line),
    (s.lineLit l = true ↔ l.active = true ∧ s.mode ≠ .dormant ∧ s.inReset = false ∧
      match l.live.display with
      | .steady => True
      | .slow => s.lines.phase < 500
      | .fast => s.lines.phase / 125 % 2 = 0
      | .alert => ∀ (sc : Scope) (cs : ClassBits) (noted : Bool), l.live.source = .warning sc cs noted →
          s.sourceState (.warning sc cs false) = true → s.lines.phase / 125 % 2 = 0) ∧
    (s.inReset = true → s.lineDriven l = false) ∧
    (s.inReset = false → l.live.polarity = .activeHigh → s.lineDriven l = s.lineLit l) ∧
    (s.inReset = false → l.live.polarity = .activeLow → s.lineDriven l = !s.lineLit l)

/-- A line reads its source, is lit and driven, follows its source and its hold, and its lamp is checked (R140 to R146, R151 to
R154). -/
def Obligations.LinesFollowExpireAndAreChecked : Prop :=
  Claims.SourcesReadTheBlocks ∧ Claims.LinesAreLitAndDriven ∧ Claims.LineFollowsItsSource ∧ Claims.LinesExpireAndLampsAreChecked

/-! ### Laws that every step keeps -/

/-- Right after reset every law holds. -/
def Obligations.ResetMeetsEveryLaw : Prop :=
  ClockLaw State.reset ∧ (∀ p : Fin 4, PortLaw State.reset.ports[p]) ∧ PoolLaw State.reset ∧ KeyLaw State.reset ∧
    SettingsLaw State.reset ∧ EvaluatorLaw State.reset ∧ FloorLaw State.reset ∧ SpeakingLaw State.reset ∧ EngineLaw State.reset ∧
    WarningLaw State.reset

/-- Ports keep their laws (R6, R8, R9). -/
def Obligations.StepsKeepThePortLaws : Prop := KeptByEveryStep fun s => ∀ p : Fin 4, PortLaw s.ports[p]

/-- The pool keeps its laws, on a clock that keeps its own (R28, R33, R34). -/
def Obligations.StepsKeepThePoolLaw : Prop := KeptByEveryStep fun s => ClockLaw s ∧ PoolLaw s

/-- Keys stay unique, and no enrolled unit is a stranger (R23, R36). -/
def Obligations.StepsKeepTheKeyLaw : Prop := KeptByEveryStep KeyLaw

/-- Levels are present exactly with their values, in range (R65, R84). -/
def Obligations.StepsKeepTheEvaluatorLaw : Prop := KeptByEveryStep fun s => SettingsLaw s ∧ EvaluatorLaw s

/-- The floor keeps its laws, on a clock that keeps its own (R94, R95, R102, R110, R114). -/
def Obligations.StepsKeepTheFloorLaw : Prop := KeptByEveryStep fun s => ClockLaw s ∧ FloorLaw s

/-- Speaking and hot-mic timers are always as derived (R100, R106). -/
def Obligations.StepsKeepSpeakingDerived : Prop := KeptByEveryStep fun s => ClockLaw s ∧ FloorLaw s ∧ SpeakingLaw s

/-- The attention list keeps its laws (R123, R124); and, beside the laws of the clock and the floor, no warning of a SELF_CLEARING class
is STANDING and none of a sitting class is active outside SESSION (R121, R122, R127). -/
def Obligations.StepsKeepTheAttentionList : Prop :=
  KeptByEveryStep EngineLaw ∧
    KeptByEveryStep fun s => ClockLaw s ∧ FloorLaw s ∧ SpeakingLaw s ∧ EngineLaw s ∧ WarningLaw s
end

