-- ==== Sys2Proof/Laws/Clock.lean ====
section
/-! SUPPORT. Laws/Clock.lean: which rows stand in the lists of due rows (Machine/Clock.lean), one lemma for each of the two ways in which
such a list is made. -/

namespace Sys2Proof.Machine

/-- A row of a table of rows is due exactly where its place is. -/
theorem mem_rowsOf {n : Nat} (p : Fin n → Bool) (row : Fin n → Instr) (i : Instr) :
    i ∈ rowsOf p row ↔ ∃ k, p k = true ∧ row k = i := by
  simp [rowsOf]

/-- A single row is due exactly under its condition. -/
theorem mem_rowIf (due : Bool) (row i : Instr) : i ∈ rowIf due row ↔ due = true ∧ i = row := by
  unfold rowIf
  split <;> simp_all

end Sys2Proof.Machine
end

