-- ==== Sys2Proof/Laws/Ops.lean ====
section
/-! SUPPORT. Laws/Ops.lean: what the table operations, the loops and the open orders can do. -/

namespace Sys2Proof.Machine

/-! ### Tables -/

theorem setAt_get {α : Type} {n : Nat} (v : Vector α n) (i j : Fin n) (x : α) : (setAt v i x)[j] = if i = j then x else v[j] := by
  simp only [setAt, Fin.getElem_fin, Vector.getElem_set, Fin.ext_iff]

@[simp] theorem setAt_get_same {α : Type} {n : Nat} (v : Vector α n) (i : Fin n) (x : α) : (setAt v i x)[i] = x := by
  rw [setAt_get, if_pos rfl]

theorem setAt_get_ne {α : Type} {n : Nat} (v : Vector α n) {i j : Fin n} (h : i ≠ j) (x : α) : (setAt v i x)[j] = v[j] := by
  rw [setAt_get, if_neg h]

@[simp] theorem setAt_same {α : Type} {n : Nat} (v : Vector α n) (i : Fin n) : setAt v i v[i] = v := by
  simp [setAt]

@[simp] theorem setAt_setAt {α : Type} {n : Nat} (v : Vector α n) (i : Fin n) (x y : α) : setAt (setAt v i x) i y = setAt v i y := by
  simp [setAt]

@[simp] theorem mapTable_get {α β : Type} {n : Nat} (v : Vector α n) (f : Fin n → α → β) (i : Fin n) :
    (mapTable v f)[i] = f i v[i] := by
  simp [mapTable]

/-! The same with the place written as a number, the form that `simp` leaves. -/

theorem setAt_val {α : Type} {n : Nat} (v : Vector α n) (i : Fin n) (j : Nat) (hj : j < n) (x : α) :
    (setAt v i x)[j] = if i.1 = j then x else v[j] := by
  simp only [setAt, Vector.getElem_set]

@[simp] theorem setAt_val_same {α : Type} {n : Nat} (v : Vector α n) (i : Fin n) (x : α) : (setAt v i x)[i.1] = x := by
  rw [setAt_val, if_pos rfl]

@[simp] theorem mapTable_val {α β : Type} {n : Nat} (v : Vector α n) (f : Fin n → α → β) (j : Nat) (hj : j < n) :
    (mapTable v f)[j] = f ⟨j, hj⟩ v[j] := by
  simp [mapTable]

/-- Two tables with the same places are equal. -/
theorem table_ext {α : Type} {n : Nat} {v w : Vector α n} (h : ∀ i : Fin n, v[i] = w[i]) : v = w := by
  ext i hi; exact h ⟨i, hi⟩

theorem firstIndex_eq_none {n : Nat} {p : Fin n → Bool} : firstIndex p = none ↔ ∀ i, p i = false := by
  simp [firstIndex, List.find?_eq_none]

/-- The first place with a property is the one that has it with none before it. -/
theorem firstIndex_eq_some {n : Nat} {p : Fin n → Bool} {i : Fin n} :
    firstIndex p = some i ↔ p i = true ∧ ∀ j < i, p j = false := by
  unfold firstIndex
  rw [List.find?_eq_some_iff_append]
  constructor
  · rintro ⟨hp, as, bs, h, hno⟩
    refine ⟨hp, fun j hj => ?_⟩
    have hs : (as ++ i :: bs).Pairwise (· < ·) := h ▸ List.pairwise_lt_finRange n
    have hmem : j ∈ as ++ i :: bs := h ▸ List.mem_finRange j
    rcases List.mem_append.1 hmem with hm | hm
    · simpa using hno j hm
    · rcases List.mem_cons.1 hm with rfl | hm
      · exact absurd hj (lt_irrefl _)
      · have := (List.pairwise_cons.1 (List.pairwise_append.1 hs).2.1).1 j hm
        exact absurd (lt_trans hj this) (lt_irrefl _)
  · rintro ⟨hp, hno⟩
    obtain ⟨as, bs, h⟩ := List.append_of_mem (List.mem_finRange i)
    refine ⟨hp, as, bs, h, fun j hj => ?_⟩
    have hs : (as ++ i :: bs).Pairwise (· < ·) := h ▸ List.pairwise_lt_finRange n
    have := (List.pairwise_append.1 hs).2.2 j hj i (List.mem_cons_self ..)
    simp [hno j this]

/-! ### Loops -/

/-- A property kept by every turn of a loop is kept by the loop. -/
theorem forList_induct {α : Type} {P : State → Prop} {f : α → State → State} (l : List α) (s : State) (h0 : P s)
    (hs : ∀ a ∈ l, ∀ t, P t → P (f a t)) : P (forList f l s) := by
  induction l generalizing s with
  | nil => exact h0
  | cons a l ih =>
    exact ih (f a s) (hs a (List.mem_cons_self ..) s h0) fun b hb t ht => hs b (List.mem_cons_of_mem _ hb) t ht

theorem forEach_induct {n : Nat} {P : State → Prop} {f : Fin n → State → State} (s : State) (h0 : P s)
    (hs : ∀ i t, P t → P (f i t)) : P (forEach f s) :=
  forList_induct (f := f) (List.finRange n) s h0 fun i _ t ht => hs i t ht

/-! ### Numbers -/

theorem clampInt_range {lo hi : Int} (h : lo ≤ hi) (v : Int) : lo ≤ clampInt lo hi v ∧ clampInt lo hi v ≤ hi := by
  unfold clampInt; split <;> [omega; (split <;> omega)]

theorem clampInt_eq {lo hi : Int} (h : lo ≤ hi) (v : Int) : clampInt lo hi v = max lo (min hi v) := by
  unfold clampInt; split <;> [omega; (split <;> omega)]

/-! ### Open orders -/

/-- Taking the head of one queue: some queue had it at its front, and the others stand. -/
theorem takeHead_eq_some {α : Type} {i : Nat} {qs qs' : List (List α)} {a : α} (h : takeHead i qs = some (a, qs')) :
    ∃ l q r, qs = l ++ (a :: q) :: r ∧ qs' = l ++ q :: r := by
  induction i generalizing qs qs' with
  | zero =>
    match qs, h with
    | (b :: q) :: qs, h =>
      simp only [takeHead, Option.some.injEq, Prod.mk.injEq] at h
      exact ⟨[], q, qs, by simp [h.1], by simp [h.2]⟩
  | succ i ih =>
    match qs, h with
    | q :: qs, h =>
      simp only [takeHead, Option.map_eq_some_iff] at h
      obtain ⟨⟨b, rs⟩, h1, h2⟩ := h
      simp only [Prod.mk.injEq] at h2
      obtain ⟨rfl, rfl⟩ := h2
      obtain ⟨l, q', r, rfl, rfl⟩ := ih h1
      exact ⟨q :: l, q', r, rfl, rfl⟩

theorem takeHead_isSome {α : Type} {i : Nat} {qs : List (List α)} (hi : i < qs.length) (hq : ∀ q ∈ qs, q ≠ []) :
    (takeHead i qs).isSome := by
  induction i generalizing qs with
  | zero =>
    match qs, hi, hq with
    | [] :: _, _, hq => exact absurd rfl (hq [] (List.mem_cons_self ..))
    | (_ :: _) :: _, _, _ => rfl
  | succ i ih =>
    match qs, hi, hq with
    | q :: qs, hi, hq =>
      simp only [takeHead, Option.isSome_map]
      exact ih (by simpa using hi) fun q' hq' => hq q' (List.mem_cons_of_mem _ hq')

theorem flatten_filter_nonempty {α : Type} (qs : List (List α)) : (qs.filter fun q => !q.isEmpty).flatten = qs.flatten := by
  induction qs with
  | nil => rfl
  | cons q qs ih => cases q <;> simp [ih]

/-- An open order takes every item once, and keeps the order within each queue. -/
theorem shuffle_spec {α : Type} (seed fuel : Nat) (qs : List (List α)) (h : qs.flatten.length ≤ fuel) :
    (shuffle seed fuel qs).Perm qs.flatten ∧ ∀ q ∈ qs, q.Sublist (shuffle seed fuel qs) := by
  induction fuel generalizing qs with
  | zero =>
    have h0 : qs.flatten = [] := List.length_eq_zero_iff.1 (by omega)
    refine ⟨by simp [shuffle, h0], fun q hq => ?_⟩
    rw [List.flatten_eq_nil_iff.1 h0 q hq]; exact List.nil_sublist _
  | succ fuel ih =>
    have hf : (qs.filter fun q => !q.isEmpty).flatten = qs.flatten := flatten_filter_nonempty qs
    have hsub : ∀ r : List α, (∀ q ∈ qs.filter (fun q => !q.isEmpty), q.Sublist r) → ∀ q ∈ qs, q.Sublist r := by
      intro r hr q hq
      by_cases he : q = []
      · subst he; exact List.nil_sublist _
      · exact hr q (List.mem_filter.2 ⟨hq, by simpa using he⟩)
    generalize hqs : (qs.filter fun q => !q.isEmpty) = ps at hf hsub
    have hne : ∀ q ∈ ps, q ≠ [] := by
      intro q hq he; subst hqs; have := (List.mem_filter.1 hq).2; simp [he] at this
    match ps, hqs, hf, hsub, hne with
    | [], hqs, hf, hsub, _ =>
      simp only [shuffle, hqs]
      exact ⟨by simp [← hf], hsub _ (by simp)⟩
    | [p], hqs, hf, hsub, _ =>
      simp only [shuffle, hqs]
      exact ⟨by simp [← hf], hsub _ (by simp)⟩
    | p₁ :: p₂ :: rest, hqs, hf, hsub, hne =>
      simp only [shuffle, hqs]
      have hlt : Config.freeChoice (seed + fuel) % (rest.length + 2) < (p₁ :: p₂ :: rest).length := by
        exact Nat.mod_lt _ (Nat.succ_pos _)
      obtain ⟨⟨a, qs'⟩, ht⟩ := Option.isSome_iff_exists.1 (takeHead_isSome hlt hne)
      rw [ht]
      obtain ⟨l, q, r, h1, rfl⟩ := takeHead_eq_some ht
      have hlen : (l ++ q :: r).flatten.length ≤ fuel := by
        have : (l ++ (a :: q) :: r).flatten.length ≤ fuel + 1 := by rw [← h1, hf]; exact h
        simp only [List.flatten_append, List.flatten_cons, List.length_append, List.length_cons] at this ⊢; omega
      obtain ⟨hp, hs⟩ := ih (l ++ q :: r) hlen
      constructor
      · rw [← hf, h1]
        refine (hp.cons a).trans ?_
        simp only [List.flatten_append, List.flatten_cons, List.cons_append]
        exact (List.perm_middle).symm
      · apply hsub
        rw [h1]
        intro x hx
        rcases List.mem_append.1 hx with hx | hx
        · exact (hs x (by simp [hx])).cons a
        · rcases List.mem_cons.1 hx with rfl | hx
          · exact (hs q (by simp)).cons_cons a
          · exact (hs x (by simp [hx])).cons a

end Sys2Proof.Machine
end

