-- ==== Sys2Proof/Laws/Engine.lean ====
section
/-! SUPPORT. Laws/Engine.lean: the warning engine's operations: what they leave of each warning, and that each keeps the laws of the
engine. -/

namespace Sys2Proof.Machine

/-! ### Names of warnings -/

theorem WClass.code_le (c : WClass) : c.code ≤ 8 := by cases c <;> decide

theorem WClass.code_inj {c d : WClass} (h : c.code = d.code) : c = d := by cases c <;> cases d <;> first | rfl | simp [WClass.code] at h

theorem Subject.rank_inj {a b : Subject} (h : a.rank = b.rank) : a = b := by
  cases a <;> cases b <;> simp only [Subject.rank] at h <;> first | rfl | omega | (congr 1; omega)

/-- Subject order and class order tell warnings apart. -/
theorem WarnId.key_inj {a b : WarnId} (h : a.key = b.key) : a = b := by
  have ha := a.cls.code_le
  have hb := b.cls.code_le
  unfold WarnId.key at h
  have h1 : a.subject = b.subject := Subject.rank_inj (by omega)
  have h2 : a.cls = b.cls := WClass.code_inj (by rw [h1] at h; omega)
  cases a; cases b; simp_all

/-! ### One record put or dropped -/

theorem find_putRecord_same (r : WarnRecord) (l : List WarnRecord) : (putRecord r l).find? (fun x => x.id == r.id) = some r := by
  induction l with
  | nil => simp [putRecord]
  | cons x xs ih =>
    unfold putRecord
    split
    · simp
    · split
      · simp
      · rename_i h _; simp [h, ih]

theorem find_putRecord_ne {id : WarnId} (r : WarnRecord) (h : id ≠ r.id) (l : List WarnRecord) :
    (putRecord r l).find? (fun x => x.id == id) = l.find? fun x => x.id == id := by
  have hr : (r.id == id) = false := by simpa using fun e => h e.symm
  induction l with
  | nil => simp [putRecord, hr]
  | cons x xs ih =>
    unfold putRecord
    split
    · rename_i hx; simp [hr, hx]
    · split
      · simp [hr]
      · simp [List.find?_cons, ih]

@[simp] theorem Engine.put_find_same (g : Engine) (r : WarnRecord) : (g.put r).find r.id = some r := find_putRecord_same r g.warnings

theorem Engine.put_find_ne (g : Engine) {id : WarnId} (r : WarnRecord) (h : id ≠ r.id) : (g.put r).find id = g.find id :=
  find_putRecord_ne r h g.warnings

@[simp] theorem Engine.drop_find_same (g : Engine) (id : WarnId) : (g.drop id).find id = none := by
  simp [Engine.find, Engine.drop]

theorem Engine.drop_find_ne (g : Engine) {id other : WarnId} (h : other ≠ id) : (g.drop id).find other = g.find other := by
  unfold Engine.find Engine.drop
  rw [List.find?_filter]
  congr 1; funext r
  by_cases hr : r.id = other
  · simp [hr, h]
  · simp [hr]

/-- A record found is in the table, under its name. -/
theorem Engine.find_some {g : Engine} {id : WarnId} {r : WarnRecord} (h : g.find id = some r) : r ∈ g.warnings ∧ r.id = id :=
  ⟨List.mem_of_find?_eq_some h, by simpa using List.find?_some h⟩

/-- In a table in order, a record is found by its name. -/
theorem find_of_mem {l : List WarnRecord} (hk : (l.map fun r => r.id.key).Pairwise (· < ·)) {r : WarnRecord} (h : r ∈ l) :
    l.find? (fun x => x.id == r.id) = some r := by
  induction l with
  | nil => simp at h
  | cons x xs ih =>
    simp only [List.map_cons, List.pairwise_cons, List.mem_map, forall_exists_index, and_imp, forall_apply_eq_imp_iff₂] at hk
    rcases List.mem_cons.1 h with rfl | h
    · simp
    · have : x.id ≠ r.id := fun e => by have := hk.1 r h; rw [e] at this; omega
      simp [this, ih hk.2 h]

theorem mem_putRecord {r x : WarnRecord} {l : List WarnRecord} (hk : (l.map fun r => r.id.key).Pairwise (· < ·)) :
    x ∈ putRecord r l ↔ x = r ∨ x ∈ l ∧ x.id ≠ r.id := by
  induction l with
  | nil => simp [putRecord]
  | cons y ys ih =>
    simp only [List.map_cons, List.pairwise_cons, List.mem_map, forall_exists_index, and_imp, forall_apply_eq_imp_iff₂] at hk
    have hne : ∀ z ∈ ys, z.id ≠ y.id := fun z hz e => by have := hk.1 z hz; rw [e] at this; omega
    unfold putRecord
    split
    · rename_i hy
      constructor
      · intro h
        rcases List.mem_cons.1 h with h | h
        · exact .inl h
        · exact .inr ⟨List.mem_cons_of_mem _ h, by rw [← hy]; exact hne x h⟩
      · rintro (h | ⟨h, hx⟩)
        · simp [h]
        · rcases List.mem_cons.1 h with rfl | h
          · exact absurd hy hx
          · exact List.mem_cons_of_mem _ h
    · split
      · rename_i hy hlt
        have hall : ∀ z ∈ y :: ys, z.id ≠ r.id := by
          intro z hz e
          rcases List.mem_cons.1 hz with rfl | hz
          · exact hy e
          · have := hk.1 z hz; rw [e] at this; omega
        constructor
        · intro h
          rcases List.mem_cons.1 h with h | h
          · exact .inl h
          · exact .inr ⟨h, hall x h⟩
        · rintro (h | ⟨h, _⟩)
          · simp [h]
          · exact List.mem_cons_of_mem _ h
      · rename_i hy _
        rw [List.mem_cons, ih hk.2, List.mem_cons]
        constructor
        · rintro (rfl | h | ⟨h, hx⟩)
          · exact .inr ⟨.inl rfl, hy⟩
          · exact .inl h
          · exact .inr ⟨.inr h, hx⟩
        · rintro (h | ⟨rfl | h, hx⟩)
          · exact .inr (.inl h)
          · exact .inl rfl
          · exact .inr (.inr ⟨h, hx⟩)

theorem putRecord_keys {r : WarnRecord} {l : List WarnRecord} (hk : (l.map fun r => r.id.key).Pairwise (· < ·)) :
    ((putRecord r l).map fun r => r.id.key).Pairwise (· < ·) := by
  induction l with
  | nil => simp [putRecord]
  | cons y ys ih =>
    have hk' := hk
    simp only [List.map_cons, List.pairwise_cons, List.mem_map, forall_exists_index, and_imp, forall_apply_eq_imp_iff₂] at hk
    unfold putRecord
    split
    · rename_i hy; rw [hy] at hk
      simpa using hk
    · split
      · rename_i _ hlt
        rw [List.map_cons, List.pairwise_cons]
        refine ⟨?_, hk'⟩
        intro k hkk
        rcases List.mem_map.1 hkk with ⟨z, hz, rfl⟩
        rcases List.mem_cons.1 hz with rfl | hz
        · exact hlt
        · exact lt_trans hlt (hk.1 z hz)
      · rename_i hy hlt
        rw [List.map_cons, List.pairwise_cons]
        refine ⟨?_, ih hk.2⟩
        intro k hkk
        rcases List.mem_map.1 hkk with ⟨z, hz, rfl⟩
        rcases (mem_putRecord hk.2).1 hz with rfl | ⟨hz, _⟩
        · exact lt_of_le_of_ne (by omega) fun e => hy (WarnId.key_inj e)
        · exact hk.1 z hz

theorem filter_keys {l : List WarnRecord} (p : WarnRecord → Bool) (hk : (l.map fun r => r.id.key).Pairwise (· < ·)) :
    ((l.filter p).map fun r => r.id.key).Pairwise (· < ·) :=
  hk.sublist (List.filter_sublist.map _)

/-! ### The attention list -/

/-- Insertion by severity: after every entry of at least the severity, before every other (R123). -/
theorem insertBySeverity_eq {id : WarnId} {l : List WarnId} (ho : (l.map fun x => x.cls.severity).Pairwise (· ≥ ·)) :
    insertBySeverity id l = (l.filter fun x => id.cls.severity ≤ x.cls.severity) ++
      id :: l.filter fun x => x.cls.severity < id.cls.severity := by
  induction l with
  | nil => rfl
  | cons x xs ih =>
    simp only [List.map_cons, List.pairwise_cons, List.mem_map, forall_exists_index, and_imp, forall_apply_eq_imp_iff₂] at ho
    unfold insertBySeverity
    split
    · rename_i hlt
      have h1 : xs.filter (fun y => id.cls.severity ≤ y.cls.severity) = [] := by
        simp only [List.filter_eq_nil_iff, decide_eq_true_eq, not_le]
        exact fun y hy => lt_of_le_of_lt (ho.1 y hy) hlt
      have h2 : xs.filter (fun y => y.cls.severity < id.cls.severity) = xs := by
        simp only [List.filter_eq_self, decide_eq_true_eq]
        exact fun y hy => lt_of_le_of_lt (ho.1 y hy) hlt
      simp only [List.filter_cons, hlt, decide_true, if_true, not_le.2 hlt, decide_false, Bool.false_eq_true, if_false, h1, h2,
        List.nil_append]
    · rename_i hlt
      simp only [List.filter_cons, hlt, decide_false, Bool.false_eq_true, if_false, not_lt.1 hlt, decide_true, if_true,
        List.cons_append, ih ho.2]

theorem mem_insertBySeverity {id x : WarnId} {l : List WarnId} : x ∈ insertBySeverity id l ↔ x = id ∨ x ∈ l := by
  induction l with
  | nil => simp [insertBySeverity]
  | cons y ys ih =>
    unfold insertBySeverity
    split
    · simp
    · simp only [List.mem_cons, ih]; tauto

@[simp] theorem length_insertBySeverity (id : WarnId) (l : List WarnId) : (insertBySeverity id l).length = l.length + 1 := by
  induction l with
  | nil => rfl
  | cons y ys ih => unfold insertBySeverity; split <;> simp [ih]

theorem insertBySeverity_nodup {id : WarnId} {l : List WarnId} (hid : id ∉ l) (hl : l.Nodup) : (insertBySeverity id l).Nodup := by
  induction l with
  | nil => simp [insertBySeverity]
  | cons y ys ih =>
    simp only [List.mem_cons, not_or] at hid
    rw [List.nodup_cons] at hl
    unfold insertBySeverity
    split
    · exact List.nodup_cons.2 ⟨by simp [hid], List.nodup_cons.2 hl⟩
    · refine List.nodup_cons.2 ⟨?_, ih hid.2 hl.2⟩
      rw [mem_insertBySeverity]
      rintro (h | h)
      · exact hid.1 h.symm
      · exact hl.1 h

theorem insertBySeverity_ordered {id : WarnId} {l : List WarnId} (ho : (l.map fun x => x.cls.severity).Pairwise (· ≥ ·)) :
    ((insertBySeverity id l).map fun x => x.cls.severity).Pairwise (· ≥ ·) := by
  induction l with
  | nil => simp [insertBySeverity]
  | cons y ys ih =>
    have ho' := ho
    simp only [List.map_cons, List.pairwise_cons, List.mem_map, forall_exists_index, and_imp, forall_apply_eq_imp_iff₂] at ho
    unfold insertBySeverity
    split
    · rename_i hlt
      rw [List.map_cons, List.pairwise_cons]
      refine ⟨?_, ho'⟩
      intro k hk
      rcases List.mem_map.1 hk with ⟨z, hz, rfl⟩
      rcases List.mem_cons.1 hz with rfl | hz
      · exact le_of_lt hlt
      · exact le_trans (ho.1 z hz) (le_of_lt hlt)
    · rename_i hlt
      rw [List.map_cons, List.pairwise_cons]
      refine ⟨?_, ih ho.2⟩
      intro k hk
      rcases List.mem_map.1 hk with ⟨z, hz, rfl⟩
      rcases mem_insertBySeverity.1 hz with rfl | hz
      · exact not_lt.1 hlt
      · exact ho.1 z hz

/-! ### Readmission -/

theorem foldl_betterUnlisted_spec (l : List WarnRecord) (b : Option WarnRecord) :
    (l.foldl betterUnlisted b = none ↔ b = none ∧ l = []) ∧
    ∀ r, l.foldl betterUnlisted b = some r → (b = some r ∨ r ∈ l) ∧ (∀ x ∈ l, x.id.cls.severity ≤ r.id.cls.severity) ∧
      ∀ x, b = some x → x.id.cls.severity ≤ r.id.cls.severity := by
  induction l generalizing b with
  | nil =>
    refine ⟨by simp, fun r h => ?_⟩
    simp only [List.foldl_nil] at h
    exact ⟨.inl h, by simp, fun x hx => by rw [h] at hx; cases hx; exact le_rfl⟩
  | cons y ys ih =>
    obtain ⟨h1, h2⟩ := ih (betterUnlisted b y)
    have hb : ∃ c, betterUnlisted b y = some c ∧ (c = y ∨ b = some c) ∧ y.id.cls.severity ≤ c.id.cls.severity ∧
        ∀ x, b = some x → x.id.cls.severity ≤ c.id.cls.severity := by
      cases b with
      | none => exact ⟨y, rfl, .inl rfl, le_rfl, by simp⟩
      | some x =>
        unfold betterUnlisted
        by_cases hlt : x.id.cls.severity < y.id.cls.severity
        · exact ⟨y, by simp [hlt], .inl rfl, le_rfl, fun z hz => by cases hz; exact le_of_lt hlt⟩
        · exact ⟨x, by simp [hlt], .inr rfl, not_lt.1 hlt, fun z hz => by cases hz; exact le_rfl⟩
    obtain ⟨c, hc, hc1, hc2, hc3⟩ := hb
    constructor
    · rw [List.foldl_cons, h1, hc]; simp
    · intro r hr
      obtain ⟨ha, hall, hbest⟩ := h2 r hr
      have hcr := hbest c hc
      refine ⟨?_, ?_, fun x hx => le_trans (hc3 x hx) hcr⟩
      · rcases ha with ha | ha
        · rw [hc] at ha; cases ha
          rcases hc1 with rfl | h
          · exact .inr (List.mem_cons_self ..)
          · exact .inl h
        · exact .inr (List.mem_cons_of_mem _ ha)
      · intro x hx
        rcases List.mem_cons.1 hx with rfl | hx
        · exact le_trans hc2 hcr
        · exact hall x hx

/-- Readmission chooses an unlisted warning of the highest severity (R125). -/
theorem Engine.nextUnlisted_some {g : Engine} {r : WarnRecord} (h : g.nextUnlisted = some r) :
    r ∈ g.unlisted ∧ ∀ x ∈ g.unlisted, x.id.cls.severity ≤ r.id.cls.severity := by
  obtain ⟨h1, h2, _⟩ := (foldl_betterUnlisted_spec g.unlisted none).2 r h
  exact ⟨h1.resolve_left (by simp), h2⟩

theorem Engine.nextUnlisted_none {g : Engine} (h : g.nextUnlisted = none) : g.unlisted = [] :=
  ((foldl_betterUnlisted_spec g.unlisted none).1.1 h).2

/-- An unlisted warning is pending and has no place in the list. -/
theorem Engine.mem_unlisted {g : Engine} {r : WarnRecord} :
    r ∈ g.unlisted ↔ r ∈ g.warnings ∧ r.state.pending = true ∧ r.id ∉ g.attention := by
  simp [Engine.unlisted, Engine.listed]

@[simp] theorem Engine.readmit_warnings (g : Engine) : g.readmit.warnings = g.warnings := by
  unfold Engine.readmit; split
  · split <;> rfl
  · rfl

@[simp] theorem Engine.readmit_counter (g : Engine) : g.readmit.counter = g.counter := by
  unfold Engine.readmit; split
  · split <;> rfl
  · rfl

@[simp] theorem Engine.readmitMany_warnings (k : Nat) (g : Engine) : (Engine.readmitMany k g).warnings = g.warnings := by
  induction k generalizing g with
  | zero => rfl
  | succ k ih => rw [Engine.readmitMany, ih, Engine.readmit_warnings]

@[simp] theorem Engine.readmitMany_counter (k : Nat) (g : Engine) : (Engine.readmitMany k g).counter = g.counter := by
  induction k generalizing g with
  | zero => rfl
  | succ k ih => rw [Engine.readmitMany, ih, Engine.readmit_counter]

@[simp] theorem Engine.leave_warnings (g : Engine) (id : WarnId) : (g.leave id).warnings = g.warnings := by
  unfold Engine.leave; split <;> simp

@[simp] theorem Engine.leave_counter (g : Engine) (id : WarnId) : (g.leave id).counter = g.counter := by
  unfold Engine.leave; split <;> simp

theorem Engine.find_congr {g h : Engine} (e : g.warnings = h.warnings) (id : WarnId) : g.find id = h.find id := by
  unfold Engine.find; rw [e]

/-- What readmission can add to the list: only unlisted warnings. -/
theorem Engine.mem_readmit {g : Engine} {id : WarnId} (h : id ∈ g.readmit.attention) :
    id ∈ g.attention ∨ ∃ r ∈ g.unlisted, r.id = id := by
  unfold Engine.readmit at h
  split at h
  · split at h
    · rename_i r hr
      rcases mem_insertBySeverity.1 h with rfl | h
      · exact .inr ⟨r, (Engine.nextUnlisted_some hr).1, rfl⟩
      · exact .inl h
    · exact .inl h
  · exact .inl h

/-- Readmission keeps every place. -/
theorem Engine.readmit_mono {g : Engine} {id : WarnId} (h : id ∈ g.attention) : id ∈ g.readmit.attention := by
  unfold Engine.readmit; split
  · split
    · exact mem_insertBySeverity.2 (.inr h)
    · exact h
  · exact h

theorem Engine.mem_readmitMany {k : Nat} {g : Engine} {id : WarnId} (h : id ∈ (Engine.readmitMany k g).attention) :
    id ∈ g.attention ∨ ∃ r ∈ g.warnings, r.state.pending = true ∧ r.id = id := by
  induction k generalizing g with
  | zero => exact .inl h
  | succ k ih =>
    rcases ih h with h | ⟨r, hr, hp, he⟩
    · rcases Engine.mem_readmit h with h | ⟨r, hr, he⟩
      · exact .inl h
      · exact .inr ⟨r, (Engine.mem_unlisted.1 hr).1, (Engine.mem_unlisted.1 hr).2.1, he⟩
    · exact .inr ⟨r, by simpa using hr, hp, he⟩

/-- The laws of the engine but for the one that a list with free places leaves nothing unlisted. -/
structure AttentionLawOpen (g : Engine) : Prop where
  keys : (g.warnings.map fun r => r.id.key).Pairwise (· < ·)
  short : g.attention.length ≤ 32
  once : g.attention.Nodup
  pending : ∀ id ∈ g.attention, ∃ r ∈ g.warnings, r.id = id ∧ r.state.pending = true
  ordered : (g.attention.map fun id => id.cls.severity).Pairwise (· ≥ ·)
  lowest : ∀ r ∈ g.unlisted, ∀ id ∈ g.attention, r.id.cls.severity ≤ id.cls.severity

theorem AttentionLaw.open {g : Engine} (h : AttentionLaw g) : AttentionLawOpen g :=
  ⟨h.keys, h.short, h.once, h.pending, h.ordered, h.lowest⟩

theorem Engine.overflow_eq_false {g : Engine} : g.overflow = false ↔ g.unlisted = [] := by
  simp [Engine.overflow]

theorem readmit_open {g : Engine} (h : AttentionLawOpen g) : AttentionLawOpen g.readmit := by
  unfold Engine.readmit
  split
  · rename_i hlen
    split
    · rename_i r hr
      obtain ⟨hr, hbest⟩ := Engine.nextUnlisted_some hr
      obtain ⟨hw, hp, hn⟩ := Engine.mem_unlisted.1 hr
      have hlen : g.attention.length < 32 := hlen
      refine ⟨h.keys, by simpa using hlen, insertBySeverity_nodup hn h.once, ?_, insertBySeverity_ordered h.ordered, ?_⟩
      · intro id hid
        rcases mem_insertBySeverity.1 hid with rfl | hid
        · exact ⟨r, hw, rfl, hp⟩
        · exact h.pending id hid
      · intro x hx id hid
        obtain ⟨hxw, hxp, hxn⟩ := Engine.mem_unlisted.1 hx
        have hx' : x ∈ g.unlisted := Engine.mem_unlisted.2 ⟨hxw, hxp, fun hm => hxn (mem_insertBySeverity.2 (.inr hm))⟩
        rcases mem_insertBySeverity.1 hid with rfl | hid
        · exact hbest x hx'
        · exact h.lowest x hx' id hid
    · exact h
  · exact h

/-- Readmission for as many places as are free restores the laws of the engine (R125, R126). -/
theorem readmitMany_law {k : Nat} {g : Engine} (h : AttentionLawOpen g) (hk : g.overflow = true → 32 ≤ g.attention.length + k) :
    AttentionLaw (Engine.readmitMany k g) := by
  induction k generalizing g with
  | zero => exact ⟨h.keys, h.short, h.once, h.pending, h.ordered, fun ho => le_antisymm h.short (hk ho), h.lowest⟩
  | succ k ih =>
    refine ih (readmit_open h) fun ho => ?_
    by_cases hlen : g.attention.length < 32
    · cases hu : g.nextUnlisted with
      | none =>
        have hg : g.readmit = g := by unfold Engine.readmit; rw [hu]; split <;> rfl
        rw [hg, Engine.overflow, Engine.nextUnlisted_none hu] at ho
        simp at ho
      | some r =>
        have hov : g.overflow = true := by
          have := (Engine.nextUnlisted_some hu).1
          simp only [Engine.overflow, Bool.not_eq_true', List.isEmpty_eq_false_iff]
          exact List.ne_nil_of_mem this
        have hg : g.readmit.attention.length = g.attention.length + 1 := by
          unfold Engine.readmit; rw [hu, if_pos (by exact hlen)]; simp
        rw [hg]; have := hk hov; omega
    · have hg : g.readmit = g := by unfold Engine.readmit; rw [if_neg (by exact hlen)]
      rw [hg]; omega

theorem leave_law {g : Engine} {id : WarnId} (hk : (g.warnings.map fun r => r.id.key).Pairwise (· < ·)) (hs : g.attention.length ≤ 32)
    (ho : g.attention.Nodup) (hp : ∀ x ∈ g.attention, x ≠ id → ∃ r ∈ g.warnings, r.id = x ∧ r.state.pending = true)
    (hord : (g.attention.map fun x => x.cls.severity).Pairwise (· ≥ ·))
    (hid : ∀ r ∈ g.warnings, r.id = id → r.state.pending = false)
    (hf : g.overflow = true → g.attention.length = 32)
    (hl : ∀ r ∈ g.unlisted, ∀ x ∈ g.attention, r.id.cls.severity ≤ x.cls.severity) :
    AttentionLaw (g.leave id) := by
  unfold Engine.leave
  split
  · rename_i hmem
    have hmem : id ∈ g.attention := by simpa [Engine.listed] using hmem
    have hlen : (g.attention.filter fun x => x != id).length + 1 = g.attention.length := by
      have h1 : (g.attention.filter fun x => x != id) = g.attention.erase id := by rw [ho.erase_eq_filter]
      rw [h1, List.length_erase_of_mem hmem]
      have := List.length_pos_of_mem hmem; omega
    have hun : ∀ r ∈ ({ g with attention := g.attention.filter fun x => x != id } : Engine).unlisted, r ∈ g.unlisted := by
      intro r hr
      obtain ⟨h1, h2, h3⟩ := Engine.mem_unlisted.1 hr
      refine Engine.mem_unlisted.2 ⟨h1, h2, fun hm => h3 ?_⟩
      have : r.id ≠ id := fun e => by rw [hid r h1 e] at h2; simp at h2
      exact List.mem_filter.2 ⟨hm, by simpa using this⟩
    refine readmitMany_law (k := 1) ⟨hk, by show (g.attention.filter _).length ≤ 32; omega, ho.filter _, ?_, hord.sublist (List.filter_sublist.map _), ?_⟩ ?_
    · intro x hx
      obtain ⟨h1, h2⟩ := List.mem_filter.1 hx
      exact hp x h1 (by simpa using h2)
    · intro r hr x hx
      exact hl r (hun r hr) x (List.mem_filter.1 hx).1
    · intro hov
      have : g.overflow = true := by
        simp only [Engine.overflow, Bool.not_eq_true', List.isEmpty_eq_false_iff] at hov ⊢
        obtain ⟨r, hr⟩ := List.exists_mem_of_ne_nil _ hov
        exact List.ne_nil_of_mem (hun r hr)
      have := hf this
      show 32 ≤ (g.attention.filter _).length + 1
      omega
  · rename_i hmem
    have hmem : id ∉ g.attention := by simpa [Engine.listed] using hmem
    exact ⟨hk, hs, ho, fun x hx => hp x hx fun e => hmem (e ▸ hx), hord, hf, hl⟩

/-! ### The operations keep the laws -/

theorem seekPlace_subset {id x : WarnId} {l : List WarnId} (h : x ∈ seekPlace id l) : x = id ∨ x ∈ l := by
  unfold seekPlace at h
  split at h
  · exact mem_insertBySeverity.1 h
  · split at h
    · split at h
      · exact (mem_insertBySeverity.1 h).imp_right List.mem_of_mem_dropLast
      · exact .inr h
    · exact .inr h

/-- The record of a listed warning is pending. -/
theorem AttentionLaw.find_listed {g : Engine} (h : AttentionLaw g) {id : WarnId} (hid : id ∈ g.attention) :
    ∃ r, g.find id = some r ∧ r.state.pending = true := by
  obtain ⟨r, hr, rfl, hp⟩ := h.pending id hid
  exact ⟨r, find_of_mem h.keys hr, hp⟩

theorem AttentionLaw.not_listed {g : Engine} (h : AttentionLaw g) {id : WarnId} (hq : g.find id = none) : id ∉ g.attention := by
  intro hid
  obtain ⟨r, hr, _⟩ := h.find_listed hid
  rw [hq] at hr; cases hr

theorem Engine.find_none {g : Engine} {id : WarnId} (h : g.find id = none) : ∀ r ∈ g.warnings, r.id ≠ id := by
  intro r hr e
  have := List.find?_eq_none.1 h r hr
  simp [e] at this

theorem raise_law {g : Engine} (h : AttentionLaw g) (id : WarnId) : AttentionLaw (g.raise id) := by
  unfold Engine.raise
  split
  · rename_i hst
    have hq : g.find id = none := by simpa [Engine.stateOf] using hst
    have hnew := Engine.find_none hq
    have hnl := h.not_listed hq
    have hmem : ∀ x, x ∈ putRecord ⟨id, .raised, g.counter + 1⟩ g.warnings ↔ x = ⟨id, .raised, g.counter + 1⟩ ∨ x ∈ g.warnings := by
      intro x
      rw [mem_putRecord h.keys]
      exact ⟨fun hx => hx.imp_right And.left, fun hx => hx.imp_right fun hx => ⟨hx, hnew x hx⟩⟩
    have hpend : ∀ l : List WarnId, (∀ x ∈ l, x = id ∨ x ∈ g.attention) →
        ∀ x ∈ l, ∃ r ∈ putRecord ⟨id, .raised, g.counter + 1⟩ g.warnings, r.id = x ∧ r.state.pending = true := by
      intro l hl x hx
      rcases hl x hx with rfl | hx
      · exact ⟨_, (hmem _).2 (.inl rfl), rfl, rfl⟩
      · obtain ⟨r, hr, h1, h2⟩ := h.pending x hx
        exact ⟨r, (hmem r).2 (.inr hr), h1, h2⟩
    have hun : ∀ (l : List WarnId) (r : WarnRecord),
        r ∈ ({ g.put ⟨id, .raised, g.counter + 1⟩ with counter := g.counter + 1, attention := l } : Engine).unlisted ↔
          (r = ⟨id, .raised, g.counter + 1⟩ ∨ r ∈ g.warnings) ∧ r.state.pending = true ∧ r.id ∉ l := by
      intro l r; rw [Engine.mem_unlisted]; exact and_congr_left' (hmem r)
    by_cases hlen : g.attention.length < 32
    · have hs : seekPlace id g.attention = insertBySeverity id g.attention := by unfold seekPlace; rw [if_pos (by exact hlen)]
      have hu0 : g.unlisted = [] := by
        by_contra hne
        have : g.overflow = true := by simpa [Engine.overflow] using hne
        have := h.full this; omega
      have hempty : ∀ r, ¬ r ∈ ({ g.put ⟨id, .raised, g.counter + 1⟩ with
          counter := g.counter + 1, attention := insertBySeverity id g.attention } : Engine).unlisted := by
        intro r hr
        obtain ⟨h1, h2, h3⟩ := (hun _ r).1 hr
        rcases h1 with rfl | h1
        · exact h3 (mem_insertBySeverity.2 (.inl rfl))
        · have : r ∈ g.unlisted := Engine.mem_unlisted.2 ⟨h1, h2, fun hm => h3 (mem_insertBySeverity.2 (.inr hm))⟩
          rw [hu0] at this; cases this
      rw [hs]
      refine ⟨putRecord_keys h.keys, by simpa using hlen, insertBySeverity_nodup hnl h.once,
        hpend _ fun x hx => mem_insertBySeverity.1 hx, insertBySeverity_ordered h.ordered, ?_, ?_⟩
      · intro ho
        obtain ⟨r, hr⟩ := List.exists_mem_of_ne_nil _ (by simpa [Engine.overflow] using ho)
        exact absurd hr (hempty r)
      · intro r hr; exact absurd hr (hempty r)
    · have hl32 : g.attention.length = 32 := le_antisymm h.short (by omega)
      obtain ⟨x, hx⟩ : ∃ x, g.attention.getLast? = some x := by
        have hne : g.attention ≠ [] := by rintro e; simp [e] at hl32
        exact ⟨_, List.getLast?_eq_some_getLast hne⟩
      have hsplit : g.attention = g.attention.dropLast ++ [x] := by
        have hne : g.attention ≠ [] := by rintro e; simp [e] at hl32
        conv_lhs => rw [← List.dropLast_append_getLast hne]
        rw [List.getLast?_eq_some_getLast hne] at hx; simp only [Option.some.injEq] at hx; rw [hx]
      have hlow : ∀ y ∈ g.attention, x.cls.severity ≤ y.cls.severity := by
        have ho := h.ordered
        rw [hsplit, List.map_append, List.pairwise_append] at ho
        intro y hy
        rw [hsplit] at hy
        rcases List.mem_append.1 hy with hy | hy
        · exact ho.2.2 _ (List.mem_map_of_mem hy) _ (by simp)
        · simp only [List.mem_singleton] at hy; rw [hy]
      by_cases hsev : x.cls.severity < id.cls.severity
      · have hs : seekPlace id g.attention = insertBySeverity id g.attention.dropLast := by
          unfold seekPlace; rw [if_neg (by exact hlen), hx]; simp [hsev]
        have hd : ∀ y ∈ g.attention.dropLast, y ∈ g.attention := fun y hy => List.mem_of_mem_dropLast hy
        rw [hs]
        refine ⟨putRecord_keys h.keys, by simp [hl32], insertBySeverity_nodup (fun hm => hnl (hd _ hm)) (h.once.sublist
          (List.dropLast_sublist _)), hpend _ fun y hy => (mem_insertBySeverity.1 hy).imp_right (hd y),
          insertBySeverity_ordered (h.ordered.sublist ((List.dropLast_sublist _).map _)), fun _ => by simp [hl32], ?_⟩
        intro r hr y hy
        obtain ⟨h1, h2, h3⟩ := (hun _ r).1 hr
        have hrx : r.id.cls.severity ≤ x.cls.severity := by
          rcases h1 with rfl | h1
          · exact absurd (mem_insertBySeverity.2 (.inl rfl)) h3
          · by_cases hm : r.id ∈ g.attention
            · rw [hsplit] at hm
              rcases List.mem_append.1 hm with hm | hm
              · exact absurd (mem_insertBySeverity.2 (.inr hm)) h3
              · simp only [List.mem_singleton] at hm; rw [hm]
            · exact h.lowest r (Engine.mem_unlisted.2 ⟨h1, h2, hm⟩) x (by rw [hsplit]; simp)
        rcases mem_insertBySeverity.1 hy with rfl | hy
        · omega
        · exact le_trans hrx (hlow y (hd y hy))
      · have hs : seekPlace id g.attention = g.attention := by
          unfold seekPlace; rw [if_neg (by exact hlen), hx]; simp [hsev]
        rw [hs]
        refine ⟨putRecord_keys h.keys, h.short, h.once, hpend _ fun y hy => .inr hy, h.ordered, fun _ => hl32, ?_⟩
        intro r hr y hy
        obtain ⟨h1, h2, h3⟩ := (hun _ r).1 hr
        rcases h1 with rfl | h1
        · exact le_trans (not_lt.1 hsev) (hlow y hy)
        · exact h.lowest r (Engine.mem_unlisted.2 ⟨h1, h2, h3⟩) y hy
  · rename_i hst
    obtain ⟨q, hq, hqs⟩ : ∃ q, g.find id = some q ∧ q.state = .standing := by simpa [Engine.stateOf] using hst
    obtain ⟨hqm, rfl⟩ := Engine.find_some hq
    have hmem := fun x => mem_putRecord (r := ⟨q.id, .raised, g.counter + 1⟩) (x := x) h.keys
    refine ⟨putRecord_keys h.keys, h.short, h.once, ?_, h.ordered, ?_, ?_⟩
    · intro y hy
      by_cases e : y = q.id
      · exact ⟨_, (hmem _).2 (.inl rfl), e.symm, rfl⟩
      · obtain ⟨r, hr, h1, h2⟩ := h.pending y hy
        exact ⟨r, (hmem r).2 (.inr ⟨hr, by rw [h1]; exact e⟩), h1, h2⟩
    · intro ho
      obtain ⟨r, hr⟩ := List.exists_mem_of_ne_nil _ (by simpa [Engine.overflow] using ho)
      obtain ⟨h1, h2, h3⟩ := Engine.mem_unlisted.1 hr
      apply h.full
      have hne : ∃ r, r ∈ g.unlisted := by
        rcases (hmem r).1 h1 with rfl | ⟨h1, _⟩
        · exact ⟨q, Engine.mem_unlisted.2 ⟨hqm, by simp [hqs, ActiveState.pending], h3⟩⟩
        · exact ⟨r, Engine.mem_unlisted.2 ⟨h1, h2, h3⟩⟩
      obtain ⟨r, hr⟩ := hne
      simpa [Engine.overflow] using List.ne_nil_of_mem hr
    · intro r hr y hy
      obtain ⟨h1, h2, h3⟩ := Engine.mem_unlisted.1 hr
      rcases (hmem r).1 h1 with rfl | ⟨h1, _⟩
      · exact h.lowest q (Engine.mem_unlisted.2 ⟨hqm, by simp [hqs, ActiveState.pending], h3⟩) y hy
      · exact h.lowest r (Engine.mem_unlisted.2 ⟨h1, h2, h3⟩) y hy
  · exact h
  · exact h

/-- A warning that is dropped, listed or not, leaves the laws kept. -/
theorem drop_leave_law {g : Engine} (h : AttentionLaw g) (id : WarnId) : AttentionLaw ((g.drop id).leave id) := by
  have hmem : ∀ r, r ∈ (g.drop id).warnings ↔ r ∈ g.warnings ∧ r.id ≠ id := by intro r; simp [Engine.drop]
  have hun : ∀ r, r ∈ (g.drop id).unlisted → r ∈ g.unlisted := by
    intro r hr
    obtain ⟨h1, h2, h3⟩ := Engine.mem_unlisted.1 hr
    exact Engine.mem_unlisted.2 ⟨((hmem r).1 h1).1, h2, h3⟩
  refine leave_law (filter_keys _ h.keys) h.short h.once ?_ h.ordered ?_ ?_ ?_
  · intro x hx hne
    obtain ⟨r, hr, h1, h2⟩ := h.pending x hx
    exact ⟨r, (hmem r).2 ⟨hr, by rw [h1]; exact hne⟩, h1, h2⟩
  · intro r hr e; exact absurd e ((hmem r).1 hr).2
  · intro ho
    obtain ⟨r, hr⟩ := List.exists_mem_of_ne_nil _ (by simpa [Engine.overflow] using ho)
    exact h.full (by simpa [Engine.overflow] using List.ne_nil_of_mem (hun r hr))
  · intro r hr x hx; exact h.lowest r (hun r hr) x hx

/-- A record that takes another pending state, or becomes NOTED and leaves the list, leaves the laws kept. -/
theorem put_noted_leave_law {g : Engine} (h : AttentionLaw g) (id : WarnId) (st : Stamp) :
    AttentionLaw ((g.put ⟨id, .noted, st⟩).leave id) := by
  have hmem := fun x => mem_putRecord (r := ⟨id, .noted, st⟩) (x := x) h.keys
  have hun : ∀ r, r ∈ (g.put ⟨id, .noted, st⟩).unlisted → r ∈ g.unlisted := by
    intro r hr
    obtain ⟨h1, h2, h3⟩ := Engine.mem_unlisted.1 hr
    rcases (hmem r).1 h1 with rfl | ⟨h1, _⟩
    · simp [ActiveState.pending] at h2
    · exact Engine.mem_unlisted.2 ⟨h1, h2, h3⟩
  refine leave_law (putRecord_keys h.keys) h.short h.once ?_ h.ordered ?_ ?_ ?_
  · intro x hx hne
    obtain ⟨r, hr, h1, h2⟩ := h.pending x hx
    exact ⟨r, (hmem r).2 (.inr ⟨hr, by rw [h1]; exact hne⟩), h1, h2⟩
  · intro r hr e
    rcases (hmem r).1 hr with rfl | ⟨_, h1⟩
    · rfl
    · exact absurd e h1
  · intro ho
    obtain ⟨r, hr⟩ := List.exists_mem_of_ne_nil _ (by simpa [Engine.overflow] using ho)
    exact h.full (by simpa [Engine.overflow] using List.ne_nil_of_mem (hun r hr))
  · intro r hr x hx; exact h.lowest r (hun r hr) x hx

theorem put_standing_law {g : Engine} (h : AttentionLaw g) {q : WarnRecord} (hq : g.find q.id = some q) (hp : q.state.pending = true)
    (st : Stamp) : AttentionLaw (g.put ⟨q.id, .standing, st⟩) := by
  have hqm := (Engine.find_some hq).1
  have hmem := fun x => mem_putRecord (r := ⟨q.id, .standing, st⟩) (x := x) h.keys
  have hun : ∀ r, r ∈ (g.put ⟨q.id, .standing, st⟩).unlisted → ∃ r' ∈ g.unlisted, r'.id = r.id := by
    intro r hr
    obtain ⟨h1, h2, h3⟩ := Engine.mem_unlisted.1 hr
    rcases (hmem r).1 h1 with rfl | ⟨h1, _⟩
    · exact ⟨q, Engine.mem_unlisted.2 ⟨hqm, hp, h3⟩, rfl⟩
    · exact ⟨r, Engine.mem_unlisted.2 ⟨h1, h2, h3⟩, rfl⟩
  refine ⟨putRecord_keys h.keys, h.short, h.once, ?_, h.ordered, ?_, ?_⟩
  · intro y hy
    by_cases e : y = q.id
    · exact ⟨_, (hmem _).2 (.inl rfl), e.symm, rfl⟩
    · obtain ⟨r, hr, h1, h2⟩ := h.pending y hy
      exact ⟨r, (hmem r).2 (.inr ⟨hr, by rw [h1]; exact e⟩), h1, h2⟩
  · intro ho
    obtain ⟨r, hr⟩ := List.exists_mem_of_ne_nil _ (by simpa [Engine.overflow] using ho)
    obtain ⟨r', hr', _⟩ := hun r hr
    exact h.full (by simpa [Engine.overflow] using List.ne_nil_of_mem hr')
  · intro r hr y hy
    obtain ⟨r', hr', he⟩ := hun r hr
    rw [← he]; exact h.lowest r' hr' y hy

/-- Dropping a NOTED warning, which is never listed, leaves the laws kept. -/
theorem drop_noted_law {g : Engine} (h : AttentionLaw g) {id : WarnId} {q : WarnRecord} (hq : g.find id = some q)
    (hn : q.state = .noted) : AttentionLaw (g.drop id) := by
  have hl : g.listed id = false := by
    by_contra hl
    obtain ⟨r, hr, hp⟩ := h.find_listed (id := id) (by simpa [Engine.listed] using hl)
    rw [hq] at hr; cases hr; rw [hn] at hp; cases hp
  have : (g.drop id).leave id = g.drop id := by
    have hl' : (g.drop id).listed id = false := hl
    unfold Engine.leave; rw [hl']; rfl
  rw [← this]; exact drop_leave_law h id

theorem clear_law {g : Engine} (h : AttentionLaw g) (t : PendingType) (id : WarnId) : AttentionLaw (g.clear t id) := by
  unfold Engine.clear
  split
  · rename_i a st hq
    obtain ⟨_, rfl⟩ := Engine.find_some hq
    split
    · exact drop_leave_law h _
    · exact put_standing_law h hq rfl _
  · rename_i hq
    exact drop_noted_law h hq rfl
  · exact h
  · exact h

theorem acknowledge_law {g : Engine} (h : AttentionLaw g) {r : WarnRecord} (hr : r.state ≠ .noted) : AttentionLaw (g.acknowledge r) := by
  obtain ⟨id, st, x⟩ := r
  cases st with
  | raised => exact put_noted_leave_law h id x
  | noted => exact absurd rfl hr
  | standing => exact drop_leave_law h id

theorem quietAll_law {g : Engine} (h : AttentionLaw g) (sel : WarnRecord → Bool) : AttentionLaw (g.quietAll sel) := by
  have hkept : ∀ id, id ∈ g.attention.filter (fun id => !((g.warnings.filter sel).map (·.id)).contains id) ↔
      id ∈ g.attention ∧ ∀ r ∈ g.warnings, sel r = true → r.id ≠ id := by
    intro id; simp [List.mem_filter]
  have hun : ∀ r, r ∈ ({ g with
      warnings := g.warnings.filter fun r => !sel r
      attention := g.attention.filter fun id => !((g.warnings.filter sel).map (·.id)).contains id } : Engine).unlisted →
      r ∈ g.unlisted := by
    intro r hr
    obtain ⟨h1, h2, h3⟩ := Engine.mem_unlisted.1 hr
    obtain ⟨h1, hs⟩ := List.mem_filter.1 h1
    refine Engine.mem_unlisted.2 ⟨h1, h2, fun hm => h3 ((hkept r.id).2 ⟨hm, fun q hq hsq e => ?_⟩)⟩
    have h5 := find_of_mem h.keys hq
    have h6 := find_of_mem h.keys h1
    rw [e, h6] at h5; cases h5
    simp [hsq] at hs
  have hle : (g.attention.filter fun id => !((g.warnings.filter sel).map (·.id)).contains id).length ≤ g.attention.length :=
    List.length_filter_le _ _
  unfold Engine.quietAll
  refine readmitMany_law ⟨filter_keys _ h.keys, le_trans hle h.short, h.once.filter _, ?_, h.ordered.sublist (List.filter_sublist.map _),
    ?_⟩ ?_
  · intro id hid
    obtain ⟨h1, h2⟩ := (hkept id).1 hid
    obtain ⟨r, hr, rfl, hp⟩ := h.pending id h1
    refine ⟨r, List.mem_filter.2 ⟨hr, ?_⟩, rfl, hp⟩
    cases hs : sel r with
    | false => rfl
    | true => exact absurd rfl (h2 r hr hs)
  · intro r hr id hid
    exact h.lowest r (hun r hr) id ((hkept id).1 hid).1
  · intro ho
    simp only [Engine.overflow, Bool.not_eq_true', List.isEmpty_eq_false_iff] at ho
    obtain ⟨r, hr⟩ := List.exists_mem_of_ne_nil _ ho
    have := h.full (by simpa [Engine.overflow] using List.ne_nil_of_mem (hun r hr))
    simp only at hle ⊢
    omega

theorem acknowledgedRecord_id {r q : WarnRecord} (h : acknowledgedRecord r = some q) : q.id = r.id ∧ q.state = .noted := by
  unfold acknowledgedRecord at h
  split at h
  · cases h; exact ⟨rfl, rfl⟩
  · cases h; exact ⟨rfl, ‹_›⟩
  · cases h

theorem filterMap_keys {f : WarnRecord → Option WarnRecord} (hf : ∀ r q, f r = some q → q.id = r.id) {l : List WarnRecord}
    (hk : (l.map fun r => r.id.key).Pairwise (· < ·)) : ((l.filterMap f).map fun r => r.id.key).Pairwise (· < ·) := by
  induction l with
  | nil => simp
  | cons y ys ih =>
    simp only [List.map_cons, List.pairwise_cons, List.mem_map, forall_exists_index, and_imp, forall_apply_eq_imp_iff₂] at hk
    rw [List.filterMap_cons]
    split
    · exact ih hk.2
    · rename_i q hq
      rw [List.map_cons, List.pairwise_cons]
      refine ⟨?_, ih hk.2⟩
      intro k hkk
      rcases List.mem_map.1 hkk with ⟨z, hz, rfl⟩
      obtain ⟨w, hw, hz⟩ := List.mem_filterMap.1 hz
      rw [hf _ _ hq, hf _ _ hz]; exact hk.1 w hw

theorem acknowledgeListed_law {g : Engine} (h : AttentionLaw g) : AttentionLaw g.acknowledgeListed := by
  unfold Engine.acknowledgeListed
  refine readmitMany_law ⟨?_, by simp, List.nodup_nil, by simp, by simp, by simp⟩ ?_
  · refine filterMap_keys ?_ h.keys
    intro r q hq
    split at hq
    · exact (acknowledgedRecord_id hq).1
    · cases hq; rfl
  · intro ho
    obtain ⟨r, hr⟩ := List.exists_mem_of_ne_nil _ (by simpa [Engine.overflow] using ho)
    obtain ⟨h1, h2, _⟩ := Engine.mem_unlisted.1 hr
    obtain ⟨q, hq, hqr⟩ := List.mem_filterMap.1 h1
    have : q ∈ g.unlisted := by
      split at hqr
      · rw [(acknowledgedRecord_id hqr).2] at h2; cases h2
      · rename_i hl; cases hqr
        exact Engine.mem_unlisted.2 ⟨hq, h2, by simpa [Engine.listed] using hl⟩
    have := h.full (by simpa [Engine.overflow] using List.ne_nil_of_mem this)
    simp only [List.length_nil]; omega

theorem takeReport_law {s : State} (h : AttentionLaw s.engine) (id : WarnId) (v : Bool) : AttentionLaw (s.takeReport id v).engine := by
  unfold State.takeReport
  split
  · cases v
    · exact clear_law h _ _
    · exact raise_law h _
  · exact h

theorem applyAct_law {s : State} (h : AttentionLaw s.engine) (a : Act) : AttentionLaw (applyAct s a).engine := by
  cases a with
  | report id v => exact takeReport_law h id v
  | both id₁ v₁ id₂ v₂ =>
    have h' : AttentionLaw ({ s with choice := s.choice + 1 } : State).engine := h
    unfold applyAct; simp only; split
    · exact takeReport_law (takeReport_law h' _ _) _ _
    · exact takeReport_law (takeReport_law h' _ _) _ _
  | quietCells n => exact quietAll_law h _
  | quietEntry n => exact quietAll_law h _
  | quietSitting => exact quietAll_law h _

theorem foldl_applyAct_law (l : List Act) {s : State} (h : AttentionLaw s.engine) : AttentionLaw (l.foldl applyAct s).engine := by
  induction l generalizing s with
  | nil => exact h
  | cons a l ih => exact ih (applyAct_law h a)

/-- Taking what is posted keeps the laws of the engine. -/
theorem takeReports_law {s : State} (h : AttentionLaw s.engine) : AttentionLaw s.takeReports.engine :=
  foldl_applyAct_law _ (s := { s with
    engine := { s.engine with posted := [] }, choice := s.choice + s.engine.posted.length })
    ⟨h.keys, h.short, h.once, h.pending, h.ordered, h.full, h.lowest⟩

end Sys2Proof.Machine
end

