-- ==== Sys2Proof/Laws/Exec.lean ====
section
/-! SUPPORT. Laws/Exec.lean: each row's meaning, as the event or the command it is: one lemma a row, true by unfolding. -/

namespace Sys2Proof.Machine

theorem exec_deviceReset (s : State) : exec .deviceReset s =
    .next (deviceReset s) := rfl

theorem exec_resetEnd (s : State) : exec .resetEnd s =
    .next (if s.inReset then endReset s else s) := rfl

theorem exec_frameComplete (p : Fin 4) (b : Byte) (s : State) : exec (.frameComplete p b) s =
    occur s.ports[p].tenthDue (fun s => judgeFrame p (s.ports[p].frame ++ [b]) s) s := rfl

theorem exec_stopBitMissing (p : Fin 4) (s : State) : exec (.stopBitMissing p) s =
    occur s.ports[p].stopBitDue (fun s => s.setPort p s.ports[p].goneWrong) s := rfl

theorem exec_byteGapTimeout (p : Fin 4) (s : State) : exec (.byteGapTimeout p) s =
    occur s.ports[p].gapDue (fun s => s.setPort p s.ports[p].goneWrong) s := rfl

theorem exec_frameGapReject (p : Fin 4) (s : State) : exec (.frameGapReject p) s =
    occur s.ports[p].rejectDue (fun s => s.setPort p (s.ports[p].answering .reject)) s := rfl

theorem exec_answerSent (p : Fin 4) (s : State) : exec (.answerSent p) s =
    occur s.ports[p].answer.isSome (fun s => s.setPort p s.ports[p].answered) s := rfl

theorem exec_resyncIdle (p : Fin 4) (s : State) : exec (.resyncIdle p) s =
    occur s.ports[p].resyncDue (fun s => s.setPort p { s.ports[p] with rx := .listening }) s := rfl

theorem exec_warmUpEnd (p : Fin 4) (s : State) : exec (.warmUpEnd p) s =
    occur (s.running && s.ports[p].warmUpDue) (endWarmUp p) s := rfl

theorem exec_portSilenceExpiry (p : Fin 4) (s : State) : exec (.portSilenceExpiry p) s =
    occur (s.running && s.ports[p].silenceDue s.tuning.silenceTime) (portFallsSilent p) s := rfl

theorem exec_frameTake (s : State) : exec .frameTake s =
    occur s.frameOffered takeFrame s := rfl

theorem exec_strangerAgeExpiry (i : Fin 8) (s : State) : exec (.strangerAgeExpiry i) s =
    occur (s.running && strangerDue s.combiner.strangers[i]) (fun s => s.strangersBecome (setAt s.combiner.strangers i none)) s := rfl

theorem exec_poolWindowExpiry (i : Fin 12) (s : State) : exec (.poolWindowExpiry i) s =
    occur (s.running && windowDue s.combiner.pool[i]) (closeAt i) s := rfl

theorem exec_entryFading (n : Fin 200) (s : State) : exec (.entryFading n) s =
    occur (s.running && s.fadingDueAt n) (fadeEntry n) s := rfl

theorem exec_entryLost (n : Fin 200) (s : State) : exec (.entryLost n) s =
    occur (s.running && s.lostDueAt n) (loseEntry n) s := rfl

theorem exec_sweepVisit (s : State) : exec .sweepVisit s =
    occur (s.running && s.sweepDue && s.sweep.isSome) sweepStep s := rfl

theorem exec_silentExpiry (k : Fin 6) (s : State) : exec (.silentExpiry k) s =
    occur (s.running && silentDue s.floor.live[k]) (silentExpires k) s := rfl

theorem exec_hotDelayReached (n : Fin 200) (s : State) : exec (.hotDelayReached n) s =
    occur (s.running && hotDue s.tuning.hotDelay s.roster[n]) (hotReached n) s := rfl

theorem exec_silenceInputChange (high : Bool) (s : State) : exec (.silenceInputChange high) s =
    .next (if s.running then { s with floor := s.floor.withPin high } else { s with floor := { s.floor with pinHigh := high } }) := rfl

theorem exec_silenceDebounceExpiry (s : State) : exec .silenceDebounceExpiry s =
    occur (s.running && s.floor.debounceDue) debounceExpires s := rfl

theorem exec_blinkBoundary (s : State) : exec .blinkBoundary s =
    occur (s.running && s.lines.boundaryDue) blinkBoundary s := rfl

theorem exec_holdExpiry (m : Fin 16) (s : State) : exec (.holdExpiry m) s =
    occur (s.running && s.lines.line[m].holdDue) (fun s => s.setLine m { s.lines.line[m] with active := false }) s := rfl

theorem exec_senseInputChange (m : Fin 16) (high : Bool) (s : State) : exec (.senseInputChange m high) s =
    .next (let s := s.setLine m (s.lines.line[m].withSense high)
      s.setLine m (s.restSense s.lines.line[m])) := rfl

theorem exec_lampFaultDetected (m : Fin 16) (s : State) : exec (.lampFaultDetected m) s =
    occur (s.running && s.lines.line[m].faultDue) (lineFault m true) s := rfl

theorem exec_lampFaultCleared (m : Fin 16) (s : State) : exec (.lampFaultCleared m) s =
    occur (s.running && s.lines.line[m].soundDue) (lineFault m false) s := rfl

theorem exec_csNFall (s : State) : exec .csNFall s =
    .next (if s.command.csLow then s
      else if s.inReset then { s with command := { s.command with csLow := true } }
      else { s with command := s.command.selected }) := rfl

theorem exec_csNRise (s : State) : exec .csNRise s =
    .next (if s.inReset then { s with command := { s.command with csLow := false } }
      else if s.command.csLow then { s with command := s.command.released } else s) := rfl

theorem exec_waitingCommandStart (s : State) : exec .waitingCommandStart s =
    .next (if s.inReset || !s.command.handOverDue then s else { s with command := s.command.handOver }) := rfl

theorem exec_commandRefusedBusy (b : Byte) (s : State) : exec (.commandRefusedBusy b) s =
    .next (if s.inReset || !s.command.busyDue b then s else { s with command := s.command.byte b }) := rfl

theorem exec_enrol (unit : UnitId) (seat group profile : Byte) (s : State) : exec (.enrol unit seat group profile) s =
    runCommand (.enrol unit seat group profile) (enrolBody unit seat group profile) s := rfl

theorem exec_enrolStranger (position seat group profile : Byte) (s : State) : exec (.enrolStranger position seat group profile) s =
    runCommand (.enrolStranger position seat group profile) (enrolStrangerBody position seat group profile) s := rfl

theorem exec_retire (entry : Byte) (s : State) : exec (.retire entry) s =
    runCommand (.retire entry) (fun s => onEntry entry 0 (fun n _ => .acted (retireEntry n s) (okReply [])) s) s := rfl

theorem exec_findUnit (unit : UnitId) (s : State) : exec (.findUnit unit) s =
    runCommand (.findUnit unit) (fun s => found s (s.entryOfUnit unit)) s := rfl

theorem exec_findSeat (seat : Byte) (s : State) : exec (.findSeat seat) s =
    runCommand (.findSeat seat) (findSeatBody seat) s := rfl

theorem exec_readEntry (entry : Byte) (s : State) : exec (.readEntry entry) s =
    runCommand (.readEntry entry) (fun s => onEntry entry 57 (fun n e => .answered s (okReply (s.entryRecord n e))) s) s := rfl

theorem exec_amendEntry (entry seat group profile : Byte) (s : State) : exec (.amendEntry entry seat group profile) s =
    runCommand (.amendEntry entry seat group profile) (amendEntryBody entry seat group profile) s := rfl

theorem exec_grantFloor (entry : Byte) (s : State) : exec (.grantFloor entry) s =
    runCommand (.grantFloor entry) (fun s => onEntry entry 1 (fun n _ => grantBody n s) s) s := rfl

theorem exec_revokeFloor (entry : Byte) (s : State) : exec (.revokeFloor entry) s =
    runCommand (.revokeFloor entry) (fun s => onEntry entry 0 (fun n _ => revokeBody n s) s) s := rfl

theorem exec_setFloorCapacity (capacity : Byte) (s : State) : exec (.setFloorCapacity capacity) s =
    runCommand (.setFloorCapacity capacity) (setFloorCapacityBody capacity) s := rfl

theorem exec_mute (entry : Byte) (s : State) : exec (.mute entry) s =
    runCommand (.mute entry) (fun s => onEntry entry 0 (fun n _ => muteBody true n s) s) s := rfl

theorem exec_unmute (entry : Byte) (s : State) : exec (.unmute entry) s =
    runCommand (.unmute entry) (fun s => onEntry entry 0 (fun n _ => muteBody false n s) s) s := rfl

theorem exec_muteAll (s : State) : exec .muteAll s =
    runCommand .muteAll (fun s => .acted (setAllMuted true s) (okReply [])) s := rfl

theorem exec_unmuteAll (s : State) : exec .unmuteAll s =
    runCommand .unmuteAll (fun s => .acted (setAllMuted false s) (okReply [])) s := rfl

theorem exec_setChair (entry : Byte) (s : State) : exec (.setChair entry) s =
    runCommand (.setChair entry) (setChairBody entry) s := rfl

theorem exec_readAttention (position : Byte) (s : State) : exec (.readAttention position) s =
    runCommand (.readAttention position) (readAttentionBody position) s := rfl

theorem exec_acknowledge (kind index cls : Byte) (stamp : Stamp) (s : State) : exec (.acknowledge kind index cls stamp) s =
    runCommand (.acknowledge kind index cls stamp) (acknowledgeBody kind index cls stamp) s := rfl

theorem exec_ackListed (s : State) : exec .ackListed s =
    runCommand .ackListed ackListedBody s := rfl

theorem exec_readStrangers (s : State) : exec .readStrangers s =
    runCommand .readStrangers (fun s => .answered s (okReply s.strangersRecord)) s := rfl

theorem exec_readPort (port : Byte) (s : State) : exec (.readPort port) s =
    runCommand (.readPort port) (readPortBody port) s := rfl

theorem exec_enablePortOn (port : Byte) (s : State) : exec (.enablePortOn port) s =
    runCommand (.enablePortOn port) (enablePortOnBody port) s := rfl

theorem exec_enablePortOff (port value : Byte) (s : State) : exec (.enablePortOff port value) s =
    runCommand (.enablePortOff port value) (enablePortOffBody port value) s := rfl

theorem exec_setProfile (profile : Byte) (fields : RawProfile) (s : State) : exec (.setProfile profile fields) s =
    runCommand (.setProfile profile fields) (setProfileBody profile fields) s := rfl

theorem exec_readProfile (profile : Byte) (s : State) : exec (.readProfile profile) s =
    runCommand (.readProfile profile) (readProfileBody profile) s := rfl

theorem exec_setPortSilenceTime (v : BitVec 32) (s : State) : exec (.setPortSilenceTime v) s =
    runCommand (.setPortSilenceTime v) (setPortSilenceTimeBody v) s := rfl

theorem exec_setCombiningWindow (v : BitVec 32) (s : State) : exec (.setCombiningWindow v) s =
    runCommand (.setCombiningWindow v) (setCombiningWindowBody v) s := rfl

theorem exec_setLostTime (v : BitVec 32) (s : State) : exec (.setLostTime v) s =
    runCommand (.setLostTime v) (setLostTimeBody v) s := rfl

theorem exec_setSignalFloor (v : BitVec 32) (s : State) : exec (.setSignalFloor v) s =
    runCommand (.setSignalFloor v) (setSignalFloorBody v) s := rfl

theorem exec_setSmoothingShift (v : BitVec 32) (s : State) : exec (.setSmoothingShift v) s =
    runCommand (.setSmoothingShift v) (setSmoothingShiftBody v) s := rfl

theorem exec_setWeakThreshold (v : BitVec 32) (s : State) : exec (.setWeakThreshold v) s =
    runCommand (.setWeakThreshold v) (setWeakThresholdBody v) s := rfl

theorem exec_setPoorThreshold (v : BitVec 32) (s : State) : exec (.setPoorThreshold v) s =
    runCommand (.setPoorThreshold v) (setPoorThresholdBody v) s := rfl

theorem exec_setSilentTime (v : BitVec 32) (s : State) : exec (.setSilentTime v) s =
    runCommand (.setSilentTime v) (setSilentTimeBody v) s := rfl

theorem exec_setAutoRevoke (v : BitVec 32) (s : State) : exec (.setAutoRevoke v) s =
    runCommand (.setAutoRevoke v) (setAutoRevokeBody v) s := rfl

theorem exec_setHotDelay (v : BitVec 32) (s : State) : exec (.setHotDelay v) s =
    runCommand (.setHotDelay v) (setHotDelayBody v) s := rfl

theorem exec_setPriorityFunction (v : BitVec 32) (s : State) : exec (.setPriorityFunction v) s =
    runCommand (.setPriorityFunction v) (setPriorityFunctionBody v) s := rfl

theorem exec_setPendingType (item : Byte) (v : BitVec 32) (s : State) : exec (.setPendingType item v) s =
    runCommand (.setPendingType item v) (setPendingTypeBody item v) s := rfl

theorem exec_setIrqMask (v : BitVec 32) (s : State) : exec (.setIrqMask v) s =
    runCommand (.setIrqMask v) (setIrqMaskBody v) s := rfl

theorem exec_readTuning (item : Byte) (s : State) : exec (.readTuning item) s =
    runCommand (.readTuning item) (readTuningBody item) s := rfl

theorem exec_stageLine (line : Byte) (config : RawLineConfig) (s : State) : exec (.stageLine line config) s =
    runCommand (.stageLine line config) (stageLineBody line config) s := rfl

theorem exec_applyLines (s : State) : exec .applyLines s =
    runCommand .applyLines (fun s => .answered { s with lines := { s.lines with commitPending := true } } (okReply [])) s := rfl

theorem exec_readLine (line : Byte) (s : State) : exec (.readLine line) s =
    runCommand (.readLine line) (readLineBody line) s := rfl

theorem exec_setModeRecess (value : Byte) (s : State) : exec (.setModeRecess value) s =
    runCommand (.setModeRecess value) (setModeRecessBody value) s := rfl

theorem exec_setModeSession (s : State) : exec .setModeSession s =
    runCommand .setModeSession setModeSessionBody s := rfl

theorem exec_setModeDormant (s : State) : exec .setModeDormant s =
    runDormantCommand .setModeDormant setModeDormantBody s := rfl

theorem exec_readStatus (s : State) : exec .readStatus s =
    runCommand .readStatus (fun s => .answered s (okReply s.statusRecord)) s := rfl

theorem exec_chamberReset (s : State) : exec .chamberReset s =
    runCommand .chamberReset (fun s => .acted (chamberResetAll s) (okReply [])) s := rfl

theorem exec_unknownCommand (code : Byte) (s : State) : exec (.unknownCommand code) s =
    runCommand (.unknownCommand code) (fun s => .answered s ⟨.unknownCommand, []⟩) s := rfl

theorem exec_characterComplete (p : Fin 4) (b : Byte) (s : State) : exec (.characterComplete p b) s =
    occur s.ports[p].characterDue (fun s => s.setPort p (s.ports[p].character b)) s := rfl

theorem exec_byteComplete (b : Byte) (s : State) : exec (.byteComplete b) s =
    .next (if s.inReset || !s.command.csLow then s else { s with command := s.command.byte b }) := rfl

end Sys2Proof.Machine
end

