-- ==== Sys2Proof/Laws/State.lean ====
section
/-! SUPPORT. Laws/State.lean: what each named update of State leaves in each field. -/

namespace Sys2Proof.Machine

variable (s : State)

/-! ### setPort -/

@[simp] theorem State.setPort_inReset (p : Fin 4) (x : AntennaPort) : (s.setPort p x).inReset = s.inReset := rfl
@[simp] theorem State.setPort_mode (p : Fin 4) (x : AntennaPort) : (s.setPort p x).mode = s.mode := rfl
@[simp] theorem State.setPort_clockRunning (p : Fin 4) (x : AntennaPort) : (s.setPort p x).clockRunning = s.clockRunning := rfl
@[simp] theorem State.setPort_ports (p : Fin 4) (x : AntennaPort) : (s.setPort p x).ports = setAt s.ports p x := rfl
@[simp] theorem State.setPort_combiner (p : Fin 4) (x : AntennaPort) : (s.setPort p x).combiner = s.combiner := rfl
@[simp] theorem State.setPort_roster (p : Fin 4) (x : AntennaPort) : (s.setPort p x).roster = s.roster := rfl
@[simp] theorem State.setPort_profiles (p : Fin 4) (x : AntennaPort) : (s.setPort p x).profiles = s.profiles := rfl
@[simp] theorem State.setPort_sweep (p : Fin 4) (x : AntennaPort) : (s.setPort p x).sweep = s.sweep := rfl
@[simp] theorem State.setPort_sweepDue (p : Fin 4) (x : AntennaPort) : (s.setPort p x).sweepDue = s.sweepDue := rfl
@[simp] theorem State.setPort_floor (p : Fin 4) (x : AntennaPort) : (s.setPort p x).floor = s.floor := rfl
@[simp] theorem State.setPort_engine (p : Fin 4) (x : AntennaPort) : (s.setPort p x).engine = s.engine := rfl
@[simp] theorem State.setPort_lines (p : Fin 4) (x : AntennaPort) : (s.setPort p x).lines = s.lines := rfl
@[simp] theorem State.setPort_tuning (p : Fin 4) (x : AntennaPort) : (s.setPort p x).tuning = s.tuning := rfl
@[simp] theorem State.setPort_command (p : Fin 4) (x : AntennaPort) : (s.setPort p x).command = s.command := rfl
@[simp] theorem State.setPort_choice (p : Fin 4) (x : AntennaPort) : (s.setPort p x).choice = s.choice := rfl
@[simp] theorem State.setPort_pending (p : Fin 4) (x : AntennaPort) : (s.setPort p x).pending = s.pending := rfl

/-! ### setSlot -/

@[simp] theorem State.setSlot_inReset (n : Fin 200) (e : Option Entry) : (s.setSlot n e).inReset = s.inReset := rfl
@[simp] theorem State.setSlot_mode (n : Fin 200) (e : Option Entry) : (s.setSlot n e).mode = s.mode := rfl
@[simp] theorem State.setSlot_clockRunning (n : Fin 200) (e : Option Entry) : (s.setSlot n e).clockRunning = s.clockRunning := rfl
@[simp] theorem State.setSlot_ports (n : Fin 200) (e : Option Entry) : (s.setSlot n e).ports = s.ports := rfl
@[simp] theorem State.setSlot_combiner (n : Fin 200) (e : Option Entry) : (s.setSlot n e).combiner = s.combiner := rfl
@[simp] theorem State.setSlot_roster (n : Fin 200) (e : Option Entry) : (s.setSlot n e).roster = setAt s.roster n e := rfl
@[simp] theorem State.setSlot_profiles (n : Fin 200) (e : Option Entry) : (s.setSlot n e).profiles = s.profiles := rfl
@[simp] theorem State.setSlot_sweep (n : Fin 200) (e : Option Entry) : (s.setSlot n e).sweep = s.sweep := rfl
@[simp] theorem State.setSlot_sweepDue (n : Fin 200) (e : Option Entry) : (s.setSlot n e).sweepDue = s.sweepDue := rfl
@[simp] theorem State.setSlot_floor (n : Fin 200) (e : Option Entry) : (s.setSlot n e).floor = s.floor := rfl
@[simp] theorem State.setSlot_engine (n : Fin 200) (e : Option Entry) : (s.setSlot n e).engine = s.engine := rfl
@[simp] theorem State.setSlot_lines (n : Fin 200) (e : Option Entry) : (s.setSlot n e).lines = s.lines := rfl
@[simp] theorem State.setSlot_tuning (n : Fin 200) (e : Option Entry) : (s.setSlot n e).tuning = s.tuning := rfl
@[simp] theorem State.setSlot_command (n : Fin 200) (e : Option Entry) : (s.setSlot n e).command = s.command := rfl
@[simp] theorem State.setSlot_choice (n : Fin 200) (e : Option Entry) : (s.setSlot n e).choice = s.choice := rfl
@[simp] theorem State.setSlot_pending (n : Fin 200) (e : Option Entry) : (s.setSlot n e).pending = s.pending := rfl

/-! ### setPool -/

@[simp] theorem State.setPool_inReset (i : Fin 12) (e : Option PoolEntry) : (s.setPool i e).inReset = s.inReset := rfl
@[simp] theorem State.setPool_mode (i : Fin 12) (e : Option PoolEntry) : (s.setPool i e).mode = s.mode := rfl
@[simp] theorem State.setPool_clockRunning (i : Fin 12) (e : Option PoolEntry) : (s.setPool i e).clockRunning = s.clockRunning := rfl
@[simp] theorem State.setPool_ports (i : Fin 12) (e : Option PoolEntry) : (s.setPool i e).ports = s.ports := rfl
@[simp] theorem State.setPool_combiner (i : Fin 12) (e : Option PoolEntry) : (s.setPool i e).combiner = { s.combiner with pool := setAt s.combiner.pool i e } := rfl
@[simp] theorem State.setPool_roster (i : Fin 12) (e : Option PoolEntry) : (s.setPool i e).roster = s.roster := rfl
@[simp] theorem State.setPool_profiles (i : Fin 12) (e : Option PoolEntry) : (s.setPool i e).profiles = s.profiles := rfl
@[simp] theorem State.setPool_sweep (i : Fin 12) (e : Option PoolEntry) : (s.setPool i e).sweep = s.sweep := rfl
@[simp] theorem State.setPool_sweepDue (i : Fin 12) (e : Option PoolEntry) : (s.setPool i e).sweepDue = s.sweepDue := rfl
@[simp] theorem State.setPool_floor (i : Fin 12) (e : Option PoolEntry) : (s.setPool i e).floor = s.floor := rfl
@[simp] theorem State.setPool_engine (i : Fin 12) (e : Option PoolEntry) : (s.setPool i e).engine = s.engine := rfl
@[simp] theorem State.setPool_lines (i : Fin 12) (e : Option PoolEntry) : (s.setPool i e).lines = s.lines := rfl
@[simp] theorem State.setPool_tuning (i : Fin 12) (e : Option PoolEntry) : (s.setPool i e).tuning = s.tuning := rfl
@[simp] theorem State.setPool_command (i : Fin 12) (e : Option PoolEntry) : (s.setPool i e).command = s.command := rfl
@[simp] theorem State.setPool_choice (i : Fin 12) (e : Option PoolEntry) : (s.setPool i e).choice = s.choice := rfl
@[simp] theorem State.setPool_pending (i : Fin 12) (e : Option PoolEntry) : (s.setPool i e).pending = s.pending := rfl

/-! ### setStranger -/

@[simp] theorem State.setStranger_inReset (i : Fin 8) (r : Option Stranger) : (s.setStranger i r).inReset = s.inReset := rfl
@[simp] theorem State.setStranger_mode (i : Fin 8) (r : Option Stranger) : (s.setStranger i r).mode = s.mode := rfl
@[simp] theorem State.setStranger_clockRunning (i : Fin 8) (r : Option Stranger) : (s.setStranger i r).clockRunning = s.clockRunning := rfl
@[simp] theorem State.setStranger_ports (i : Fin 8) (r : Option Stranger) : (s.setStranger i r).ports = s.ports := rfl
@[simp] theorem State.setStranger_combiner (i : Fin 8) (r : Option Stranger) : (s.setStranger i r).combiner = { s.combiner with strangers := setAt s.combiner.strangers i r } := rfl
@[simp] theorem State.setStranger_roster (i : Fin 8) (r : Option Stranger) : (s.setStranger i r).roster = s.roster := rfl
@[simp] theorem State.setStranger_profiles (i : Fin 8) (r : Option Stranger) : (s.setStranger i r).profiles = s.profiles := rfl
@[simp] theorem State.setStranger_sweep (i : Fin 8) (r : Option Stranger) : (s.setStranger i r).sweep = s.sweep := rfl
@[simp] theorem State.setStranger_sweepDue (i : Fin 8) (r : Option Stranger) : (s.setStranger i r).sweepDue = s.sweepDue := rfl
@[simp] theorem State.setStranger_floor (i : Fin 8) (r : Option Stranger) : (s.setStranger i r).floor = s.floor := rfl
@[simp] theorem State.setStranger_engine (i : Fin 8) (r : Option Stranger) : (s.setStranger i r).engine = s.engine := rfl
@[simp] theorem State.setStranger_lines (i : Fin 8) (r : Option Stranger) : (s.setStranger i r).lines = s.lines := rfl
@[simp] theorem State.setStranger_tuning (i : Fin 8) (r : Option Stranger) : (s.setStranger i r).tuning = s.tuning := rfl
@[simp] theorem State.setStranger_command (i : Fin 8) (r : Option Stranger) : (s.setStranger i r).command = s.command := rfl
@[simp] theorem State.setStranger_choice (i : Fin 8) (r : Option Stranger) : (s.setStranger i r).choice = s.choice := rfl
@[simp] theorem State.setStranger_pending (i : Fin 8) (r : Option Stranger) : (s.setStranger i r).pending = s.pending := rfl

/-! ### setLive -/

@[simp] theorem State.setLive_inReset (k : Fin 6) (x : Option LiveSlot) : (s.setLive k x).inReset = s.inReset := rfl
@[simp] theorem State.setLive_mode (k : Fin 6) (x : Option LiveSlot) : (s.setLive k x).mode = s.mode := rfl
@[simp] theorem State.setLive_clockRunning (k : Fin 6) (x : Option LiveSlot) : (s.setLive k x).clockRunning = s.clockRunning := rfl
@[simp] theorem State.setLive_ports (k : Fin 6) (x : Option LiveSlot) : (s.setLive k x).ports = s.ports := rfl
@[simp] theorem State.setLive_combiner (k : Fin 6) (x : Option LiveSlot) : (s.setLive k x).combiner = s.combiner := rfl
@[simp] theorem State.setLive_roster (k : Fin 6) (x : Option LiveSlot) : (s.setLive k x).roster = s.roster := rfl
@[simp] theorem State.setLive_profiles (k : Fin 6) (x : Option LiveSlot) : (s.setLive k x).profiles = s.profiles := rfl
@[simp] theorem State.setLive_sweep (k : Fin 6) (x : Option LiveSlot) : (s.setLive k x).sweep = s.sweep := rfl
@[simp] theorem State.setLive_sweepDue (k : Fin 6) (x : Option LiveSlot) : (s.setLive k x).sweepDue = s.sweepDue := rfl
@[simp] theorem State.setLive_floor (k : Fin 6) (x : Option LiveSlot) : (s.setLive k x).floor = { s.floor with live := setAt s.floor.live k x } := rfl
@[simp] theorem State.setLive_engine (k : Fin 6) (x : Option LiveSlot) : (s.setLive k x).engine = s.engine := rfl
@[simp] theorem State.setLive_lines (k : Fin 6) (x : Option LiveSlot) : (s.setLive k x).lines = s.lines := rfl
@[simp] theorem State.setLive_tuning (k : Fin 6) (x : Option LiveSlot) : (s.setLive k x).tuning = s.tuning := rfl
@[simp] theorem State.setLive_command (k : Fin 6) (x : Option LiveSlot) : (s.setLive k x).command = s.command := rfl
@[simp] theorem State.setLive_choice (k : Fin 6) (x : Option LiveSlot) : (s.setLive k x).choice = s.choice := rfl
@[simp] theorem State.setLive_pending (k : Fin 6) (x : Option LiveSlot) : (s.setLive k x).pending = s.pending := rfl

/-! ### setHeld -/

@[simp] theorem State.setHeld_inReset (k : Fin 6) (x : Option (Fin 200)) : (s.setHeld k x).inReset = s.inReset := rfl
@[simp] theorem State.setHeld_mode (k : Fin 6) (x : Option (Fin 200)) : (s.setHeld k x).mode = s.mode := rfl
@[simp] theorem State.setHeld_clockRunning (k : Fin 6) (x : Option (Fin 200)) : (s.setHeld k x).clockRunning = s.clockRunning := rfl
@[simp] theorem State.setHeld_ports (k : Fin 6) (x : Option (Fin 200)) : (s.setHeld k x).ports = s.ports := rfl
@[simp] theorem State.setHeld_combiner (k : Fin 6) (x : Option (Fin 200)) : (s.setHeld k x).combiner = s.combiner := rfl
@[simp] theorem State.setHeld_roster (k : Fin 6) (x : Option (Fin 200)) : (s.setHeld k x).roster = s.roster := rfl
@[simp] theorem State.setHeld_profiles (k : Fin 6) (x : Option (Fin 200)) : (s.setHeld k x).profiles = s.profiles := rfl
@[simp] theorem State.setHeld_sweep (k : Fin 6) (x : Option (Fin 200)) : (s.setHeld k x).sweep = s.sweep := rfl
@[simp] theorem State.setHeld_sweepDue (k : Fin 6) (x : Option (Fin 200)) : (s.setHeld k x).sweepDue = s.sweepDue := rfl
@[simp] theorem State.setHeld_floor (k : Fin 6) (x : Option (Fin 200)) : (s.setHeld k x).floor = { s.floor with held := setAt s.floor.held k x } := rfl
@[simp] theorem State.setHeld_engine (k : Fin 6) (x : Option (Fin 200)) : (s.setHeld k x).engine = s.engine := rfl
@[simp] theorem State.setHeld_lines (k : Fin 6) (x : Option (Fin 200)) : (s.setHeld k x).lines = s.lines := rfl
@[simp] theorem State.setHeld_tuning (k : Fin 6) (x : Option (Fin 200)) : (s.setHeld k x).tuning = s.tuning := rfl
@[simp] theorem State.setHeld_command (k : Fin 6) (x : Option (Fin 200)) : (s.setHeld k x).command = s.command := rfl
@[simp] theorem State.setHeld_choice (k : Fin 6) (x : Option (Fin 200)) : (s.setHeld k x).choice = s.choice := rfl
@[simp] theorem State.setHeld_pending (k : Fin 6) (x : Option (Fin 200)) : (s.setHeld k x).pending = s.pending := rfl

/-! ### setCause -/

@[simp] theorem State.setCause_inReset (c : Cause) : (s.setCause c).inReset = s.inReset := rfl
@[simp] theorem State.setCause_mode (c : Cause) : (s.setCause c).mode = s.mode := rfl
@[simp] theorem State.setCause_clockRunning (c : Cause) : (s.setCause c).clockRunning = s.clockRunning := rfl
@[simp] theorem State.setCause_ports (c : Cause) : (s.setCause c).ports = s.ports := rfl
@[simp] theorem State.setCause_combiner (c : Cause) : (s.setCause c).combiner = s.combiner := rfl
@[simp] theorem State.setCause_roster (c : Cause) : (s.setCause c).roster = s.roster := rfl
@[simp] theorem State.setCause_profiles (c : Cause) : (s.setCause c).profiles = s.profiles := rfl
@[simp] theorem State.setCause_sweep (c : Cause) : (s.setCause c).sweep = s.sweep := rfl
@[simp] theorem State.setCause_sweepDue (c : Cause) : (s.setCause c).sweepDue = s.sweepDue := rfl
@[simp] theorem State.setCause_floor (c : Cause) : (s.setCause c).floor = { s.floor with cause := c } := rfl
@[simp] theorem State.setCause_engine (c : Cause) : (s.setCause c).engine = s.engine := rfl
@[simp] theorem State.setCause_lines (c : Cause) : (s.setCause c).lines = s.lines := rfl
@[simp] theorem State.setCause_tuning (c : Cause) : (s.setCause c).tuning = s.tuning := rfl
@[simp] theorem State.setCause_command (c : Cause) : (s.setCause c).command = s.command := rfl
@[simp] theorem State.setCause_choice (c : Cause) : (s.setCause c).choice = s.choice := rfl
@[simp] theorem State.setCause_pending (c : Cause) : (s.setCause c).pending = s.pending := rfl

/-! ### setLine -/

@[simp] theorem State.setLine_inReset (m : Fin 16) (l : Line) : (s.setLine m l).inReset = s.inReset := rfl
@[simp] theorem State.setLine_mode (m : Fin 16) (l : Line) : (s.setLine m l).mode = s.mode := rfl
@[simp] theorem State.setLine_clockRunning (m : Fin 16) (l : Line) : (s.setLine m l).clockRunning = s.clockRunning := rfl
@[simp] theorem State.setLine_ports (m : Fin 16) (l : Line) : (s.setLine m l).ports = s.ports := rfl
@[simp] theorem State.setLine_combiner (m : Fin 16) (l : Line) : (s.setLine m l).combiner = s.combiner := rfl
@[simp] theorem State.setLine_roster (m : Fin 16) (l : Line) : (s.setLine m l).roster = s.roster := rfl
@[simp] theorem State.setLine_profiles (m : Fin 16) (l : Line) : (s.setLine m l).profiles = s.profiles := rfl
@[simp] theorem State.setLine_sweep (m : Fin 16) (l : Line) : (s.setLine m l).sweep = s.sweep := rfl
@[simp] theorem State.setLine_sweepDue (m : Fin 16) (l : Line) : (s.setLine m l).sweepDue = s.sweepDue := rfl
@[simp] theorem State.setLine_floor (m : Fin 16) (l : Line) : (s.setLine m l).floor = s.floor := rfl
@[simp] theorem State.setLine_engine (m : Fin 16) (l : Line) : (s.setLine m l).engine = s.engine := rfl
@[simp] theorem State.setLine_lines (m : Fin 16) (l : Line) : (s.setLine m l).lines = { s.lines with line := setAt s.lines.line m l } := rfl
@[simp] theorem State.setLine_tuning (m : Fin 16) (l : Line) : (s.setLine m l).tuning = s.tuning := rfl
@[simp] theorem State.setLine_command (m : Fin 16) (l : Line) : (s.setLine m l).command = s.command := rfl
@[simp] theorem State.setLine_choice (m : Fin 16) (l : Line) : (s.setLine m l).choice = s.choice := rfl
@[simp] theorem State.setLine_pending (m : Fin 16) (l : Line) : (s.setLine m l).pending = s.pending := rfl

/-! ### post -/

@[simp] theorem State.post_inReset (b : Block) (a : Act) : (s.post b a).inReset = s.inReset := rfl
@[simp] theorem State.post_mode (b : Block) (a : Act) : (s.post b a).mode = s.mode := rfl
@[simp] theorem State.post_clockRunning (b : Block) (a : Act) : (s.post b a).clockRunning = s.clockRunning := rfl
@[simp] theorem State.post_ports (b : Block) (a : Act) : (s.post b a).ports = s.ports := rfl
@[simp] theorem State.post_combiner (b : Block) (a : Act) : (s.post b a).combiner = s.combiner := rfl
@[simp] theorem State.post_roster (b : Block) (a : Act) : (s.post b a).roster = s.roster := rfl
@[simp] theorem State.post_profiles (b : Block) (a : Act) : (s.post b a).profiles = s.profiles := rfl
@[simp] theorem State.post_sweep (b : Block) (a : Act) : (s.post b a).sweep = s.sweep := rfl
@[simp] theorem State.post_sweepDue (b : Block) (a : Act) : (s.post b a).sweepDue = s.sweepDue := rfl
@[simp] theorem State.post_floor (b : Block) (a : Act) : (s.post b a).floor = s.floor := rfl
@[simp] theorem State.post_engine (b : Block) (a : Act) : (s.post b a).engine = { s.engine with posted := s.engine.posted ++ [⟨b, a⟩] } := rfl
@[simp] theorem State.post_lines (b : Block) (a : Act) : (s.post b a).lines = s.lines := rfl
@[simp] theorem State.post_tuning (b : Block) (a : Act) : (s.post b a).tuning = s.tuning := rfl
@[simp] theorem State.post_command (b : Block) (a : Act) : (s.post b a).command = s.command := rfl
@[simp] theorem State.post_choice (b : Block) (a : Act) : (s.post b a).choice = s.choice := rfl
@[simp] theorem State.post_pending (b : Block) (a : Act) : (s.post b a).pending = s.pending := rfl

/-! ### setMode -/

@[simp] theorem State.setMode_inReset (m : Mode) : (s.setMode m).inReset = s.inReset := rfl
@[simp] theorem State.setMode_mode (m : Mode) : (s.setMode m).mode = m := rfl
@[simp] theorem State.setMode_clockRunning (m : Mode) : (s.setMode m).clockRunning = s.clockRunning := rfl
@[simp] theorem State.setMode_ports (m : Mode) : (s.setMode m).ports = s.ports := rfl
@[simp] theorem State.setMode_combiner (m : Mode) : (s.setMode m).combiner = s.combiner := rfl
@[simp] theorem State.setMode_roster (m : Mode) : (s.setMode m).roster = s.roster := rfl
@[simp] theorem State.setMode_profiles (m : Mode) : (s.setMode m).profiles = s.profiles := rfl
@[simp] theorem State.setMode_sweep (m : Mode) : (s.setMode m).sweep = s.sweep := rfl
@[simp] theorem State.setMode_sweepDue (m : Mode) : (s.setMode m).sweepDue = s.sweepDue := rfl
@[simp] theorem State.setMode_floor (m : Mode) : (s.setMode m).floor = s.floor := rfl
@[simp] theorem State.setMode_engine (m : Mode) : (s.setMode m).engine = s.engine := rfl
@[simp] theorem State.setMode_lines (m : Mode) : (s.setMode m).lines = s.lines := rfl
@[simp] theorem State.setMode_tuning (m : Mode) : (s.setMode m).tuning = s.tuning := rfl
@[simp] theorem State.setMode_command (m : Mode) : (s.setMode m).command = s.command := rfl
@[simp] theorem State.setMode_choice (m : Mode) : (s.setMode m).choice = s.choice := rfl
@[simp] theorem State.setMode_pending (m : Mode) : (s.setMode m).pending = s.pending := rfl

/-! ### setTuning -/

@[simp] theorem State.setTuning_inReset (t : Tuning) : (s.setTuning t).inReset = s.inReset := rfl
@[simp] theorem State.setTuning_mode (t : Tuning) : (s.setTuning t).mode = s.mode := rfl
@[simp] theorem State.setTuning_clockRunning (t : Tuning) : (s.setTuning t).clockRunning = s.clockRunning := rfl
@[simp] theorem State.setTuning_ports (t : Tuning) : (s.setTuning t).ports = s.ports := rfl
@[simp] theorem State.setTuning_combiner (t : Tuning) : (s.setTuning t).combiner = s.combiner := rfl
@[simp] theorem State.setTuning_roster (t : Tuning) : (s.setTuning t).roster = s.roster := rfl
@[simp] theorem State.setTuning_profiles (t : Tuning) : (s.setTuning t).profiles = s.profiles := rfl
@[simp] theorem State.setTuning_sweep (t : Tuning) : (s.setTuning t).sweep = s.sweep := rfl
@[simp] theorem State.setTuning_sweepDue (t : Tuning) : (s.setTuning t).sweepDue = s.sweepDue := rfl
@[simp] theorem State.setTuning_floor (t : Tuning) : (s.setTuning t).floor = s.floor := rfl
@[simp] theorem State.setTuning_engine (t : Tuning) : (s.setTuning t).engine = s.engine := rfl
@[simp] theorem State.setTuning_lines (t : Tuning) : (s.setTuning t).lines = s.lines := rfl
@[simp] theorem State.setTuning_tuning (t : Tuning) : (s.setTuning t).tuning = t := rfl
@[simp] theorem State.setTuning_command (t : Tuning) : (s.setTuning t).command = s.command := rfl
@[simp] theorem State.setTuning_choice (t : Tuning) : (s.setTuning t).choice = s.choice := rfl
@[simp] theorem State.setTuning_pending (t : Tuning) : (s.setTuning t).pending = s.pending := rfl

/-! ### postChange: a report where the condition changed, and nothing else -/

theorem State.postChange_same (b : Block) (id : WarnId) (v : Bool) : s.postChange b id v v = s := by simp [State.postChange]

theorem State.postChange_changed (b : Block) (id : WarnId) {old new : Bool} (h : old ≠ new) :
    s.postChange b id old new = s.post b (.report id new) := by simp [State.postChange, h]

@[simp] theorem State.postChange_inReset (b : Block) (id : WarnId) (old new : Bool) : (s.postChange b id old new).inReset = s.inReset := by
  unfold State.postChange; split <;> rfl
@[simp] theorem State.postChange_mode (b : Block) (id : WarnId) (old new : Bool) : (s.postChange b id old new).mode = s.mode := by
  unfold State.postChange; split <;> rfl
@[simp] theorem State.postChange_clockRunning (b : Block) (id : WarnId) (old new : Bool) : (s.postChange b id old new).clockRunning = s.clockRunning := by
  unfold State.postChange; split <;> rfl
@[simp] theorem State.postChange_ports (b : Block) (id : WarnId) (old new : Bool) : (s.postChange b id old new).ports = s.ports := by
  unfold State.postChange; split <;> rfl
@[simp] theorem State.postChange_combiner (b : Block) (id : WarnId) (old new : Bool) : (s.postChange b id old new).combiner = s.combiner := by
  unfold State.postChange; split <;> rfl
@[simp] theorem State.postChange_roster (b : Block) (id : WarnId) (old new : Bool) : (s.postChange b id old new).roster = s.roster := by
  unfold State.postChange; split <;> rfl
@[simp] theorem State.postChange_profiles (b : Block) (id : WarnId) (old new : Bool) : (s.postChange b id old new).profiles = s.profiles := by
  unfold State.postChange; split <;> rfl
@[simp] theorem State.postChange_sweep (b : Block) (id : WarnId) (old new : Bool) : (s.postChange b id old new).sweep = s.sweep := by
  unfold State.postChange; split <;> rfl
@[simp] theorem State.postChange_sweepDue (b : Block) (id : WarnId) (old new : Bool) : (s.postChange b id old new).sweepDue = s.sweepDue := by
  unfold State.postChange; split <;> rfl
@[simp] theorem State.postChange_floor (b : Block) (id : WarnId) (old new : Bool) : (s.postChange b id old new).floor = s.floor := by
  unfold State.postChange; split <;> rfl
@[simp] theorem State.postChange_lines (b : Block) (id : WarnId) (old new : Bool) : (s.postChange b id old new).lines = s.lines := by
  unfold State.postChange; split <;> rfl
@[simp] theorem State.postChange_tuning (b : Block) (id : WarnId) (old new : Bool) : (s.postChange b id old new).tuning = s.tuning := by
  unfold State.postChange; split <;> rfl
@[simp] theorem State.postChange_command (b : Block) (id : WarnId) (old new : Bool) : (s.postChange b id old new).command = s.command := by
  unfold State.postChange; split <;> rfl
@[simp] theorem State.postChange_choice (b : Block) (id : WarnId) (old new : Bool) : (s.postChange b id old new).choice = s.choice := by
  unfold State.postChange; split <;> rfl
@[simp] theorem State.postChange_pending (b : Block) (id : WarnId) (old new : Bool) : (s.postChange b id old new).pending = s.pending := by
  unfold State.postChange; split <;> rfl

@[simp] theorem State.postChange_warnings (b : Block) (id : WarnId) (old new : Bool) :
    (s.postChange b id old new).engine.warnings = s.engine.warnings := by
  unfold State.postChange; split <;> rfl

end Sys2Proof.Machine
end

