-- ==== Sys2Proof/Laws/Floor.lean ====
section
/-! SUPPORT. Laws/Floor.lean: what the floor arbiter's operations can change: the floor's slots and cause, the hot-mic timers of the
roster's entries, and the acts posted to the engine. -/

namespace Sys2Proof.Machine

/-- All that an operation of the floor arbiter can do to a state: slots and cause, hot-mic timers, posted acts. -/
structure FloorStep (s t : State) : Prop where
  rest : t = { s with roster := t.roster, floor := t.floor, engine := t.engine }
  floor : t.floor = { s.floor with live := t.floor.live, held := t.floor.held, cause := t.floor.cause }
  roster : ∀ n : Fin 200, ∃ h : Option HotTimer, t.roster[n] = s.roster[n].map fun e => { e with hot := h }
  engine : t.engine = { s.engine with posted := t.engine.posted }

theorem FloorStep.refl (s : State) : FloorStep s s where
  rest := rfl
  floor := rfl
  roster n := by
    cases h : s.roster[n] with
    | none => exact ⟨none, rfl⟩
    | some e => exact ⟨e.hot, rfl⟩
  engine := rfl

theorem FloorStep.trans {s t u : State} (h₁ : FloorStep s t) (h₂ : FloorStep t u) : FloorStep s u where
  rest := by rw [h₂.rest, h₁.rest]
  floor := by rw [h₂.floor, h₁.floor]
  roster n := by
    obtain ⟨a, ha⟩ := h₁.roster n
    obtain ⟨b, hb⟩ := h₂.roster n
    refine ⟨b, ?_⟩
    rw [hb, ha]
    cases s.roster[n] <;> rfl
  engine := by rw [h₂.engine, h₁.engine]

/-! ### The fields that an operation of the floor arbiter leaves -/

section
variable {s t : State} (h : FloorStep s t)
include h
theorem FloorStep.mode : t.mode = s.mode := by rw [h.rest]
theorem FloorStep.inReset : t.inReset = s.inReset := by rw [h.rest]
theorem FloorStep.clockRunning : t.clockRunning = s.clockRunning := by rw [h.rest]
theorem FloorStep.ports : t.ports = s.ports := by rw [h.rest]
theorem FloorStep.combiner : t.combiner = s.combiner := by rw [h.rest]
theorem FloorStep.profiles : t.profiles = s.profiles := by rw [h.rest]
theorem FloorStep.sweep : t.sweep = s.sweep := by rw [h.rest]
theorem FloorStep.sweepDue : t.sweepDue = s.sweepDue := by rw [h.rest]
theorem FloorStep.lines : t.lines = s.lines := by rw [h.rest]
theorem FloorStep.tuning : t.tuning = s.tuning := by rw [h.rest]
theorem FloorStep.command : t.command = s.command := by rw [h.rest]
theorem FloorStep.choice : t.choice = s.choice := by rw [h.rest]
theorem FloorStep.pending : t.pending = s.pending := by rw [h.rest]
theorem FloorStep.capacity : t.floor.capacity = s.floor.capacity := by rw [h.floor]
theorem FloorStep.chair : t.floor.chair = s.floor.chair := by rw [h.floor]
theorem FloorStep.asserted : t.floor.asserted = s.floor.asserted := by rw [h.floor]
theorem FloorStep.stability : t.floor.stability = s.floor.stability := by rw [h.floor]
theorem FloorStep.pinHigh : t.floor.pinHigh = s.floor.pinHigh := by rw [h.floor]
theorem FloorStep.warnings : t.engine.warnings = s.engine.warnings := by rw [h.engine]
theorem FloorStep.attention : t.engine.attention = s.engine.attention := by rw [h.engine]
theorem FloorStep.counter : t.engine.counter = s.engine.counter := by rw [h.engine]

theorem FloorStep.entry {n : Fin 200} {e : Entry} (he : s.roster[n] = some e) : ∃ x, t.roster[n] = some { e with hot := x } := by
  obtain ⟨x, hx⟩ := h.roster n
  exact ⟨x, by rw [hx, he]; rfl⟩

theorem FloorStep.empty {n : Fin 200} : t.roster[n] = none ↔ s.roster[n] = none := by
  obtain ⟨x, hx⟩ := h.roster n
  rw [hx]; simp
end

/-! ### Each operation -/

theorem FloorStep.post (s : State) (b : Block) (a : Act) : FloorStep s (s.post b a) where
  rest := rfl
  floor := rfl
  roster n := (FloorStep.refl s).roster n
  engine := rfl

theorem FloorStep.postChange (s : State) (b : Block) (id : WarnId) (old new : Bool) : FloorStep s (s.postChange b id old new) := by
  unfold State.postChange; split
  · exact .refl s
  · exact .post s _ _

theorem FloorStep.setLive (s : State) (k : Fin 6) (x : Option LiveSlot) : FloorStep s (s.setLive k x) where
  rest := rfl
  floor := rfl
  roster n := (FloorStep.refl s).roster n
  engine := rfl

theorem FloorStep.setHeld (s : State) (k : Fin 6) (x : Option (Fin 200)) : FloorStep s (s.setHeld k x) where
  rest := rfl
  floor := rfl
  roster n := (FloorStep.refl s).roster n
  engine := rfl

theorem FloorStep.setCause (s : State) (c : Cause) : FloorStep s (s.setCause c) where
  rest := rfl
  floor := rfl
  roster n := (FloorStep.refl s).roster n
  engine := rfl

/-- A slot whose entry takes another hot-mic timer. -/
theorem FloorStep.setHot (s : State) {n : Fin 200} {e : Entry} (he : s.roster[n] = some e) (x : Option HotTimer) :
    FloorStep s (s.setSlot n (some { e with hot := x })) where
  rest := rfl
  floor := rfl
  roster m := by
    by_cases h : n = m
    · subst h; exact ⟨x, by rw [State.setSlot_roster, setAt_get_same, he]; rfl⟩
    · obtain ⟨y, hy⟩ := (FloorStep.refl s).roster m
      exact ⟨y, by rw [State.setSlot_roster, setAt_get_ne _ h]; exact hy⟩
  engine := rfl

theorem deriveSlot_floorStep (n : Fin 200) (s : State) : FloorStep s (deriveSlot n s) := by
  unfold deriveSlot
  split
  · exact .refl s
  · split
    · exact .refl s
    · split
      · exact (FloorStep.setLive s _ _).trans (.postChange _ _ _ _ _)
      · exact .setLive s _ _

theorem deriveHot_floorStep (n : Fin 200) (s : State) : FloorStep s (deriveHot n s) := by
  unfold deriveHot
  split
  · exact .refl s
  · rename_i e he
    split
    · exact (FloorStep.setHot s he _).trans (.postChange _ _ _ _ _)
    · exact (FloorStep.setHot s he _).trans (.postChange _ _ _ _ _)
    · exact .refl s
    · exact .refl s

theorem derive_floorStep (n : Fin 200) (s : State) : FloorStep s (derive n s) :=
  (deriveSlot_floorStep n s).trans (deriveHot_floorStep n _)

theorem freeLive_floorStep (n : Fin 200) (s : State) : FloorStep s (freeLive n s) := by
  unfold freeLive
  split
  · exact .refl s
  · split
    · exact .refl s
    · exact (FloorStep.setLive s _ _).trans (.postChange _ _ _ _ _)

theorem freeHeld_floorStep (n : Fin 200) (s : State) : FloorStep s (freeHeld n s) := by
  unfold freeHeld
  split
  · exact .refl s
  · exact .setHeld s _ _

theorem freeSlot_floorStep (n : Fin 200) (s : State) : FloorStep s (freeSlot n s) :=
  (freeLive_floorStep n s).trans (freeHeld_floorStep n _)

theorem stopHot_floorStep (n : Fin 200) (s : State) : FloorStep s (stopHot n s) := by
  unfold stopHot
  split
  · exact .refl s
  · rename_i e he
    exact (FloorStep.setHot s he _).trans (.postChange _ _ _ _ _)

theorem FloorStep.slots (s : State) (live : Vector (Option LiveSlot) 6) (held : Vector (Option (Fin 200)) 6) (c : Cause) :
    FloorStep s { s with floor := { s.floor with live := live, held := held, cause := c } } where
  rest := rfl
  floor := rfl
  roster n := (FloorStep.refl s).roster n
  engine := rfl

theorem FloorStep.forList {α : Type} {f : α → State → State} (hf : ∀ a t, FloorStep t (f a t)) (l : List α) (s : State) :
    FloorStep s (forList f l s) :=
  forList_induct (P := FloorStep s) l s (.refl s) fun a _ t ht => ht.trans (hf a t)

theorem FloorStep.forEach {n : Nat} {f : Fin n → State → State} (hf : ∀ a t, FloorStep t (f a t)) (s : State) :
    FloorStep s (forEach f s) :=
  .forList hf (List.finRange n) s

theorem moveToHeld_floorStep (s : State) : FloorStep s (moveToHeld s) :=
  (FloorStep.slots s _ _ s.floor.cause).trans
    (.forList (fun _ t => (FloorStep.postChange t _ _ _ _).trans (derive_floorStep _ _)) _ _)

theorem moveBack_floorStep (s : State) : FloorStep s (moveBack s) :=
  (FloorStep.slots s _ _ s.floor.cause).trans (.forList (fun n t => derive_floorStep n t) _ _)

theorem beginHold_floorStep (s : State) : FloorStep s (beginHold s) := (moveToHeld_floorStep s).trans (.setCause _ _)

theorem endHold_floorStep (s : State) : FloorStep s (endHold s) := (moveBack_floorStep s).trans (.setCause _ _)

theorem followClaim_floorStep (s : State) : FloorStep s (followClaim s) := by
  unfold followClaim
  split
  · split
    · exact beginHold_floorStep s
    · exact .refl s
  · split
    · exact .refl s
    · exact endHold_floorStep s
  · exact .refl s

theorem floorTakes_floorStep (n : Fin 200) (s : State) : FloorStep s (floorTakes n s) := by
  unfold floorTakes
  simp only
  split
  · exact (derive_floorStep n s).trans (followClaim_floorStep _)
  · exact derive_floorStep n s

theorem silenceAsserted_floorStep (s : State) : FloorStep s (silenceAsserted s) := by
  unfold silenceAsserted
  split
  · exact (moveToHeld_floorStep s).trans (.setCause _ _)
  · exact .setCause _ _
  · exact .setCause _ _

theorem silenceReleased_floorStep (s : State) : FloorStep s (silenceReleased s) := by
  unfold silenceReleased
  split
  · exact .setCause _ _
  · exact endHold_floorStep s

theorem floorLeavesSession_floorStep (s : State) : FloorStep s (floorLeavesSession s) :=
  (FloorStep.slots s _ _ _).trans (.forEach (fun _ t =>
    (FloorStep.forList (fun _ u => FloorStep.postChange u _ _ _ _) _ t).trans (stopHot_floorStep _ _)) _)

/-! ### The steps of SET_CHAIR -/

/-- Deriving an entry afresh leaves the cause. -/
theorem derive_cause (n : Fin 200) (s : State) : (derive n s).floor.cause = s.floor.cause := by
  unfold derive deriveHot deriveSlot State.postChange
  (repeat' split) <;> rfl

/-- An operation of the floor arbiter leaves whether the chair has its key on. -/
theorem FloorStep.chairKeyOn {s t : State} (h : FloorStep s t) (n : Fin 200) (e : Entry) (he : s.roster[n] = some e) (hc : s.floor.chair = some n) :
   t.chairKeyOn = (e.keyOn && s.mode == .session) := by
  obtain ⟨x, hx⟩ := h.roster n
  unfold State.chairKeyOn
  rw [h.chair, hc]; simp only [hx, he, Option.map_some, h.mode]; rfl

/-- All that making a new chair ready does (R102, step 1). -/
theorem prepareChair_eq {s : State} {n : Fin 200} {e : Entry} (he : s.roster[n] = some e) : prepareChair n s = { s with
        roster := setAt s.roster n (some { e with muted := false, hot := none })
        floor := { s.floor with
          live := (match s.floor.liveSlotOf n with
            | some k => setAt s.floor.live k none
            | none => s.floor.live)
          held := (match s.floor.heldSlotOf n with
            | some k => setAt s.floor.held k none
            | none => s.floor.held) }
        engine := { s.engine with posted := s.engine.posted ++
          (match s.floor.liveSlotOf n with
            | some k => (match s.floor.live[k] with
              | some v => if v.expired then [⟨.floor, .report ⟨.entry n, .silentFloor⟩ false⟩] else []
              | none => [])
            | none => []) ++
          (match e.hot with
            | some h => if h.reached then [⟨.floor, .report ⟨.entry n, .hotMic⟩ false⟩] else []
            | none => []) } } := by
  have hl : ∀ k, s.floor.liveSlotOf n = some k → ∃ v, s.floor.live[k] = some v := by
    intro k h
    unfold Floor.liveSlotOf at h
    rw [firstIndex_eq_some] at h
    have := h.1
    simp only [Floor.liveHolder, beq_iff_eq, Option.map_eq_some_iff] at this
    exact this.imp fun _ h => h.1
  unfold prepareChair freeSlot freeLive
  cases h1 : s.floor.liveSlotOf n with
  | none =>
    unfold freeHeld
    cases h2 : s.floor.heldSlotOf n with
    | none => 
      cases h3 : e.hot <;> simp [clearMute, he, stopHot, State.setSlot, State.postChange, Entry.hotCond, h3, State.post]
      split <;> simp_all [unitWarning]
    | some k => 
      cases h3 : e.hot <;> simp [clearMute, he, stopHot, State.setSlot, State.setHeld, State.postChange, Entry.hotCond, h3, State.post]
      split <;> simp_all [unitWarning]
  | some j =>
    obtain ⟨v, hv⟩ := hl j h1
    simp only [hv]
    have hh : ∀ b, (((s.setLive j none).postChange .floor (unitWarning n .silentFloor) b false).floor.heldSlotOf n) = s.floor.heldSlotOf n := by
      intro b; unfold State.postChange; split <;> rfl
    unfold freeHeld
    rw [hh]
    cases h2 : s.floor.heldSlotOf n <;> cases h3 : e.hot <;> cases h4 : v.expired <;>
      simp [clearMute, he, stopHot, State.setSlot, State.setHeld, State.setLive, State.postChange, Entry.hotCond, h3, State.post, unitWarning]
      <;> split <;> simp_all

end Sys2Proof.Machine
end

