-- ==== Sys2Proof/Laws/Handling.lean ====
section
/-! SUPPORT. Laws/Handling.lean: what the engine's taking of reports, the end of a handling, an event and a command can change. -/

namespace Sys2Proof.Machine

/-! ### The engine's operations leave what is posted -/

@[simp] theorem Engine.put_posted (g : Engine) (r : WarnRecord) : (g.put r).posted = g.posted := rfl
@[simp] theorem Engine.drop_posted (g : Engine) (id : WarnId) : (g.drop id).posted = g.posted := rfl

@[simp] theorem Engine.readmit_posted (g : Engine) : g.readmit.posted = g.posted := by
  unfold Engine.readmit; split
  · split <;> rfl
  · rfl

@[simp] theorem Engine.readmitMany_posted (k : Nat) (g : Engine) : (Engine.readmitMany k g).posted = g.posted := by
  induction k generalizing g with
  | zero => rfl
  | succ k ih => rw [Engine.readmitMany, ih, Engine.readmit_posted]

@[simp] theorem Engine.leave_posted (g : Engine) (id : WarnId) : (g.leave id).posted = g.posted := by
  unfold Engine.leave; split
  · simp
  · rfl

@[simp] theorem Engine.raise_posted (g : Engine) (id : WarnId) : (g.raise id).posted = g.posted := by
  unfold Engine.raise; split <;> rfl

@[simp] theorem Engine.clear_posted (g : Engine) (t : PendingType) (id : WarnId) : (g.clear t id).posted = g.posted := by
  unfold Engine.clear; split
  · split <;> simp
  · simp
  · rfl
  · rfl

@[simp] theorem Engine.quietAll_posted (g : Engine) (sel : WarnRecord → Bool) : (g.quietAll sel).posted = g.posted := by
  simp [Engine.quietAll]

@[simp] theorem Engine.acknowledge_posted (g : Engine) (r : WarnRecord) : (g.acknowledge r).posted = g.posted := by
  unfold Engine.acknowledge; split <;> simp

@[simp] theorem Engine.acknowledgeListed_posted (g : Engine) : g.acknowledgeListed.posted = g.posted := by
  simp [Engine.acknowledgeListed]

/-! ### The taking of reports -/

/-- All that the engine's taking of acts can do to a state: the engine changes, and the count of open orders. -/
structure EngineStep (s t : State) : Prop where
  rest : t = { s with engine := t.engine, choice := t.choice }
  posted : t.engine.posted = s.engine.posted

theorem EngineStep.refl (s : State) : EngineStep s s := ⟨rfl, rfl⟩

theorem EngineStep.trans {s t u : State} (h₁ : EngineStep s t) (h₂ : EngineStep t u) : EngineStep s u where
  rest := by rw [h₂.rest, h₁.rest]
  posted := by rw [h₂.posted, h₁.posted]

theorem takeReport_engineStep (s : State) (id : WarnId) (v : Bool) : EngineStep s (s.takeReport id v) := by
  unfold State.takeReport; split
  · cases v <;> exact ⟨rfl, by simp⟩
  · exact .refl s

theorem applyAct_engineStep (s : State) (a : Act) : EngineStep s (applyAct s a) := by
  cases a with
  | report id v => exact takeReport_engineStep s id v
  | both id₁ v₁ id₂ v₂ =>
    have h : EngineStep s { s with choice := s.choice + 1 } := ⟨rfl, rfl⟩
    unfold applyAct; simp only; split
    · exact h.trans ((takeReport_engineStep _ _ _).trans (takeReport_engineStep _ _ _))
    · exact h.trans ((takeReport_engineStep _ _ _).trans (takeReport_engineStep _ _ _))
  | quietCells n => exact ⟨rfl, by simp [applyAct]⟩
  | quietEntry n => exact ⟨rfl, by simp [applyAct]⟩
  | quietSitting => exact ⟨rfl, by simp [applyAct]⟩

theorem foldl_applyAct_engineStep (l : List Act) (s : State) : EngineStep s (l.foldl applyAct s) := by
  induction l generalizing s with
  | nil => exact .refl s
  | cons a l ih => exact (applyAct_engineStep s a).trans (ih _)

/-- Nothing but the engine and the count of open orders changes when the reports are taken. -/
theorem takeReports_rest (s : State) :
    s.takeReports = { s with engine := s.takeReports.engine, choice := s.takeReports.choice } :=
  (foldl_applyAct_engineStep _ _).rest

/-- Nothing posted is left. -/
@[simp] theorem takeReports_posted (s : State) : s.takeReports.engine.posted = [] := (foldl_applyAct_engineStep _ _).posted

/-- With nothing posted, taking the reports does nothing. -/
theorem takeReports_eq_self {s : State} (h : s.engine.posted = []) : s.takeReports = s := by
  obtain ⟨_, _, _, _, _, _, _, _, _, _, ⟨_, _, _, _⟩, _, _, _, _, _⟩ := s
  simp only at h
  subst h
  rfl

section
variable (s : State)
@[simp] theorem takeReports_inReset : s.takeReports.inReset = s.inReset := by rw [takeReports_rest]
@[simp] theorem takeReports_mode : s.takeReports.mode = s.mode := by rw [takeReports_rest]
@[simp] theorem takeReports_clockRunning : s.takeReports.clockRunning = s.clockRunning := by rw [takeReports_rest]
@[simp] theorem takeReports_ports : s.takeReports.ports = s.ports := by rw [takeReports_rest]
@[simp] theorem takeReports_combiner : s.takeReports.combiner = s.combiner := by rw [takeReports_rest]
@[simp] theorem takeReports_roster : s.takeReports.roster = s.roster := by rw [takeReports_rest]
@[simp] theorem takeReports_profiles : s.takeReports.profiles = s.profiles := by rw [takeReports_rest]
@[simp] theorem takeReports_sweep : s.takeReports.sweep = s.sweep := by rw [takeReports_rest]
@[simp] theorem takeReports_sweepDue : s.takeReports.sweepDue = s.sweepDue := by rw [takeReports_rest]
@[simp] theorem takeReports_floor : s.takeReports.floor = s.floor := by rw [takeReports_rest]
@[simp] theorem takeReports_lines : s.takeReports.lines = s.lines := by rw [takeReports_rest]
@[simp] theorem takeReports_tuning : s.takeReports.tuning = s.tuning := by rw [takeReports_rest]
@[simp] theorem takeReports_command : s.takeReports.command = s.command := by rw [takeReports_rest]
@[simp] theorem takeReports_pending : s.takeReports.pending = s.pending := by rw [takeReports_rest]

/-! ### The end of a handling -/

@[simp] theorem finish_inReset : (finish s).inReset = s.inReset := by simp [finish, settleLines]
@[simp] theorem finish_mode : (finish s).mode = s.mode := by simp [finish, settleLines]
@[simp] theorem finish_clockRunning : (finish s).clockRunning = s.clockRunning := by simp [finish, settleLines]
@[simp] theorem finish_ports : (finish s).ports = s.ports := by simp [finish, settleLines]
@[simp] theorem finish_combiner : (finish s).combiner = s.combiner := by simp [finish, settleLines]
@[simp] theorem finish_roster : (finish s).roster = s.roster := by simp [finish, settleLines]
@[simp] theorem finish_profiles : (finish s).profiles = s.profiles := by simp [finish, settleLines]
@[simp] theorem finish_sweep : (finish s).sweep = s.sweep := by simp [finish, settleLines]
@[simp] theorem finish_sweepDue : (finish s).sweepDue = s.sweepDue := by simp [finish, settleLines]
@[simp] theorem finish_floor : (finish s).floor = s.floor := by simp [finish, settleLines]
@[simp] theorem finish_tuning : (finish s).tuning = s.tuning := by simp [finish, settleLines]
@[simp] theorem finish_command : (finish s).command = s.command := by simp [finish, settleLines]
@[simp] theorem finish_pending : (finish s).pending = s.pending := by simp [finish, settleLines]
@[simp] theorem finish_posted : (finish s).engine.posted = [] := by simp [finish, settleLines]
@[simp] theorem finish_commitPending : (finish s).lines.commitPending = s.lines.commitPending := by simp [finish, settleLines]
@[simp] theorem finish_phase : (finish s).lines.phase = s.lines.phase := by simp [finish, settleLines]
@[simp] theorem finish_boundaryDue : (finish s).lines.boundaryDue = s.lines.boundaryDue := by simp [finish, settleLines]
end

theorem finish_engine (s : State) : (finish s).engine = s.takeReports.engine := rfl

/-- A line's source state does not look at the other lines, so it is the same when they have been settled. -/
theorem settleLines_sourceState (s : State) (src : Source) : (settleLines s).sourceState src = s.sourceState src := rfl

theorem settleLines_line (s : State) (m : Fin 16) : (settleLines s).lines.line[m] = s.settleLine s.lines.line[m] := by
  simp only [settleLines, mapTable_get]

theorem settleLines_settleLine (s : State) (l : Line) : (settleLines s).settleLine l = s.settleLine l := rfl

theorem finish_line (s : State) (m : Fin 16) : (finish s).lines.line[m] = (finish s).settleLine s.lines.line[m] := by
  rw [finish, settleLines_line, settleLines_settleLine, takeReports_lines]

/-! ### The end of a command -/

/-- Nothing but the command port changes when a command completes. -/
theorem complete_rest (i : Instr) (r : Reply) (s : State) : complete i r s = { s with command := (complete i r s).command } := rfl

section
variable (i : Instr) (r : Reply) (s : State)
@[simp] theorem complete_inReset : (complete i r s).inReset = s.inReset := rfl
@[simp] theorem complete_mode : (complete i r s).mode = s.mode := rfl
@[simp] theorem complete_clockRunning : (complete i r s).clockRunning = s.clockRunning := rfl
@[simp] theorem complete_ports : (complete i r s).ports = s.ports := rfl
@[simp] theorem complete_combiner : (complete i r s).combiner = s.combiner := rfl
@[simp] theorem complete_roster : (complete i r s).roster = s.roster := rfl
@[simp] theorem complete_profiles : (complete i r s).profiles = s.profiles := rfl
@[simp] theorem complete_sweep : (complete i r s).sweep = s.sweep := rfl
@[simp] theorem complete_sweepDue : (complete i r s).sweepDue = s.sweepDue := rfl
@[simp] theorem complete_floor : (complete i r s).floor = s.floor := rfl
@[simp] theorem complete_engine : (complete i r s).engine = s.engine := rfl
@[simp] theorem complete_lines : (complete i r s).lines = s.lines := rfl
@[simp] theorem complete_tuning : (complete i r s).tuning = s.tuning := rfl
@[simp] theorem complete_choice : (complete i r s).choice = s.choice := rfl
@[simp] theorem complete_pending : (complete i r s).pending = s.pending := rfl
@[simp] theorem complete_lastReply : (complete i r s).command.lastReply = some r := by
  unfold complete; simp only; split <;> rfl
end

/-! ### Events and commands -/

/-- An event that is due brings its effect, and the end of its handling. -/
theorem occur_due {s : State} {due : Bool} (h : s.inReset = false) (hd : due = true) (f : State → State) :
    occur due f s = .next (finish (f s)) := by simp [occur, h, hd]

/-- An event that is not due changes nothing. -/
theorem occur_not_due {s : State} {due : Bool} (hd : due = false) (f : State → State) : occur due f s = .next s := by
  simp [occur, hd]

theorem wakeIfDormant_eq_self {s : State} (h : s.mode ≠ .dormant) : wakeIfDormant s = s := by
  unfold wakeIfDormant; split
  · exact absurd ‹_› h
  · rfl
  · rfl

theorem wakeIfDormant_dormant {s : State} (h : s.mode = .dormant) : wakeIfDormant s = wake s := by
  simp [wakeIfDormant, h]

/-- A command to a part that is ready is carried out on the part as it stands. -/
theorem runCommand_ready {s : State} (h : Ready s) (i : Instr) (body : State → Handling) :
    runCommand i body s = .next ((body s).conclude i) := by
  simp [runCommand, h.1, wakeIfDormant_eq_self h.2]

/-- A command to a part held in reset has no effect. -/
theorem runCommand_inReset {s : State} (h : s.inReset = true) (i : Instr) (body : State → Handling) :
    runCommand i body s = .next s := by simp [runCommand, h]

end Sys2Proof.Machine
end

