-- ==== Sys2Proof/Laws/Roster.lean ====
section
/-! SUPPORT. Laws/Roster.lean: what the roster's and the combiner's operations can change: the pool, the fields of entries other than
their keys, the floor's slots and cause, and the acts posted to the engine. -/

namespace Sys2Proof.Machine

/-- Two slots of which the second is the first after something befell its entry: both empty, or the same unit at the same seat, in the
same group, with the same profile and the same mute. -/
def SameEntry (a b : Option Entry) : Prop :=
  (a = none ∧ b = none) ∨ ∃ e f : Entry, a = some e ∧ b = some f ∧ f.unit = e.unit ∧ f.seat = e.seat ∧ f.group = e.group ∧
    f.battery.profile = e.battery.profile ∧ f.muted = e.muted

theorem SameEntry.refl (a : Option Entry) : SameEntry a a := by
  cases a with
  | none => exact .inl ⟨rfl, rfl⟩
  | some e => exact .inr ⟨e, e, rfl, rfl, rfl, rfl, rfl, rfl, rfl⟩

theorem SameEntry.trans {a b c : Option Entry} (h₁ : SameEntry a b) (h₂ : SameEntry b c) : SameEntry a c := by
  rcases h₁ with ⟨rfl, rfl⟩ | ⟨e, f, rfl, rfl, h1, h2, h3, h4, h5⟩
  · exact h₂
  · rcases h₂ with ⟨h, _⟩ | ⟨f', g, h, rfl, k1, k2, k3, k4, k5⟩
    · cases h
    · cases h
      exact .inr ⟨e, g, rfl, rfl, k1.trans h1, k2.trans h2, k3.trans h3, k4.trans h4, k5.trans h5⟩

/-- All that the handling of a sighting, of an age or of a battery reading can do to a state. -/
structure EntryStep (s t : State) : Prop where
  rest : t = { s with combiner := t.combiner, roster := t.roster, floor := t.floor, engine := t.engine }
  combiner : t.combiner = { s.combiner with pool := t.combiner.pool }
  roster : ∀ n : Fin 200, SameEntry s.roster[n] t.roster[n]
  floor : t.floor = { s.floor with live := t.floor.live, held := t.floor.held, cause := t.floor.cause }
  engine : t.engine = { s.engine with posted := t.engine.posted }

theorem EntryStep.refl (s : State) : EntryStep s s := ⟨rfl, rfl, fun _ => .refl _, rfl, rfl⟩

theorem EntryStep.trans {s t u : State} (h₁ : EntryStep s t) (h₂ : EntryStep t u) : EntryStep s u where
  rest := by rw [h₂.rest, h₁.rest]
  combiner := by rw [h₂.combiner, h₁.combiner]
  roster n := (h₁.roster n).trans (h₂.roster n)
  floor := by rw [h₂.floor, h₁.floor]
  engine := by rw [h₂.engine, h₁.engine]

/-- Every step of the floor arbiter is one of these. -/
theorem FloorStep.entryStep {s t : State} (h : FloorStep s t) : EntryStep s t where
  rest := by conv_lhs => rw [h.rest]
             rw [h.combiner]
  combiner := by rw [h.combiner]
  roster n := by
    obtain ⟨x, hx⟩ := h.roster n
    rw [hx]
    cases s.roster[n] with
    | none => exact .inl ⟨rfl, rfl⟩
    | some e => exact .inr ⟨e, _, rfl, rfl, rfl, rfl, rfl, rfl, rfl⟩
  floor := h.floor
  engine := h.engine

section
variable {s t : State} (h : EntryStep s t)
include h
theorem EntryStep.mode : t.mode = s.mode := by rw [h.rest]
theorem EntryStep.inReset : t.inReset = s.inReset := by rw [h.rest]
theorem EntryStep.clockRunning : t.clockRunning = s.clockRunning := by rw [h.rest]
theorem EntryStep.ports : t.ports = s.ports := by rw [h.rest]
theorem EntryStep.strangers : t.combiner.strangers = s.combiner.strangers := by rw [h.combiner]
theorem EntryStep.nextPort : t.combiner.nextPort = s.combiner.nextPort := by rw [h.combiner]
theorem EntryStep.profiles : t.profiles = s.profiles := by rw [h.rest]
theorem EntryStep.sweep : t.sweep = s.sweep := by rw [h.rest]
theorem EntryStep.sweepDue : t.sweepDue = s.sweepDue := by rw [h.rest]
theorem EntryStep.lines : t.lines = s.lines := by rw [h.rest]
theorem EntryStep.tuning : t.tuning = s.tuning := by rw [h.rest]
theorem EntryStep.command : t.command = s.command := by rw [h.rest]
theorem EntryStep.choice : t.choice = s.choice := by rw [h.rest]
theorem EntryStep.pending : t.pending = s.pending := by rw [h.rest]
theorem EntryStep.warnings : t.engine.warnings = s.engine.warnings := by rw [h.engine]
theorem EntryStep.attention : t.engine.attention = s.engine.attention := by rw [h.engine]
theorem EntryStep.counter : t.engine.counter = s.engine.counter := by rw [h.engine]
theorem EntryStep.capacity : t.floor.capacity = s.floor.capacity := by rw [h.floor]
theorem EntryStep.chair : t.floor.chair = s.floor.chair := by rw [h.floor]

theorem EntryStep.empty {n : Fin 200} : t.roster[n] = none ↔ s.roster[n] = none := by
  rcases h.roster n with ⟨h1, h2⟩ | ⟨e, f, h1, h2, _⟩ <;> simp [h1, h2, -Fin.getElem_fin]
end

/-! ### Each operation -/

theorem EntryStep.post (s : State) (b : Block) (a : Act) : EntryStep s (s.post b a) := (FloorStep.post s b a).entryStep

theorem EntryStep.postChange (s : State) (b : Block) (id : WarnId) (old new : Bool) : EntryStep s (s.postChange b id old new) :=
  (FloorStep.postChange s b id old new).entryStep

theorem EntryStep.postIf (s : State) (c : Bool) (b : Block) (a : Act) : EntryStep s (if c then s.post b a else s) := by
  split
  · exact .post s b a
  · exact .refl s

theorem EntryStep.setPool (s : State) (i : Fin 12) (x : Option PoolEntry) : EntryStep s (s.setPool i x) :=
  ⟨rfl, rfl, fun _ => .refl _, rfl, rfl⟩

theorem EntryStep.setSlot {s : State} {n : Fin 200} {x : Option Entry} (h : SameEntry s.roster[n] x) : EntryStep s (s.setSlot n x) where
  rest := rfl
  combiner := rfl
  roster m := by
    rw [State.setSlot_roster, setAt_get]
    split
    · rename_i e; rw [← e]; exact h
    · exact .refl _
  floor := rfl
  engine := rfl

theorem postBattery_entryStep (n : Fin 200) (a b : BattLevel) (s : State) : EntryStep s (postBattery n a b s) := by
  unfold postBattery; split
  · exact .post s _ _
  · exact (EntryStep.postChange s _ _ _ _).trans (.postChange _ _ _ _ _)

theorem reclassify_profile (p : Profile) (b : Battery) : (reclassify p b).profile = b.profile := by
  unfold reclassify; split <;> rfl

theorem evalBattery_profile (p : Profile) (b : Battery) (c : Nat) : (evalBattery p b c).profile = b.profile := by
  unfold evalBattery
  split
  · rfl
  · simp only
    split
    · rfl
    · split
      · rfl
      · unfold filterBattery confirmBattery
        simp only
        split
        · split <;> rfl
        · rfl

theorem reclassifyEntry_entryStep (n : Fin 200) (s : State) : EntryStep s (reclassifyEntry n s) := by
  unfold reclassifyEntry; split
  · exact .refl s
  · rename_i e he
    refine (EntryStep.setSlot (s := s) ?_).trans (postBattery_entryStep _ _ _ _)
    rw [he]
    exact .inr ⟨e, _, rfl, rfl, rfl, rfl, rfl, reclassify_profile _ _, rfl⟩

theorem applyObservation_entryStep (n : Fin 200) (o : Observation) (s : State) : EntryStep s (applyObservation n o s) := by
  unfold applyObservation; split
  · exact .refl s
  · rename_i e he
    simp only
    refine EntryStep.trans ?_ (floorTakes_floorStep n _).entryStep
    refine EntryStep.trans ?_ (EntryStep.postChange _ _ _ _ _)
    refine EntryStep.trans ?_ (EntryStep.postIf _ _ _ _)
    refine EntryStep.trans ?_ (postBattery_entryStep n _ _ _)
    refine EntryStep.trans ?_ (EntryStep.postChange _ _ _ _ _)
    refine EntryStep.setSlot ?_
    rw [he]
    exact .inr ⟨e, _, rfl, rfl, rfl, rfl, rfl, evalBattery_profile _ _ _, rfl⟩

theorem fadeEntry_entryStep (n : Fin 200) (s : State) : EntryStep s (fadeEntry n s) := by
  unfold fadeEntry; split
  · exact .refl s
  · rename_i e he
    refine (EntryStep.setSlot (s := s) (n := n) ?_).trans (floorTakes_floorStep n _).entryStep
    rw [he]; exact .inr ⟨e, _, rfl, rfl, rfl, rfl, rfl, rfl, rfl⟩

theorem loseEntry_entryStep (n : Fin 200) (s : State) : EntryStep s (loseEntry n s) := by
  unfold loseEntry; split
  · exact .refl s
  · rename_i e he
    simp only
    refine EntryStep.trans ?_ (floorTakes_floorStep n _).entryStep
    refine EntryStep.trans ?_ (EntryStep.postChange _ _ _ _ _)
    refine EntryStep.trans ?_ (EntryStep.postChange _ _ _ _ _)
    refine EntryStep.setSlot ?_
    rw [he]; exact .inr ⟨e, _, rfl, rfl, rfl, rfl, rfl, rfl, rfl⟩

theorem judgeAge_entryStep (n : Fin 200) (s : State) : EntryStep s (judgeAge n s) := by
  unfold judgeAge; split
  · exact .refl s
  · split
    · exact loseEntry_entryStep n s
    · split
      · exact fadeEntry_entryStep n s
      · exact .refl s

theorem closeAt_entryStep (i : Fin 12) (s : State) : EntryStep s (closeAt i s) := by
  unfold closeAt; split
  · exact (EntryStep.setPool s i none).trans (applyObservation_entryStep _ _ _)
  · exact .refl s

theorem EntryStep.forList {α : Type} {f : α → State → State} (hf : ∀ a t, EntryStep t (f a t)) (l : List α) (s : State) :
    EntryStep s (forList f l s) :=
  forList_induct (P := EntryStep s) l s (.refl s) fun a _ t ht => ht.trans (hf a t)

theorem recheckCoverage_entryStep (s : State) : EntryStep s (recheckCoverage s) := .forList closeAt_entryStep _ s

theorem recheckAfterDisable_entryStep (was : PortState) (s : State) : EntryStep s (recheckAfterDisable was s) := by
  unfold recheckAfterDisable; split
  · exact recheckCoverage_entryStep s
  · exact .refl s

theorem noneReceiving_iff (s : State) : s.noneReceiving = true ↔ ∀ p : Fin 4, s.ports[p].state.receiving = false := by
  simp [State.noneReceiving, -Fin.getElem_fin]

/-- A disabling leaves the open entries where the port was not receiving; re-checks them where it was and another still is; and where
it was the last, leaves them or re-checks them as the free value has it (R13, R32; assumption log 24). -/
theorem recheckAfterDisable_eq (was : PortState) (s : State) :
    (was.receiving = false → recheckAfterDisable was s = s) ∧
    (was.receiving = true → (∃ p : Fin 4, s.ports[p].state.receiving = true) → recheckAfterDisable was s = recheckCoverage s) ∧
    (was.receiving = true → (∀ p : Fin 4, s.ports[p].state.receiving = false) →
      recheckAfterDisable was s = if Config.lastPortLeavesWindows then s else recheckCoverage s) := by
  unfold recheckAfterDisable
  refine ⟨fun h => by simp [h], fun h ⟨p, hp⟩ => ?_, fun h hs => ?_⟩
  · have : s.noneReceiving = false := by
      rw [Bool.eq_false_iff, Ne, noneReceiving_iff]
      exact fun hs => Bool.noConfusion ((hs p).symm.trans hp)
    simp [h, this]
  · cases Config.lastPortLeavesWindows <;> simp [h, (noneReceiving_iff s).2 hs]

theorem closeAll_entryStep (s : State) : EntryStep s (closeAll s) := .forList closeAt_entryStep _ s

theorem coverageTest_entryStep (i : Fin 12) (s : State) : EntryStep s (coverageTest i s) := by
  unfold coverageTest; split
  · split
    · exact closeAt_entryStep i s
    · exact .refl s
  · exact .refl s

theorem makeRoom_entryStep (s : State) : EntryStep s (makeRoom s) := by
  unfold makeRoom; split
  · exact .refl s
  · split
    · exact closeAt_entryStep _ s
    · exact .refl s

theorem openPool_entryStep (n : Fin 200) (x : Sighting) (s : State) : EntryStep s (openPool n x s) := by
  unfold openPool; simp only; split
  · exact (makeRoom_entryStep s).trans ((EntryStep.setPool _ _ _).trans (coverageTest_entryStep _ _))
  · exact makeRoom_entryStep s

theorem joinPool_entryStep (i : Fin 12) (e : PoolEntry) (x : Sighting) (s : State) : EntryStep s (joinPool i e x s) :=
  (EntryStep.setPool s i _).trans (coverageTest_entryStep i _)

theorem takeEnrolled_entryStep (n : Fin 200) (x : Sighting) (s : State) : EntryStep s (takeEnrolled n x s) := by
  unfold takeEnrolled; split
  · split
    · split
      · exact joinPool_entryStep _ _ _ s
      · split
        · exact (closeAt_entryStep _ s).trans (openPool_entryStep _ _ _)
        · exact .refl s
    · exact .refl s
  · split
    · split
      · exact openPool_entryStep _ _ s
      · exact .refl s
    · exact .refl s

theorem postBattery_combiner (n : Fin 200) (a b : BattLevel) (s : State) : (postBattery n a b s).combiner = s.combiner := by
  unfold postBattery; split
  · rfl
  · rw [(FloorStep.postChange _ _ _ _ _).combiner, (FloorStep.postChange _ _ _ _ _).combiner]

/-- An observation changes nothing in the pool. -/
theorem applyObservation_pool (n : Fin 200) (o : Observation) (s : State) : (applyObservation n o s).combiner.pool = s.combiner.pool := by
  unfold applyObservation; split
  · rfl
  · simp only
    rw [(floorTakes_floorStep _ _).combiner, (FloorStep.postChange _ _ _ _ _).combiner]
    split
    · rw [State.post_combiner, postBattery_combiner, (FloorStep.postChange _ _ _ _ _).combiner, State.setSlot_combiner]
    · rw [postBattery_combiner, (FloorStep.postChange _ _ _ _ _).combiner, State.setSlot_combiner]

/-- A closing empties its own position and no other. -/
theorem closeAt_pool (i j : Fin 12) (s : State) : (closeAt i s).combiner.pool[j] = if i = j then none else s.combiner.pool[j] := by
  unfold closeAt
  split
  · rw [applyObservation_pool, State.setPool_combiner, setAt_get]
  · rename_i h
    split
    · rename_i e; rw [← e, h]
    · rfl

end Sys2Proof.Machine
end

