-- ==== Sys2Proof/Laws/Modes.lean ====
section
/-! SUPPORT. Laws/Modes.lean: what a change of mode and a commit can change. -/

namespace Sys2Proof.Machine

theorem reportSitting_floorStep (old new : Mode) (n : Fin 200) (s : State) : FloorStep s (reportSitting old new n s) := by
  unfold reportSitting; split
  · exact .refl s
  · exact (FloorStep.postChange s _ _ _ _).trans (.postChange _ _ _ _ _)

/-- Entering SESSION is the change of mode and a step of the floor arbiter. -/
theorem enterSession_floorStep (s : State) : FloorStep (s.setMode .session) (enterSession s) := by
  unfold enterSession
  refine FloorStep.trans ?_ (followClaim_floorStep _)
  refine FloorStep.trans ?_ (FloorStep.forEach deriveHot_floorStep _)
  exact FloorStep.forEach (reportSitting_floorStep _ _) _

/-- Leaving SESSION is the change of mode and a step of the floor arbiter. -/
theorem leaveSession_floorStep (s : State) : FloorStep (s.setMode .recess) (leaveSession s) := by
  unfold leaveSession
  refine FloorStep.trans ?_ (FloorStep.post _ _ _)
  refine FloorStep.trans ?_ (floorLeavesSession_floorStep _)
  exact FloorStep.forEach (reportSitting_floorStep _ _) _

/-- The commit leaves everything but the lines, the engine and the count of open orders. -/
theorem commit_rest (s : State) : commit s = { s with
    engine := (commit s).engine, choice := (commit s).choice, lines := (commit s).lines } := by
  have hp : ∀ (t : State), ∃ p, forEach (fun m t => if s.lines.line[m].changes then t.postChange .lines (lampWarning m)
      s.lines.line[m].fault false else t) t = { t with engine := { t.engine with posted := p } } := by
    intro t
    refine forEach_induct (P := fun u => ∃ p, u = { t with engine := { t.engine with posted := p } }) t ⟨t.engine.posted, rfl⟩ ?_
    rintro m u ⟨p, rfl⟩
    split
    · unfold State.postChange
      split
      · exact ⟨p, rfl⟩
      · exact ⟨p ++ [_], rfl⟩
    · exact ⟨p, rfl⟩
  unfold commit
  simp only
  obtain ⟨p, hp⟩ := hp { s with lines := { s.lines with
    commitPending := false
    line := mapTable s.lines.line fun _ l => if l.changes then l.committed else l } }
  rw [hp]
  simp

end Sys2Proof.Machine
end

