-- ==== Sys2Proof/Laws/PerInstr.lean ====
section
/-! SUPPORT. Laws/PerInstr.lean: the family WireRoundTrip: a row that stands for an SPI command is read back from the bytes that
spell it (sections 11.4 to 11.8); a row that stands for an event has no bytes. One lemma a constructor. -/

namespace Sys2Proof.Laws

/-- A well-formed row is read back from its command code and parameter bytes, which are as many as its code takes. -/
def WireRoundTrip.Statement (i : Instr) : Prop :=
  WellFormed i = true → ∀ (code : Byte) (ps : List Byte), wireOf i = some (code, ps) → rowOf code ps = i ∧ ps.length = paramLength code

/-! ### Fields in and out of bytes -/

theorem word_of_bytes (w : BitVec 16) : (w.extractLsb' 8 8 ++ w.extractLsb' 0 8 : BitVec (8 + 8)) = w := by
  rw [BitVec.extractLsb'_append_extractLsb'_eq_extractLsb' (by rfl)]; simp

theorem unit_of_bytes (u : UnitId) :
    (u.extractLsb' 16 8 ++ u.extractLsb' 8 8 ++ u.extractLsb' 0 8 : BitVec (8 + 8 + 8)) = u := by
  rw [BitVec.extractLsb'_append_extractLsb'_eq_extractLsb' (by rfl),
    BitVec.extractLsb'_append_extractLsb'_eq_extractLsb' (by rfl)]; simp

theorem value_of_bytes (v : BitVec 32) :
    (v.extractLsb' 24 8 ++ v.extractLsb' 16 8 ++ v.extractLsb' 8 8 ++ v.extractLsb' 0 8 : BitVec (8 + 8 + 8 + 8)) = v := by
  rw [BitVec.extractLsb'_append_extractLsb'_eq_extractLsb' (by rfl),
    BitVec.extractLsb'_append_extractLsb'_eq_extractLsb' (by rfl),
    BitVec.extractLsb'_append_extractLsb'_eq_extractLsb' (by rfl)]; simp

theorem profile_of_bytes (n : Byte) (r : RawProfile) : paramProfile (n :: bytesOfProfile r) = r := by
  obtain ⟨vl, vc, ve, h, k, nd, nu, j⟩ := r
  have hh := word_of_bytes h
  have hj := word_of_bytes j
  simp only [paramProfile, paramWord, paramByte, bytesOfProfile, bytesOfWord]
  simpa using ⟨hh, hj⟩

theorem lineConfig_of_bytes (m : Byte) (r : RawLineConfig) : paramLineConfig (m :: bytesOfLineConfig r) = r := by
  obtain ⟨a, b, c, d, cs, e, f, g, h, i, j⟩ := r
  have hc := word_of_bytes cs
  simp only [paramLineConfig, paramWord, paramByte, bytesOfLineConfig, bytesOfWord]
  simpa using hc

/-- A row with no bytes has the property at once. -/
theorem WireRoundTrip.of_event {i : Instr} (h : wireOf i = none) : WireRoundTrip.Statement i := by
  intro _ code ps hw; rw [h] at hw; cases hw

/-- A row whose bytes are known is read back where its own bytes are. -/
theorem WireRoundTrip.of_command {i : Instr} {code : Byte} {ps : List Byte} (h : wireOf i = some (code, ps))
    (hr : WellFormed i = true → rowOf code ps = i) (hl : WellFormed i = true → ps.length = paramLength code) :
    WireRoundTrip.Statement i := by
  intro hi code' ps' hw
  rw [h] at hw; cases hw
  exact ⟨hr hi, hl hi⟩

/-! ### The 78 rows -/

theorem WireRoundTrip.deviceReset : Statement .deviceReset := of_event rfl

theorem WireRoundTrip.resetEnd : Statement .resetEnd := of_event rfl

theorem WireRoundTrip.frameComplete (p : Fin 4) (b : Byte) : Statement (.frameComplete p b) := of_event rfl

theorem WireRoundTrip.stopBitMissing (p : Fin 4) : Statement (.stopBitMissing p) := of_event rfl

theorem WireRoundTrip.byteGapTimeout (p : Fin 4) : Statement (.byteGapTimeout p) := of_event rfl

theorem WireRoundTrip.frameGapReject (p : Fin 4) : Statement (.frameGapReject p) := of_event rfl

theorem WireRoundTrip.answerSent (p : Fin 4) : Statement (.answerSent p) := of_event rfl

theorem WireRoundTrip.resyncIdle (p : Fin 4) : Statement (.resyncIdle p) := of_event rfl

theorem WireRoundTrip.warmUpEnd (p : Fin 4) : Statement (.warmUpEnd p) := of_event rfl

theorem WireRoundTrip.portSilenceExpiry (p : Fin 4) : Statement (.portSilenceExpiry p) := of_event rfl

theorem WireRoundTrip.frameTake : Statement .frameTake := of_event rfl

theorem WireRoundTrip.strangerAgeExpiry (i : Fin 8) : Statement (.strangerAgeExpiry i) := of_event rfl

theorem WireRoundTrip.poolWindowExpiry (i : Fin 12) : Statement (.poolWindowExpiry i) := of_event rfl

theorem WireRoundTrip.entryFading (n : Fin 200) : Statement (.entryFading n) := of_event rfl

theorem WireRoundTrip.entryLost (n : Fin 200) : Statement (.entryLost n) := of_event rfl

theorem WireRoundTrip.sweepVisit : Statement .sweepVisit := of_event rfl

theorem WireRoundTrip.silentExpiry (k : Fin 6) : Statement (.silentExpiry k) := of_event rfl

theorem WireRoundTrip.hotDelayReached (n : Fin 200) : Statement (.hotDelayReached n) := of_event rfl

theorem WireRoundTrip.silenceInputChange (high : Bool) : Statement (.silenceInputChange high) := of_event rfl

theorem WireRoundTrip.silenceDebounceExpiry : Statement .silenceDebounceExpiry := of_event rfl

theorem WireRoundTrip.blinkBoundary : Statement .blinkBoundary := of_event rfl

theorem WireRoundTrip.holdExpiry (m : Fin 16) : Statement (.holdExpiry m) := of_event rfl

theorem WireRoundTrip.senseInputChange (m : Fin 16) (high : Bool) : Statement (.senseInputChange m high) := of_event rfl

theorem WireRoundTrip.lampFaultDetected (m : Fin 16) : Statement (.lampFaultDetected m) := of_event rfl

theorem WireRoundTrip.lampFaultCleared (m : Fin 16) : Statement (.lampFaultCleared m) := of_event rfl

theorem WireRoundTrip.csNFall : Statement .csNFall := of_event rfl

theorem WireRoundTrip.csNRise : Statement .csNRise := of_event rfl

theorem WireRoundTrip.waitingCommandStart : Statement .waitingCommandStart := of_event rfl

theorem WireRoundTrip.commandRefusedBusy (b : Byte) : Statement (.commandRefusedBusy b) := of_event rfl

theorem WireRoundTrip.enrol (unit : UnitId) (seat group profile : Byte) : Statement (.enrol unit seat group profile) :=
  of_command rfl (fun _ => congrArg (Instr.enrol · seat group profile) (unit_of_bytes unit)) fun _ => rfl

theorem WireRoundTrip.enrolStranger (position seat group profile : Byte) : Statement (.enrolStranger position seat group profile) :=
  of_command rfl (fun _ => rfl) fun _ => rfl

theorem WireRoundTrip.retire (entry : Byte) : Statement (.retire entry) := of_command rfl (fun _ => rfl) fun _ => rfl

theorem WireRoundTrip.findUnit (unit : UnitId) : Statement (.findUnit unit) :=
  of_command rfl (fun _ => congrArg Instr.findUnit (unit_of_bytes unit)) fun _ => rfl

theorem WireRoundTrip.findSeat (seat : Byte) : Statement (.findSeat seat) := of_command rfl (fun _ => rfl) fun _ => rfl

theorem WireRoundTrip.readEntry (entry : Byte) : Statement (.readEntry entry) := of_command rfl (fun _ => rfl) fun _ => rfl

theorem WireRoundTrip.amendEntry (entry seat group profile : Byte) : Statement (.amendEntry entry seat group profile) :=
  of_command rfl (fun _ => rfl) fun _ => rfl

theorem WireRoundTrip.grantFloor (entry : Byte) : Statement (.grantFloor entry) := of_command rfl (fun _ => rfl) fun _ => rfl

theorem WireRoundTrip.revokeFloor (entry : Byte) : Statement (.revokeFloor entry) :=
  of_command rfl (fun _ => rfl) fun _ => rfl

theorem WireRoundTrip.setFloorCapacity (capacity : Byte) : Statement (.setFloorCapacity capacity) :=
  of_command rfl (fun _ => rfl) fun _ => rfl

theorem WireRoundTrip.mute (entry : Byte) : Statement (.mute entry) := of_command rfl (fun _ => rfl) fun _ => rfl

theorem WireRoundTrip.unmute (entry : Byte) : Statement (.unmute entry) := of_command rfl (fun _ => rfl) fun _ => rfl

theorem WireRoundTrip.muteAll : Statement .muteAll := of_command rfl (fun _ => rfl) fun _ => rfl

theorem WireRoundTrip.unmuteAll : Statement .unmuteAll := of_command rfl (fun _ => rfl) fun _ => rfl

theorem WireRoundTrip.setChair (entry : Byte) : Statement (.setChair entry) := of_command rfl (fun _ => rfl) fun _ => rfl

theorem WireRoundTrip.readAttention (position : Byte) : Statement (.readAttention position) :=
  of_command rfl (fun _ => rfl) fun _ => rfl

theorem WireRoundTrip.acknowledge (kind index cls : Byte) (stamp : Stamp) : Statement (.acknowledge kind index cls stamp) :=
  of_command rfl (fun _ => congrArg (Instr.acknowledge kind index cls ·) (word_of_bytes stamp)) fun _ => rfl

theorem WireRoundTrip.ackListed : Statement .ackListed := of_command rfl (fun _ => rfl) fun _ => rfl

theorem WireRoundTrip.readStrangers : Statement .readStrangers := of_command rfl (fun _ => rfl) fun _ => rfl

theorem WireRoundTrip.readPort (port : Byte) : Statement (.readPort port) := of_command rfl (fun _ => rfl) fun _ => rfl

theorem WireRoundTrip.enablePortOn (port : Byte) : Statement (.enablePortOn port) :=
  of_command rfl (fun _ => rfl) fun _ => rfl

theorem WireRoundTrip.enablePortOff (port value : Byte) : Statement (.enablePortOff port value) := by
  refine of_command rfl (fun h => ?_) fun _ => rfl
  simp only [WellFormed, bne_iff_ne, ne_eq] at h
  show enableRow port value = _
  unfold enableRow
  split
  · rename_i hv; exact absurd (BitVec.eq_of_toNat_eq (by simpa using hv)) h
  · rfl

theorem WireRoundTrip.setProfile (profile : Byte) (fields : RawProfile) : Statement (.setProfile profile fields) :=
  of_command rfl (fun _ => congrArg (Instr.setProfile profile ·) (profile_of_bytes profile fields)) fun _ => rfl

theorem WireRoundTrip.readProfile (profile : Byte) : Statement (.readProfile profile) :=
  of_command rfl (fun _ => rfl) fun _ => rfl

theorem WireRoundTrip.setPortSilenceTime (value : BitVec 32) : Statement (.setPortSilenceTime value) :=
  of_command rfl (fun _ => congrArg Instr.setPortSilenceTime (value_of_bytes value)) fun _ => rfl

theorem WireRoundTrip.setCombiningWindow (value : BitVec 32) : Statement (.setCombiningWindow value) :=
  of_command rfl (fun _ => congrArg Instr.setCombiningWindow (value_of_bytes value)) fun _ => rfl

theorem WireRoundTrip.setLostTime (value : BitVec 32) : Statement (.setLostTime value) :=
  of_command rfl (fun _ => congrArg Instr.setLostTime (value_of_bytes value)) fun _ => rfl

theorem WireRoundTrip.setSignalFloor (value : BitVec 32) : Statement (.setSignalFloor value) :=
  of_command rfl (fun _ => congrArg Instr.setSignalFloor (value_of_bytes value)) fun _ => rfl

theorem WireRoundTrip.setSmoothingShift (value : BitVec 32) : Statement (.setSmoothingShift value) :=
  of_command rfl (fun _ => congrArg Instr.setSmoothingShift (value_of_bytes value)) fun _ => rfl

theorem WireRoundTrip.setWeakThreshold (value : BitVec 32) : Statement (.setWeakThreshold value) :=
  of_command rfl (fun _ => congrArg Instr.setWeakThreshold (value_of_bytes value)) fun _ => rfl

theorem WireRoundTrip.setPoorThreshold (value : BitVec 32) : Statement (.setPoorThreshold value) :=
  of_command rfl (fun _ => congrArg Instr.setPoorThreshold (value_of_bytes value)) fun _ => rfl

theorem WireRoundTrip.setSilentTime (value : BitVec 32) : Statement (.setSilentTime value) :=
  of_command rfl (fun _ => congrArg Instr.setSilentTime (value_of_bytes value)) fun _ => rfl

theorem WireRoundTrip.setAutoRevoke (value : BitVec 32) : Statement (.setAutoRevoke value) :=
  of_command rfl (fun _ => congrArg Instr.setAutoRevoke (value_of_bytes value)) fun _ => rfl

theorem WireRoundTrip.setHotDelay (value : BitVec 32) : Statement (.setHotDelay value) :=
  of_command rfl (fun _ => congrArg Instr.setHotDelay (value_of_bytes value)) fun _ => rfl

theorem WireRoundTrip.setPriorityFunction (value : BitVec 32) : Statement (.setPriorityFunction value) :=
  of_command rfl (fun _ => congrArg Instr.setPriorityFunction (value_of_bytes value)) fun _ => rfl

theorem WireRoundTrip.setPendingType (item : Byte) (value : BitVec 32) : Statement (.setPendingType item value) := by
  refine of_command rfl (fun h => ?_) fun _ => rfl
  simp only [WellFormed, pendingItemNumber, Bool.or_eq_true, Bool.and_eq_true, decide_eq_true_eq, beq_iff_eq] at h
  show tuningRow item (paramValue (item :: bytesOfValue value) 1) = _
  rw [show paramValue (item :: bytesOfValue value) 1 = value from value_of_bytes value]
  unfold tuningRow
  split <;> first | rfl | omega

theorem WireRoundTrip.setIrqMask (value : BitVec 32) : Statement (.setIrqMask value) :=
  of_command rfl (fun _ => congrArg Instr.setIrqMask (value_of_bytes value)) fun _ => rfl

theorem WireRoundTrip.readTuning (item : Byte) : Statement (.readTuning item) := of_command rfl (fun _ => rfl) fun _ => rfl

theorem WireRoundTrip.stageLine (line : Byte) (config : RawLineConfig) : Statement (.stageLine line config) :=
  of_command rfl (fun _ => congrArg (Instr.stageLine line ·) (lineConfig_of_bytes line config)) fun _ => rfl

theorem WireRoundTrip.applyLines : Statement .applyLines := of_command rfl (fun _ => rfl) fun _ => rfl

theorem WireRoundTrip.readLine (line : Byte) : Statement (.readLine line) := of_command rfl (fun _ => rfl) fun _ => rfl

theorem WireRoundTrip.setModeRecess (value : Byte) : Statement (.setModeRecess value) := by
  refine of_command rfl (fun h => ?_) fun _ => rfl
  simp only [WellFormed, Bool.and_eq_true, bne_iff_ne, ne_eq] at h
  show modeRow value = _
  unfold modeRow
  split
  · rename_i hv; exact absurd (BitVec.eq_of_toNat_eq (by simpa using hv)) h.1
  · rename_i hv; exact absurd (BitVec.eq_of_toNat_eq (by simpa using hv)) h.2
  · rfl

theorem WireRoundTrip.setModeSession : Statement .setModeSession := of_command rfl (fun _ => rfl) fun _ => rfl

theorem WireRoundTrip.setModeDormant : Statement .setModeDormant := of_command rfl (fun _ => rfl) fun _ => rfl

theorem WireRoundTrip.readStatus : Statement .readStatus := of_command rfl (fun _ => rfl) fun _ => rfl

theorem WireRoundTrip.chamberReset : Statement .chamberReset := of_command rfl (fun _ => rfl) fun _ => rfl

theorem WireRoundTrip.unknownCommand (code : Byte) : Statement (.unknownCommand code) := by
  refine of_command rfl (fun h => ?_) fun h => ?_
  · simp only [WellFormed, knownCode, Bool.not_eq_true', Option.isSome_eq_false_iff, Option.isNone_iff_eq_none] at h
    unfold commandInfo at h
    unfold rowOf
    split at h <;> first | rfl | cases h
  · simp only [WellFormed, knownCode, Bool.not_eq_true', Option.isSome_eq_false_iff, Option.isNone_iff_eq_none] at h
    simp [paramLength, h]

theorem WireRoundTrip.characterComplete (p : Fin 4) (b : Byte) : Statement (.characterComplete p b) := of_event rfl

theorem WireRoundTrip.byteComplete (b : Byte) : Statement (.byteComplete b) := of_event rfl

end Sys2Proof.Laws
end

