-- ==== Sys2Proof/Tests/Slice0.lean ====
section
/-! SUPPORT. Tests/Slice0.lean: the well-formedness smoke test, the spec's worked examples and tables, words written out from the
spec's encodings, and for every obligation with hypotheses a concrete state and operands that meet them (the theorems named
witness_…, each after the obligation it belongs to). -/

namespace Sys2Proof.Tests
open Sys2Proof.Machine

-- One theorem is checked at a time: many at once would take more threads than the memory limit gives.
set_option Elab.async false

/-! ### Small states -/

/-- The state a row leaves. -/
def after (i : Instr) (s : State) : State := match exec i s with
  | .next t => t
  | .fault _ => s
  | .refused _ => s

/-- The status of the reply a row forms. -/
def status (i : Instr) (s : State) : Option Status := (after i s).command.lastReply.map (·.status)

/-- A LIVE entry with its talk key on: Unit ID 0x000101, seat 12, group 2, profile 1. -/
def alice : Entry := { Entry.fresh 0x000101 12 2 1 with
  presence := .live, interval := some .fast, lastBeacon := some 7, switch := .opened }

/-- Another: Unit ID 0x000102, seat 13. -/
def bob : Entry := { Entry.fresh 0x000102 13 2 1 with
  presence := .live, interval := some .fast, lastBeacon := some 7, switch := .opened }

/-- After reset, with one entry in slot 3. -/
def one : State := State.reset.setSlot 3 (some alice)

/-- After reset, with entries in slots 3 and 4. -/
def two : State := one.setSlot 4 (some bob)

/-- The same in SESSION. -/
def sitting : State := two.setMode .session

/-- Slot 0 of the live floor held by entry 3, who is speaking. -/
def speaking : State := sitting.setLive 0 (some ⟨3, 8000, true, false⟩)

/-- A part in DORMANT. -/
def asleep : State := stopClock two

/-- A part held in reset. -/
def held : State := deviceReset two

/-- A stranger record. -/
def stranger : Stranger := ⟨0x000200, -60, 1, 0, 1⟩

/-- A payload: cell code 500, talk switch open, FAST. -/
def payload : Payload := ⟨500, true, true, false⟩

/-- A sighting of entry 3 by port 1. -/
def sighting (beacon : Byte) : Sighting := ⟨1, 0x000101, beacon, -60, false, payload⟩

/-- An open pool entry of entry 3, heard by port 0. -/
def pooled : PoolEntry := ⟨3, 8, 5, #v[some ⟨-70, false⟩, none, none, none], -70, payload, false⟩

/-- A valid KEEPALIVE of unit 0x000101: kind, Unit ID, five bytes, check byte (section 11.1). -/
def keepalive : List Byte := [0x6B, 0x00, 0x01, 0x01, 0x00, 0x00, 0x00, 0x00, 0x00, 0x93]

/-- A valid SIGHTING of unit 0x000101: beacon 8, cell 500 (0x7D, 00), switch open and FAST (0x30), magnitude 60, no errors. -/
def sightingFrame : List Byte := [0x61, 0x00, 0x01, 0x01, 0x08, 0x7D, 0x30, 0x3C, 0x00, 0xAC]

/-- One LATCHED warning RAISED and listed. -/
def lostWarning : WarnId := ⟨.entry 3, .sigLost⟩

/-- An engine with that warning. -/
def warned : Engine := ⟨[⟨lostWarning, .raised, 1⟩], [lostWarning], 1, []⟩

theorem ready_reset : Ready State.reset := ⟨rfl, by decide⟩
theorem ready_one : Ready one := ⟨rfl, by decide⟩
theorem ready_two : Ready two := ⟨rfl, by decide⟩
theorem ready_sitting : Ready sitting := ⟨rfl, by decide⟩
theorem ready_speaking : Ready speaking := ⟨rfl, by decide⟩
theorem ticking_one : Ticking one := ⟨rfl, rfl⟩
theorem ticking_sitting : Ticking sitting := ⟨rfl, rfl⟩

/-- A table that is empty but for one place. -/
theorem only_get {α : Type} {n : Nat} {i j : Fin n} {x y : α}
    (h : (setAt (Vector.replicate n none) i (some x))[j] = some y) : j = i ∧ y = x := by
  rw [setAt_get] at h
  split at h
  · rename_i e; cases h; exact ⟨e.symm, rfl⟩
  · simp at h

theorem one_roster {j : Fin 200} {y : Entry} (h : one.roster[j] = some y) : j = 3 ∧ y = alice := only_get h

/-! ### WellFormed refuses each row whose operand names another row -/

theorem test_wf_enable_off_with_on : WellFormed (.enablePortOff 0 1) = false := by decide
theorem test_wf_recess_with_session : WellFormed (.setModeRecess 1) = false := by decide
theorem test_wf_recess_with_dormant : WellFormed (.setModeRecess 2) = false := by decide
theorem test_wf_pending_type_with_other_item : WellFormed (.setPendingType 18 0) = false ∧ WellFormed (.setPendingType 1 0) = false := by
  decide
theorem test_wf_unknown_with_known_code : WellFormed (.unknownCommand 0x71) = false := by decide
theorem test_wf_accepts : WellFormed (.enablePortOff 0 0) ∧ WellFormed (.setModeRecess 0) ∧ WellFormed (.setPendingType 12 0) ∧
    WellFormed (.unknownCommand 0x00) := by decide

/-! ### Commands written out from section 11.4 and 11.8, byte by byte -/

theorem test_enrol_bytes : rowOf 0x10 [0x12, 0x34, 0x56, 0x0C, 0x02, 0x01] = .enrol 0x123456 12 2 1 := by decide
theorem test_acknowledge_bytes : rowOf 0x31 [0x03, 0xC7, 0x04, 0x01, 0x02] = .acknowledge 3 199 4 0x0102 := by decide
theorem test_set_mode_bytes :
    rowOf 0x70 [0] = .setModeRecess 0 ∧ rowOf 0x70 [1] = .setModeSession ∧ rowOf 0x70 [2] = .setModeDormant := by decide
theorem test_enable_port_bytes : rowOf 0x42 [3, 1] = .enablePortOn 3 ∧ rowOf 0x42 [3, 0] = .enablePortOff 3 0 := by decide
theorem test_set_profile_bytes : rowOf 0x50 [1, 12, 8, 4, 0x00, 0x50, 2, 3, 5, 0x01, 0x2C] =
    .setProfile 1 ⟨12, 8, 4, 80, 2, 3, 5, 300⟩ := by decide
theorem test_tuning_items : rowOf 0x52 [4, 0xFF, 0xFF, 0xFF, 0xA4] = .setSignalFloor (-92) ∧
    rowOf 0x52 [12, 0, 0, 0, 1] = .setPendingType 12 1 ∧ rowOf 0x52 [18, 0, 0, 1, 0xFF] = .setIrqMask 0x1FF := by decide
theorem test_stage_line_bytes : rowOf 0x60 [5, 2, 0, 1, 3, 0x00, 0x11, 1, 3, 0, 25, 1, 0] =
    .stageLine 5 ⟨2, 0, 1, 3, 0x0011, 1, 3, 0, 25, 1, 0⟩ := by decide
theorem test_unknown_code : rowOf 0x73 [] = .unknownCommand 0x73 := by decide
theorem test_table_gives_no_bits : decodeTableWord 0 0 = none ∧ State.reset.withFetchWord 8 0x71 = State.reset := ⟨rfl, rfl⟩

/-! ### Worked examples of the spec -/

/-- The table of R19: magnitude, errors, strength. -/
theorem test_strength_examples : effectiveStrength 78 4 = -82 ∧ effectiveStrength 80 0 = -80 ∧ effectiveStrength 12 9 = -34 ∧
    effectiveStrength 125 15 = -136 ∧ effectiveStrength 95 3 = -97 := by decide

/-- The table of R71: d and step under k = 2. -/
theorem test_filter_examples : filterStep 2 (-40) = -10 ∧ filterStep 2 (-45) = -11 ∧ filterStep 2 6 = 2 ∧ filterStep 2 (-1) = 0 ∧
    filterStep 2 210 = 53 := by decide

/-- R60: the four voltages that the rule names. -/
theorem test_code_voltages : codeVoltage 0 = 2000 ∧ codeVoltage 15 = 2750 ∧ codeVoltage 16 = 2800 ∧ codeVoltage 31 = 4300 := by decide

/-- R83: a Pt of 45 is clamped to 39 and then refused with W at 12, and stored with W at 40. -/
theorem test_poor_threshold_example : status (.setPoorThreshold 45) State.reset = some .badArg ∧
    status (.setPoorThreshold 45) (State.reset.setTuning { Tuning.defaults with weak := 40 }) = some .adjusted := by decide +kernel

/-- R173: a controller that wrote 1550 ms to the port silence time reads 1500 ms. -/
theorem test_silence_time_example :
    (after (.readTuning 1) (after (.setPortSilenceTime 1550) State.reset)).command.lastReply = some ⟨.ok, [0, 0, 0x05, 0xDC]⟩ := by
  decide +kernel

/-- R145: FAST is lit in the even eighths of the cycle, SLOW in its first half. -/
theorem test_patterns : fastLit 0 = true ∧ fastLit 124 = true ∧ fastLit 125 = false ∧ fastLit 250 = true ∧ fastLit 999 = false ∧
    slowLit 499 = true ∧ slowLit 500 = false := by decide

/-- R26 and section 2.5: 1 to 127 ahead is new. -/
theorem test_beacon_ahead : beaconAhead 1 0 = true ∧ beaconAhead 127 0 = true ∧ beaconAhead 128 0 = false ∧ beaconAhead 5 250 = true ∧
    beaconAhead 7 7 = false := by decide

/-- Section 11.1: the two frames above are valid, a flipped check byte is not, nor a unit of all ones. -/
theorem test_frames : validFrame keepalive = true ∧ validFrame sightingFrame = true ∧
    validFrame [0x61, 0x00, 0x01, 0x01, 0x08, 0x7D, 0x30, 0x3C, 0x00, 0xAD] = false ∧
    validFrame [0x61, 0xFF, 0xFF, 0xFF, 0x00, 0x00, 0x00, 0x00, 0x00, 0xA2] = false := by decide

/-- Section 11.1: what that SIGHTING carries. -/
theorem test_sighting_fields : sightingOf 1 ⟨sightingFrame, false⟩ = sighting 8 := by decide

/-- Section 11.6: the status record right after reset. -/
theorem test_status_record : State.reset.statusRecord = [0, 0, 0, 0, 0, 0xFF, 0, 0, 0x4D, 0x04, 0x16, 0x01] := by decide +kernel

/-- Section 11.5: the record of an entry is 57 bytes, and its floor place and talk flag follow the floor. -/
theorem test_entry_record : (speaking.entryRecord 3 alice).length = 57 ∧
    (speaking.entryRecord 3 alice).take 14 = [0, 1, 1, 12, 2, 1, 0, 0, 1, 0, 7, 1, 8, 0] := by decide +kernel

/-! ### Witnesses: the step, the clock, the reset, the modes -/

/-- Port 0 at the end of its warm-up. -/
def warmed : State := one.setPort 0 { one.ports[(0 : Fin 4)] with warmUp := 2000 }

theorem witness_EmptyQueueActsByItself :
    (warmed.pending = [] ∧ warmed.inReset = false ∧ warmed.due.flatten = [.warmUpEnd 0]) ∧
    (held.pending = [] ∧ held.inReset = true) := by decide +kernel

theorem witness_EmptyQueueActsByItself_stopped :
    asleep.pending = [] ∧ asleep.inReset = false ∧ asleep.due.flatten = [] ∧ asleep.clockRunning = false := by decide +kernel

theorem witness_EmptyQueueActsByItself_running :
    one.pending = [] ∧ one.inReset = false ∧ one.due.flatten = [] ∧ one.clockRunning = true := by decide +kernel

/-- R8, R18, R169: a limit reached, a frame offered and a waiting command are due; nothing on a stopped clock is (R157). -/
theorem test_due_rows : Instr.warmUpEnd 0 ∈ warmed.due.flatten ∧ Instr.warmUpEnd 0 ∉ (stopClock warmed).due.flatten ∧
    Instr.frameTake ∈ (warmed.setPort 1 { warmed.ports[(1 : Fin 4)] with inbox := [⟨keepalive, false⟩] }).due.flatten ∧
    Instr.waitingCommandStart ∈ ({ one with command := { one.command with
      inProgress := some ⟨0x71, [], true, true⟩, waiting := some ⟨0x72, [], false, false⟩ } } : State).due.flatten ∧
    Instr.readStatus ∈ ({ asleep with command := { asleep.command with inProgress := some ⟨0x71, [], true, false⟩ } } : State).due.flatten := by
  decide +kernel

/-- Timers of every kind running, each one below its top. -/
def busy : State := ((((speaking.setSlot 4 (some { bob with hot := some ⟨4999, true⟩, age := 65534 })).setPool 0 (some pooled)).setStranger 0
  (some { stranger with age := 9999 })).setLive 1 (some ⟨4, 1, false, false⟩)).setLine 0 { Line.reset false with hold := 1, active := true }

theorem witness_MillisecondCountsTheTimers : busy.combiner.strangers[(0 : Fin 8)] = some { stranger with age := 9999 } ∧
    busy.combiner.pool[(0 : Fin 12)] = some pooled ∧
    busy.roster[(4 : Fin 200)] = some { bob with hot := some ⟨4999, true⟩, age := 65534 } ∧
    busy.floor.live[(1 : Fin 6)] = some ⟨4, 1, false, false⟩ ∧
    busy.lines.line[(0 : Fin 16)].source = busy.sourceState busy.lines.line[(0 : Fin 16)].live.source ∧
    (busy.lines.line[(0 : Fin 16)].source = true → busy.lines.line[(0 : Fin 16)].active = true) := by decide +kernel

/-- Line 0 lit SLOW with its input against its drive, at a phase; line 1 lit steadily without sense check. -/
def lit (phase : Nat) : State := { one with
  sweep := some ⟨1, 0⟩
  lines := { one.lines with
    phase := phase
    line := setAt (setAt one.lines.line 0 { Line.reset false with
      live := ⟨.on, .slow, .activeHigh, 0, .ms1, true⟩, source := true, active := true, disagree := 49 })
      1 { Line.reset false with live := ⟨.on, .steady, .activeHigh, 0, .ms1, false⟩, source := true, active := true } } }

theorem witness_MillisecondCountsTheTimers_sense :
    ((lit 3).lines.line[(0 : Fin 16)].live.senseCheck = true ∧ (lit 3).lineLit (lit 3).lines.line[(0 : Fin 16)] = true ∧
      (tick (lit 3)).lineLit (tick (lit 3)).lines.line[(0 : Fin 16)] = true ∧
      (lit 3).lines.line[(0 : Fin 16)].sense ≠ (lit 3).lineDriven (lit 3).lines.line[(0 : Fin 16)] ∧
      (tick (lit 3)).lines.line[(0 : Fin 16)].disagree = 50) ∧
    ((tick (lit 499)).lineLit (tick (lit 499)).lines.line[(0 : Fin 16)] = false ∧
      (tick (lit 499)).lines.line[(0 : Fin 16)].disagree = 0 ∧ (lit 499).lines.line[(1 : Fin 16)].live.senseCheck = false) ∧
    ((tick (lit 3)).sweepDue = true ∧ 125 ∣ ((lit 499).lines.phase + 1) % 1000 ∧ (tick (lit 999)).lines.boundaryDue = true) := by
  decide +kernel

theorem test_tick_tops : (tick (tick busy)).combiner.strangers[(0 : Fin 8)] = some { stranger with age := 10000 } ∧
    ((tick (tick busy)).roster[(4 : Fin 200)].map fun e => (e.age, e.hot)) = some (65535, some ⟨5000, true⟩) ∧
    (tick (tick busy)).floor.live[(1 : Fin 6)] = some ⟨4, 0, false, false⟩ ∧ (tick (tick busy)).lines.line[(0 : Fin 16)].hold = 0 := by
  decide +kernel

theorem witness_HandlingEndsWithReportsAndLines : one.engine.posted = [] ∧
    (one.post .roster (.report lostWarning true)).engine.posted = [⟨.roster, .report lostWarning true⟩] ∧
    one.hasSubject lostWarning.subject = true := by decide +kernel

theorem witness_HandlingEndsWithReportsAndLines_subjects :
    (∀ n : Fin 200, lostWarning.subject = .entry n → one.roster[n].isSome) ∧
    (⟨.entry 4, .sigLost⟩ : WarnId).subject = .entry 4 ∧ one.roster[(4 : Fin 200)] = none := by
  refine ⟨fun n h => ?_, rfl, by decide +kernel⟩
  cases h; decide +kernel

theorem witness_DeviceResetHoldsAndStartsThePart : held.inReset = true ∧ Instr.readStatus ≠ .deviceReset ∧
    Instr.readStatus ≠ .resetEnd ∧ Instr.readStatus ≠ .csNFall ∧ Instr.readStatus ≠ .csNRise ∧
    (∀ b, Instr.readStatus ≠ .silenceInputChange b) ∧ ∀ m b, Instr.readStatus ≠ .senseInputChange m b := by
  refine ⟨rfl, by decide, by decide, by decide, by decide, by simp, by simp⟩

theorem witness_WakesComeFirst : IsCommand .readStatus ∧ Instr.readStatus ≠ .setModeDormant ∧ asleep.inReset = false ∧
    asleep.mode = .dormant := ⟨by unfold IsCommand; decide, by decide, rfl, rfl⟩

theorem witness_ModesChangeAsCommanded : sitting.inReset = false ∧ sitting.mode = .session ∧ one.mode = .recess ∧
    asleep.mode = .dormant ∧ asleep.inReset = false ∧ (1 : Byte) ≠ 0 ∧ sitting.engine.posted = [] ∧
    exec (.setModeRecess 0) sitting = .next (after (.setModeRecess 0) sitting) ∧
    exec .setModeDormant sitting = .next (after .setModeDormant sitting) :=
  ⟨rfl, rfl, rfl, rfl, rfl, by decide, rfl, rfl, rfl⟩

theorem test_dormant_reached : (after .setModeDormant one).mode = .dormant := by decide +kernel

theorem test_woken : (after (.readPort 0) asleep).mode = .recess := by decide +kernel

theorem witness_ChamberResetKeepsTheConfiguration : Ready speaking ∧ (after .chamberReset speaking).roster[(3 : Fin 200)] =
    some (Entry.fresh 0x000101 12 2 1) := ⟨ready_speaking, by decide +kernel⟩

/-! ### Witnesses: the command port -/

theorem witness_CommandsAndTheirBytesAgree : WellFormed (.enrol 0x123456 250 7 3) = true ∧
    wireOf (.enrol 0x123456 250 7 3) = some (0x10, [0x12, 0x34, 0x56, 0xFA, 0x07, 0x03]) ∧
    ([0x12, 0x34, 0x56, 0xFA, 0x07, 0x03] : List Byte).length = paramLength 0x10 ∧ ([] : List Byte).length = paramLength 0xFF := by
  decide

/-- A transaction open, with the given bytes collected. -/
def collecting (bytes : List Byte) : State :=
  { one with command := { one.command with csLow := true, phase := .collecting, collected := bytes } }

/-- A command not yet carried out. -/
def waitingTaken : Taken := ⟨0x72, [], false, false⟩

/-- Both places of the command port full. -/
def bothFull : State := { collecting [] with command := { (collecting []).command with
  inProgress := some { waitingTaken with done := true }, waiting := some waitingTaken } }

/-- One place of the command port full. -/
def oneFull : State := { collecting [] with command := { (collecting []).command with inProgress := some ⟨0x71, [], true, false⟩ } }

theorem witness_ReplyIsClockedOut :
    ({ oneFull.command with phase := .awaiting } : CommandPort).phase = .awaiting ∧
    ({ oneFull.command with phase := .awaiting } : CommandPort).reply = none ∧
    ({ oneFull.command with phase := .awaiting, reply := some ⟨.ok, [7]⟩ } : CommandPort).reply = some ⟨.ok, [7]⟩ ∧
    ([0, 0, 0] : List Byte).length = ([7] : List Byte).length + 2 := by decide +kernel

theorem test_reply_stream :
    misoStream { oneFull.command with phase := .awaiting, reply := some ⟨.adjusted, [7, 8]⟩ } [0, 0, 0, 0, 0] =
      [some 0xA5, some 0x01, some 7, some 8, some 0xFF] := by decide

theorem witness_TransactionsTakeCommands :
    (one.inReset = false ∧ one.command.csLow = false ∧ (collecting []).command.csLow = true) ∧
    ((collecting [0x10]).command.phase = .collecting ∧ (collecting [0x10]).command.collected ++ [1] = 0x10 :: [1] ∧
      knownCode 0x10 = true ∧ ([1] : List Byte).length ≠ paramLength 0x10) ∧
    ((collecting []).command.collected ++ [0xFF] = 0xFF :: [] ∧ knownCode 0xFF = false ∧ (collecting []).command.inProgress = none) ∧
    ((collecting [0x12]).command.collected ++ [5] = 0x12 :: [5] ∧ ([5] : List Byte).length = paramLength 0x12) ∧
    (oneFull.command.inProgress.isSome ∧ oneFull.command.waiting = none ∧ oneFull.command.phase = .collecting) ∧
    (bothFull.command.inProgress.isSome ∧ bothFull.command.waiting.isSome ∧ bothFull.command.phase = .collecting) ∧
    (bothFull.command.inProgress = some { waitingTaken with done := true } ∧ bothFull.command.waiting = some waitingTaken) := by
  decide +kernel

theorem witness_ReplyGoesToItsOwnTransaction : oneFull.command.inProgress = some ⟨0x71, [], true, false⟩ ∧ rowOf 0x71 [] = .readStatus ∧
    one.command.inProgress = none := by decide +kernel

theorem witness_RepliesHaveTheirFixedLength : WellFormed .readStatus = true ∧ wireOf .readStatus = some (0x71, []) ∧
    one.inReset = false ∧ exec .readStatus one = .next (after .readStatus one) := ⟨rfl, rfl, rfl, rfl⟩

theorem witness_EntryCommandsRefuseOtherNumbers : Ready one ∧ 200 ≤ (200 : Byte).toNat ∧ (200 : Byte) ≠ 0xFF ∧
    (199 : Byte).toNat = (199 : Fin 200).1 ∧ one.roster[(199 : Fin 200)] = none := ⟨ready_one, by decide +kernel⟩

/-! ### Witnesses: the antenna ports -/

/-- Port 0 receiving, with the given bytes. -/
def receiving (bytes : List Byte) : State :=
  one.setPort 0 { one.ports[(0 : Fin 4)] with rx := .receiving, frame := bytes }

/-- Port 0 SILENT and receiving, its inbox full. -/
def crowded : State := (receiving (keepalive.take 9)).setPort 0 { (receiving (keepalive.take 9)).ports[(0 : Fin 4)] with
  state := .silent, inbox := [⟨keepalive, false⟩, ⟨keepalive, false⟩] }

theorem witness_FramesAreJudgedAndAnswered :
    ((receiving (keepalive.take 9)).inReset = false ∧ (receiving (keepalive.take 9)).ports[(0 : Fin 4)].enabled = true ∧
      (receiving (keepalive.take 9)).ports[(0 : Fin 4)].rx = .receiving ∧
      (receiving (keepalive.take 9)).ports[(0 : Fin 4)].frame.length = 9 ∧
      (receiving (keepalive.take 9)).ports[(0 : Fin 4)].state ≠ .silent ∧ (receiving (keepalive.take 9)).mode ≠ .dormant ∧
      (receiving (keepalive.take 9)).ports[(0 : Fin 4)].inbox.length < 2) ∧
    validFrame (keepalive.take 9 ++ [0x93]) = true ∧ validFrame (keepalive.take 9 ++ [0x92]) = false ∧
    (crowded.ports[(0 : Fin 4)].state = .silent ∧ 2 ≤ crowded.ports[(0 : Fin 4)].inbox.length ∧
      crowded.ports[(0 : Fin 4)].frame = keepalive.take 9 ∧ (stopClock crowded).mode = .dormant) := by decide +kernel

theorem test_answers : (after (.frameComplete 0 0x93) (receiving (keepalive.take 9))).ports[(0 : Fin 4)].answer = some .taken ∧
    (after (.frameComplete 0 0x92) (receiving (keepalive.take 9))).ports[(0 : Fin 4)].answer = some .reject ∧
    (after (.frameComplete 0 0x93) crowded).ports[(0 : Fin 4)].answer = some .hold ∧
    (after (.frameComplete 0 0x93) (stopClock crowded)).ports[(0 : Fin 4)].answer = some .wake ∧
    (after (.frameComplete 0 0x93) (stopClock crowded)).mode = .recess := by decide +kernel

/-- Port 0 with its receiver in a state. -/
def withRx (x : RxState) : State := one.setPort 0 { one.ports[(0 : Fin 4)] with rx := x }

theorem witness_ReceiverMovesWithItsLine : (withRx .listening).ports[(0 : Fin 4)].rx = .listening ∧
    (withRx .listening).ports[(0 : Fin 4)].enabled = true ∧
    ((receiving [0x61]).ports[(0 : Fin 4)].rx = .receiving ∧ (receiving [0x61]).ports[(0 : Fin 4)].frame ≠ [] ∧
      (receiving (keepalive.take 8)).ports[(0 : Fin 4)].frame.length < 9) ∧
    (withRx .resync).ports[(0 : Fin 4)].rx = .resync ∧ (withRx .resync).ports[(0 : Fin 4)].rejectOwed = false ∧
    (withRx .resync).ports[(0 : Fin 4)].answer = none ∧
    (after (.byteGapTimeout 0) (receiving [0x61])).ports[(0 : Fin 4)].rejectOwed = true ∧
    (after (.frameComplete 0 0x92) (receiving (keepalive.take 9))).ports[(0 : Fin 4)].rx = .answering := by decide +kernel

/-- Port 0 in a state, with its two timers. -/
def withTimers (x : PortState) (warm silence : Nat) : State :=
  one.setPort 0 { one.ports[(0 : Fin 4)] with state := x, warmUp := warm, silence := silence }

theorem witness_PortTimersMoveThePort : Ticking (withTimers .warming 2000 1499) ∧
    (withTimers .warming 2000 1499).ports[(0 : Fin 4)].silence < (withTimers .warming 2000 1499).tuning.silenceTime ∧
    (withTimers .warming 2000 1500).tuning.silenceTime ≤ (withTimers .warming 2000 1500).ports[(0 : Fin 4)].silence ∧
    2000 ≤ (withTimers .warming 2000 1500).ports[(0 : Fin 4)].warmUp ∧
    (withTimers .up 2000 1500).ports[(0 : Fin 4)].state = .up ∧
    (withTimers .up 2000 1500).tuning.silenceTime ≤ (withTimers .up 2000 1500).ports[(0 : Fin 4)].silence :=
  ⟨⟨rfl, rfl⟩, by decide +kernel⟩

/-- Port 3 disabled. -/
def disabled : State := after (.enablePortOff 3 0) one

theorem witness_PortsAreEnabledDisabledAndRead : Ready one ∧ Ready disabled ∧ 4 ≤ (4 : Byte).toNat ∧ (3 : Byte).toNat = (3 : Fin 4).1 ∧
    (1 : Byte) ≠ 0 ∧ one.ports[(3 : Fin 4)].enabled = true ∧ disabled.ports[(3 : Fin 4)].enabled = false ∧
    disabled.ports[(3 : Fin 4)].state = .off := ⟨ready_one, ⟨rfl, by decide +kernel⟩, by decide +kernel⟩

/-! ### Witnesses: the sighting combiner -/

/-- Port 1 with frames in its inbox. -/
def offering (frames : List InboxFrame) : State := one.setPort 1 { one.ports[(1 : Fin 4)] with inbox := frames }

theorem witness_FramesAreTakenAndStrangersEntered :
    Ready (offering [⟨keepalive, false⟩]) ∧
    ((offering [⟨keepalive, false⟩]).ports[(offering [⟨keepalive, false⟩]).combiner.nextPort + Fin.ofNat 4 1].inbox =
      [⟨keepalive, false⟩] ∧
      (∀ d' < 1, (offering [⟨keepalive, false⟩]).ports[(offering [⟨keepalive, false⟩]).combiner.nextPort + Fin.ofNat 4 d'].inbox = []) ∧
      keepalive.head? ≠ some 0x61 ∧ keepalive ≠ [] ∧ sightingFrame.head? = some 0x61 ∧
      (offering [⟨sightingFrame, false⟩]).entryOfUnit (frameUnit sightingFrame) = some 3) ∧
    (∀ (n : Fin 200) (e : Entry), State.reset.roster[n] = some e → e.unit ≠ frameUnit sightingFrame) :=
  ⟨⟨rfl, by decide +kernel⟩, by decide +kernel, by simp [State.reset]⟩

/-- A table of eight records, the one in position 2 the oldest. -/
def eightStrangers : Combiner := { Combiner.reset with strangers :=
  #v[some ⟨0x201, -60, 0, 4, 1⟩, some ⟨0x202, -60, 0, 4, 1⟩, some ⟨0x203, -60, 0, 9, 1⟩, some ⟨0x204, -60, 0, 9, 1⟩,
    some ⟨0x205, -60, 0, 4, 1⟩, some ⟨0x206, -60, 0, 4, 1⟩, some ⟨0x207, -60, 0, 4, 1⟩, some ⟨0x208, -60, 0, 4, 255⟩] }

theorem test_strangers_table :
    (strangersAfter eightStrangers { sighting 8 with unit := 0x208 })[(7 : Fin 8)] = some ⟨0x208, -60, 1, 0, 255⟩ ∧
    (strangersAfter eightStrangers { sighting 8 with unit := 0x209 })[(2 : Fin 8)] = some ⟨0x209, -60, 1, 0, 1⟩ ∧
    (strangersAfter Combiner.reset { sighting 8 with unit := 0x209 })[(0 : Fin 8)] = some ⟨0x209, -60, 1, 0, 1⟩ := by decide +kernel

/-- Entry 3 with an open pool entry of beacon 8. -/
def pooling : State := one.setPool 0 (some pooled)

theorem witness_BeaconNewnessIsTested : pooling.combiner.positionOf 3 = some 0 ∧ pooling.combiner.pool[(0 : Fin 12)] = some pooled ∧
    ((8 : Byte).toNat + 256 - pooled.beacon.toNat) % 256 = 0 ∧ ((9 : Byte).toNat + 256 - pooled.beacon.toNat) % 256 = 1 ∧
    ((135 : Byte).toNat + 256 - pooled.beacon.toNat) % 256 = 127 ∧ ((136 : Byte).toNat + 256 - pooled.beacon.toNat) % 256 = 128 ∧
    one.combiner.positionOf 3 = none ∧ one.roster[(3 : Fin 200)] = some alice ∧ alice.lastBeacon = some 7 ∧
    alice.presence ≠ .lost ∧ alice.presence ≠ .off ∧ (Entry.fresh 1 1 0 0).lastBeacon = none := by decide +kernel

theorem witness_StrengthsAreMeasuredAndCompared :
    bestCounted #v[some ⟨-70, false⟩, some ⟨-60, true⟩, some ⟨-70, false⟩, none] = some (-70, 0) ∧
    bestCounted #v[none, some ⟨-60, true⟩, none, none] = none ∧ effectiveStrength 110 15 = -136 ∧ effectiveStrength 20 1 = -20 ∧
    effectiveStrength 19 2 = effectiveStrength 20 2 ∧ effectiveStrength 111 2 = effectiveStrength 110 2 := by decide

/-- Only port 0 receiving. -/
def onePort : State := { pooling with ports := mapTable pooling.ports fun p x => if p = 0 then x else x.turnedOff }

theorem witness_PoolEntriesOpenJoinAndClose :
    (one.combiner.pool[(0 : Fin 12)] = none ∧ (∀ j : Fin 12, j < 0 → one.combiner.pool[j] ≠ none)) ∧
    (pooling.combiner.pool[(0 : Fin 12)] = some pooled ∧ pooling.ports[(1 : Fin 4)].state = .warming ∧
      pooled.strengths[(1 : Fin 4)] = none) ∧
    (onePort.combiner.pool[(0 : Fin 12)] = some pooled ∧
      ∀ p : Fin 4, onePort.ports[p].state = .warming ∨ onePort.ports[p].state = .up → pooled.strengths[p].isSome = true) := by
  decide +kernel

theorem test_coverage_closes : (recheckCoverage onePort).combiner.pool[(0 : Fin 12)] = none ∧
    (recheckCoverage pooling).combiner.pool[(0 : Fin 12)] = some pooled := by decide +kernel

/-- Port 0 the only receiving port, UP, with an open pool entry that it has heard. -/
def lastPort : State := onePort.setPort 0 { onePort.ports[(0 : Fin 4)] with state := .up, warmUp := 2000 }

/-- Port 0 SILENT, the others off. -/
def silentPort : State := onePort.setPort 0 { onePort.ports[(0 : Fin 4)] with state := .silent, warmUp := 2000 }

theorem witness_PortsAreEnabledDisabledAndRead_receiving :
    (Ready lastPort ∧ lastPort.ports[(0 : Fin 4)].enabled = true ∧ lastPort.ports[(0 : Fin 4)].state = .up ∧
      (∀ q : Fin 4, q ≠ 0 → lastPort.ports[q].state = .off ∨ lastPort.ports[q].state = .silent)) ∧
    (Ready silentPort ∧ silentPort.ports[(0 : Fin 4)].enabled = true ∧ silentPort.ports[(0 : Fin 4)].state = .silent) ∧
    (Ready one ∧ one.ports[(3 : Fin 4)].enabled = true ∧ one.ports[(3 : Fin 4)].state = .warming ∧ (1 : Fin 4) ≠ 3 ∧
      one.ports[(1 : Fin 4)].state = .warming) := by
  refine ⟨⟨⟨rfl, by decide⟩, by decide +kernel⟩, ⟨⟨rfl, by decide⟩, by decide +kernel⟩, ready_one, by decide +kernel⟩

/-- R13, R32: a SILENT port that is disabled brings on no test; with another port receiving the open entries are tested. -/
theorem test_disabled_ports_and_the_pool :
    (after (.enablePortOff 0 0) silentPort).combiner.pool[(0 : Fin 12)] = some pooled ∧
    (after (.enablePortOff 1 0) (lastPort.setPort 1 { lastPort.ports[(0 : Fin 4)] with state := .warming })).combiner.pool[(0 : Fin 12)] =
      none := by decide +kernel

/-! ### Witnesses: the roster -/

/-- The roster full: unit 0x000101 in every slot (so no run reaches it; the statements about a full roster hold in it all the same). -/
def full : State := { State.reset with roster := Vector.replicate 200 (some alice) }

theorem ready_full : Ready full := ⟨rfl, by decide⟩

theorem full_roster (n : Fin 200) : full.roster[n] = some alice := by simp [full]

/-- Entry 3 and a stranger record in position 0. -/
def visited : State := one.setStranger 0 (some stranger)

theorem ready_visited : Ready visited := ⟨rfl, by decide⟩

theorem witness_EnrolChecksAndCreates :
    (Ready one ∧ (250 : Byte).toNat ≤ 250 ∧ 1 ≤ (250 : Byte).toNat ∧ 250 < (251 : Byte).toNat ∧ (7 : Byte).toNat = (7 : Fin 8).1 ∧
      7 < (8 : Byte).toNat ∧ (3 : Byte).toNat = (3 : Fin 4).1 ∧ 3 < (4 : Byte).toNat) ∧
    (one.roster[(3 : Fin 200)] = some alice ∧ alice.unit = 0x000101 ∧ alice.seat = (12 : Byte).toNat) ∧
    ((∀ (n : Fin 200) (e : Entry), one.roster[n] = some e → e.unit ≠ 0x000200) ∧
      (∀ (n : Fin 200) (e : Entry), one.roster[n] = some e → e.seat ≠ (250 : Byte).toNat) ∧
      one.roster[(0 : Fin 200)] = none ∧ ∀ m : Fin 200, m < 0 → one.roster[m] ≠ none) ∧
    (Ready full ∧ (∀ (n : Fin 200) (e : Entry), full.roster[n] = some e → e.unit ≠ 0x000200 ∧ e.seat ≠ (250 : Byte).toNat) ∧
      ∀ n : Fin 200, full.roster[n] ≠ none) := by
  refine ⟨⟨ready_one, by decide⟩, by decide +kernel, ⟨?_, ?_, by decide +kernel, fun m h => absurd h (Fin.not_lt_zero m)⟩, ready_full, ?_, ?_⟩
  · rintro n e h; rw [(one_roster h).2]; decide
  · rintro n e h; rw [(one_roster h).2]; decide
  · rintro n e h; rw [full_roster] at h; cases h; decide
  · intro n h; rw [full_roster] at h; cases h

theorem test_enrol_lowest_free : (after (.enrol 0x000200 250 7 3) one).roster[(0 : Fin 200)] =
    some (Entry.fresh 0x000200 250 7 3) := by decide +kernel

theorem test_enrol_order : status (.enrol 0x000101 12 7 3) one = some .duplicateUnit ∧
    status (.enrol 0x000200 12 7 3) one = some .seatTaken := by decide +kernel

theorem witness_EnrolStrangerChecksAndCreates :
    Ready visited ∧ (7 : Byte).toNat = (7 : Fin 8).1 ∧ 7 < (8 : Byte).toNat ∧ visited.combiner.strangers[(7 : Fin 8)] = none ∧
    (0 : Byte).toNat = (0 : Fin 8).1 ∧ visited.combiner.strangers[(0 : Fin 8)] = some stranger ∧
    (visited.roster[(3 : Fin 200)] = some alice ∧ alice.seat = (12 : Byte).toNat) ∧
    (∀ (n : Fin 200) (e : Entry), visited.roster[n] = some e → e.seat ≠ (250 : Byte).toNat) ∧
    (visited.roster[(0 : Fin 200)] = none ∧ ∀ m : Fin 200, m < 0 → visited.roster[m] ≠ none) ∧
    (full.setStranger 0 (some stranger)).combiner.strangers[(0 : Fin 8)] = some stranger ∧
    ∀ n : Fin 200, (full.setStranger 0 (some stranger)).roster[n] = some alice := by
  refine ⟨ready_visited, by decide, by decide, by decide +kernel, by decide, by decide +kernel, by decide +kernel, ?_,
    ⟨by decide +kernel, fun m h => absurd h (Fin.not_lt_zero m)⟩, by decide +kernel, full_roster⟩
  rintro n e h
  have : e = alice := (one_roster h).2
  rw [this]; decide

/-- Two stranger records. -/
def twoStrangers : State := visited.setStranger 5 (some { stranger with unit := 0x000201 })

theorem witness_EnrolChecksAndCreates_stranger :
    (∀ (j : Fin 8) (q : Stranger), one.combiner.strangers[j] = some q → q.unit ≠ 0x000200) ∧
    (visited.combiner.strangers[(0 : Fin 8)] = some stranger ∧ stranger.unit = 0x000200 ∧
      (∀ (j : Fin 8) (q : Stranger), visited.combiner.strangers[j] = some q → q.unit = 0x000200 → j = 0) ∧
      ∀ j : Fin 8, j ≠ 0 → visited.combiner.strangers[j] = none) ∧
    (twoStrangers.combiner.strangers[(0 : Fin 8)] = some stranger ∧
      (∀ j : Fin 8, (twoStrangers.combiner.strangers[j].map (·.unit)) = some 0x000200 → j = 0) ∧
      (5 : Fin 8) ≠ 0 ∧ twoStrangers.combiner.strangers[(5 : Fin 8)] = some { stranger with unit := 0x000201 }) := by
  refine ⟨fun j q h => ?_, ⟨by decide +kernel, rfl, fun j q h _ => (only_get h).1, by decide +kernel⟩, by decide +kernel⟩
  have : ∀ j : Fin 8, one.combiner.strangers[j] = none := by decide +kernel
  rw [this] at h; cases h

theorem test_stranger_forgotten :
    (visited.forgetStranger 0x000200).engine.posted = [⟨.combiner, .report ⟨.chamber, .stranger⟩ false⟩] ∧
    (twoStrangers.forgetStranger 0x000200).engine.posted = [] ∧
    (twoStrangers.forgetStranger 0x000200).combiner.strangers[(0 : Fin 8)] = none ∧
    (twoStrangers.forgetStranger 0x000200).combiner.strangers[(5 : Fin 8)] = some { stranger with unit := 0x000201 } := by decide +kernel

/-! ### Witnesses: laws on small states -/

/-- Entry 3 the chair, entry 4 in slot 0 of the live floor, in SESSION. -/
def chaired : State := { sitting with floor := { sitting.floor with
  chair := some 3, live := setAt sitting.floor.live 0 (some ⟨4, 8000, true, false⟩) } }

theorem two_roster {j : Fin 200} {y : Entry} (h : two.roster[j] = some y) : (j = 3 ∧ y = alice) ∨ (j = 4 ∧ y = bob) := by
  have : two.roster[j] = if j = 4 then some bob else one.roster[j] := by
    change (setAt one.roster 4 (some bob))[j] = _
    rw [setAt_get]; simp only [eq_comm]
  rw [this] at h
  split at h
  · rename_i e; cases h; exact .inr ⟨e, rfl⟩
  · exact .inl (one_roster h)

theorem chaired_roster : chaired.roster = two.roster := rfl

theorem ready_chaired : Ready chaired := ⟨rfl, by decide⟩

theorem chaired_live {k : Fin 6} {x : LiveSlot} (h : chaired.floor.live[k] = some x) : k = 0 ∧ x = ⟨4, 8000, true, false⟩ :=
  only_get h

theorem chaired_held (k : Fin 6) : chaired.floor.held[k] = none := by
  revert k; decide +kernel

theorem clockLaw_chaired : ClockLaw chaired := ⟨by decide +kernel, by decide +kernel⟩

theorem floorLaw_chaired : FloorLaw chaired where
  capacity := by decide +kernel
  liveBelow k x h := by obtain ⟨rfl, rfl⟩ := chaired_live h; decide +kernel
  heldBelow k n h := by rw [chaired_held] at h; cases h
  liveOnce j k x y h h' _ := by rw [(chaired_live h).1, (chaired_live h').1]
  heldOnce j k n h := by rw [chaired_held] at h; cases h
  heldEmpty _ := chaired_held
  liveEmpty h := absurd rfl h
  liveEnrolled k x h := by obtain ⟨rfl, rfl⟩ := chaired_live h; decide +kernel
  heldEnrolled k n h := by rw [chaired_held] at h; cases h
  chairEnrolled n h := by
    have : (some 3 : Option (Fin 200)) = some n := h
    cases this; decide +kernel
  chairLive k x h := by obtain ⟨rfl, rfl⟩ := chaired_live h; decide +kernel
  chairHeld k n h := by rw [chaired_held] at h; cases h
  sitting h := absurd rfl h
  silence := by decide +kernel

theorem speakingLaw_chaired : SpeakingLaw chaired where
  live k x h := by obtain ⟨rfl, rfl⟩ := chaired_live h; decide +kernel
  hot n e h := by
    rw [chaired_roster] at h
    obtain ⟨rfl, rfl⟩ | ⟨rfl, rfl⟩ := two_roster h <;> decide +kernel

/-- Two entries, a stranger, and a KEEPALIVE in port 1's inbox. -/
def keyed : State := { two with
  combiner := { two.combiner with strangers := setAt two.combiner.strangers 0 (some stranger) }
  ports := setAt two.ports 1 { two.ports[(1 : Fin 4)] with inbox := [⟨keepalive, true⟩] } }

theorem keyed_strangers {i : Fin 8} {r : Stranger} (h : keyed.combiner.strangers[i] = some r) : i = 0 ∧ r = stranger := only_get h

theorem keyLaw_keyed : KeyLaw keyed where
  unitOnce n m e f h h' := by
    obtain ⟨rfl, rfl⟩ | ⟨rfl, rfl⟩ := two_roster h <;> obtain ⟨rfl, rfl⟩ | ⟨rfl, rfl⟩ := two_roster h' <;> decide
  seatOnce n m e f h h' := by
    obtain ⟨rfl, rfl⟩ | ⟨rfl, rfl⟩ := two_roster h <;> obtain ⟨rfl, rfl⟩ | ⟨rfl, rfl⟩ := two_roster h' <;> decide
  ranges n e h := by obtain ⟨rfl, rfl⟩ | ⟨rfl, rfl⟩ := two_roster h <;> decide
  strangerOnce i j q r h h' _ := by rw [(keyed_strangers h).1, (keyed_strangers h').1]
  strangerApart i r n e h h' := by
    obtain ⟨rfl, rfl⟩ := keyed_strangers h
    obtain ⟨rfl, rfl⟩ | ⟨rfl, rfl⟩ := two_roster h' <;> decide
  strangerRange i r h := by obtain ⟨rfl, rfl⟩ := keyed_strangers h; decide
  inboxes := by decide +kernel

theorem witness_EnrolStrangerChecksAndCreates_record : Ready keyed ∧ KeyLaw keyed ∧ (0 : Byte).toNat = (0 : Fin 8).1 ∧
    keyed.combiner.strangers[(0 : Fin 8)] = some stranger ∧
    (∀ (m : Fin 200) (e : Entry), keyed.roster[m] = some e → e.seat ≠ (250 : Byte).toNat) ∧
    keyed.roster[(0 : Fin 200)] = none ∧ (∀ m : Fin 200, m < 0 → keyed.roster[m] ≠ none) ∧
    ∀ j : Fin 8, j ≠ 0 → keyed.combiner.strangers[j] = none := by
  refine ⟨⟨rfl, by decide⟩, keyLaw_keyed, rfl, by decide +kernel, fun m e h => ?_, by decide +kernel,
    fun m h => absurd h (Fin.not_lt_zero m), by decide +kernel⟩
  obtain ⟨rfl, rfl⟩ | ⟨rfl, rfl⟩ := two_roster h <;> decide

/-- The same with a second record, of unit 0x000201. -/
def keyedTwice : State := { keyed with combiner := { keyed.combiner with
  strangers := setAt keyed.combiner.strangers 5 (some { stranger with unit := 0x000201 }) } }

theorem keyedTwice_strangers {i : Fin 8} {r : Stranger} (h : keyedTwice.combiner.strangers[i] = some r) :
    (i = 0 ∧ r = stranger) ∨ (i = 5 ∧ r = { stranger with unit := 0x000201 }) := by
  have h : (setAt keyed.combiner.strangers 5 (some { stranger with unit := 0x000201 }))[i] = some r := h
  rw [setAt_get] at h
  split at h
  · rename_i e; cases h; exact .inr ⟨e.symm, rfl⟩
  · exact .inl (keyed_strangers h)

theorem witness_EnrolStrangerChecksAndCreates_records : Ready keyedTwice ∧ KeyLaw keyedTwice ∧
    keyedTwice.combiner.strangers[(0 : Fin 8)] = some stranger ∧
    keyedTwice.combiner.strangers[(5 : Fin 8)] = some { stranger with unit := 0x000201 } ∧ keyedTwice.roster = keyed.roster :=
  ⟨⟨rfl, by decide⟩,
    { unitOnce := keyLaw_keyed.unitOnce, seatOnce := keyLaw_keyed.seatOnce, ranges := keyLaw_keyed.ranges
      strangerOnce := fun i j q r h h' e => by
        obtain ⟨rfl, rfl⟩ | ⟨rfl, rfl⟩ := keyedTwice_strangers h <;> obtain ⟨rfl, rfl⟩ | ⟨rfl, rfl⟩ := keyedTwice_strangers h' <;>
          first | rfl | exact absurd e (by decide)
      strangerApart := fun i r n e h h' => by
        obtain ⟨rfl, rfl⟩ | ⟨rfl, rfl⟩ := two_roster h' <;>
          obtain ⟨rfl, rfl⟩ | ⟨rfl, rfl⟩ := keyedTwice_strangers h <;> decide
      strangerRange := fun i r h => by obtain ⟨rfl, rfl⟩ | ⟨rfl, rfl⟩ := keyedTwice_strangers h <;> decide
      inboxes := keyLaw_keyed.inboxes },
    by decide +kernel, by decide +kernel, rfl⟩

/-- Entry 3 with a filtered voltage, a candidate and a smoothed margin. -/
def measured : Entry := { alice with
  battery := ⟨1, some 500, some 2500, .low, some ⟨.critical, 2⟩⟩, signal := ⟨some 20, .good, some 0⟩ }

/-- A part with that entry in slot 3. -/
def evaluated : State := State.reset.setSlot 3 (some measured)

theorem settingsLaw_reset : SettingsLaw State.reset where
  profiles p := by
    have : ∀ p : Fin 4, (Profile.defaults[p].ve < Profile.defaults[p].vc ∧ Profile.defaults[p].vc < Profile.defaults[p].vl ∧
      Profile.defaults[p].vl ≤ 31) ∧ (Profile.defaults[p].h ≤ 300 ∧ Profile.defaults[p].h % 10 = 0) ∧
      (1 ≤ Profile.defaults[p].k ∧ Profile.defaults[p].k ≤ 4) ∧ (1 ≤ Profile.defaults[p].nd ∧ Profile.defaults[p].nd ≤ 15) ∧
      (1 ≤ Profile.defaults[p].nu ∧ Profile.defaults[p].nu ≤ 15) ∧
      (100 ≤ Profile.defaults[p].j ∧ Profile.defaults[p].j ≤ 1000) := by decide +kernel
    obtain ⟨h1, h2, h3, h4, h5, h6⟩ := this p
    exact ⟨h1, h2, h3, h4, h5, h6⟩
  tuning := by constructor <;> decide +kernel

theorem settingsLaw_evaluated : SettingsLaw evaluated := ⟨settingsLaw_reset.profiles, settingsLaw_reset.tuning⟩

theorem evaluatorLaw_evaluated : EvaluatorLaw evaluated := by
  intro n e h
  obtain ⟨rfl, rfl⟩ : n = 3 ∧ e = measured := only_get h
  refine ⟨⟨by decide, fun c hc => ?_, fun f hf => ?_, fun c hc => ?_⟩, by decide, by decide, fun q hq => ?_⟩
  · cases hc; decide
  · cases hf; decide
  · cases hc; decide
  · cases hq; decide

theorem pooling_pool {i : Fin 12} {e : PoolEntry} (h : pooling.combiner.pool[i] = some e) : i = 0 ∧ e = pooled := only_get h

theorem clockLaw_pooling : ClockLaw pooling := ⟨by decide +kernel, by decide +kernel⟩

theorem poolLaw_pooling : PoolLaw pooling where
  once i j e f h h' _ := by rw [(pooling_pool h).1, (pooling_pool h').1]
  enrolled i e h := by obtain ⟨rfl, rfl⟩ := pooling_pool h; decide +kernel
  heard i e h := by obtain ⟨rfl, rfl⟩ := pooling_pool h; exact ⟨0, by decide⟩
  dormant h := absurd h (by decide)

/-- Port 0 receiving its tenth character, port 1 holding a frame. -/
def served : State := (receiving (keepalive.take 9)).setPort 1 { one.ports[(1 : Fin 4)] with inbox := [⟨keepalive, true⟩] }

theorem portLaw_served : ∀ p : Fin 4, PortLaw served.ports[p] := by
  have : ∀ p : Fin 4, (served.ports[p].state = .off ↔ served.ports[p].enabled = false) ∧
      (served.ports[p].state = .off →
        served.ports[p].warmUp = 0 ∧ served.ports[p].silence = 0 ∧ served.ports[p].inbox = []) ∧
      (served.ports[p].state = .up → served.ports[p].warmUp = 2000) ∧ served.ports[p].warmUp ≤ 2000 ∧
      served.ports[p].silence ≤ 65535 ∧ served.ports[p].inbox.length ≤ 2 ∧ served.ports[p].frame.length ≤ 9 ∧
      (served.ports[p].rx = .receiving ↔ served.ports[p].frame ≠ []) := by decide +kernel
  intro p
  obtain ⟨h1, h2, h3, h4, h5, h6, h7, h8⟩ := this p
  exact ⟨h1, h2, h3, h4, h5, h6, h7, h8⟩

/-- A part with a warning RAISED and listed, and one NOTED. -/
def alarmed : State := { one with engine :=
  ⟨[⟨⟨.port 2, .receiverSilent⟩, .noted, 2⟩, ⟨lostWarning, .raised, 1⟩], [lostWarning], 2, []⟩ }

theorem attentionLaw_alarmed : AttentionLaw alarmed.engine := by
  constructor <;> decide +kernel

theorem engineLaw_alarmed : EngineLaw alarmed := ⟨rfl, attentionLaw_alarmed⟩

/-! ### Witnesses: the roster's commands and events -/

theorem witness_RetireEmptiesTheSlot :
    (Ready chaired ∧ chaired.engine.posted = [] ∧ FloorLaw chaired ∧ (3 : Byte).toNat = (3 : Fin 200).1 ∧
      chaired.roster[(3 : Fin 200)] = some alice ∧ chaired.floor.chair = some 3) ∧
    ((4 : Byte).toNat = (4 : Fin 200).1 ∧ chaired.roster[(4 : Fin 200)] = some bob ∧
      (after (.retire 4) chaired).floor.live[(0 : Fin 6)] = none) :=
  ⟨⟨ready_chaired, rfl, floorLaw_chaired, by decide +kernel⟩, by decide +kernel⟩

theorem witness_UnitsAreFound : keyed.inReset = false ∧ KeyLaw keyed ∧ keyed.roster[(3 : Fin 200)] = some alice ∧
    alice.unit = 0x000101 ∧ (∀ (n : Fin 200) (e : Entry), keyed.roster[n] = some e → e.unit ≠ 0x000200) ∧
    status (.findUnit 0x000101) keyed = some .ok ∧ status (.findUnit 0) keyed = some .noEntry ∧
    status (.findUnit 0xFFFFFF) keyed = some .noEntry := by
  refine ⟨rfl, keyLaw_keyed, by decide +kernel, rfl, fun n e h => ?_, by decide +kernel⟩
  obtain ⟨rfl, rfl⟩ | ⟨rfl, rfl⟩ := two_roster h <;> decide

theorem witness_RecordsAreFoundAndRead : Ready keyed ∧ KeyLaw keyed ∧ (0 : Byte).toNat = 0 ∧ 250 < (251 : Byte).toNat ∧
    (1 ≤ (12 : Byte).toNat ∧ (12 : Byte).toNat ≤ 250 ∧ keyed.roster[(3 : Fin 200)] = some alice ∧ alice.seat = (12 : Byte).toNat) ∧
    (∀ (n : Fin 200) (e : Entry), keyed.roster[n] = some e → e.seat ≠ (250 : Byte).toNat) ∧
    (3 : Byte).toNat = (3 : Fin 200).1 := by
  refine ⟨⟨rfl, by decide⟩, keyLaw_keyed, rfl, by decide, by decide +kernel, fun n e h => ?_, rfl⟩
  obtain ⟨rfl, rfl⟩ | ⟨rfl, rfl⟩ := two_roster h <;> decide

theorem witness_AmendmentReplacesThreeValues :
    (Ready two ∧ 200 ≤ (200 : Byte).toNat ∧ (199 : Byte).toNat = (199 : Fin 200).1 ∧ two.roster[(199 : Fin 200)] = none) ∧
    (two.roster[(3 : Fin 200)] = some alice ∧ two.roster[(4 : Fin 200)] = some bob ∧ (4 : Fin 200) ≠ 3 ∧
      bob.seat = (13 : Byte).toNat) ∧
    (∀ (m : Fin 200) (f : Entry), two.roster[m] = some f → m ≠ 3 → f.seat ≠ (12 : Byte).toNat) ∧
    alice.battery.profile = 1 ∧ alice.battery.profile ≠ 3 := by
  refine ⟨⟨ready_two, by decide +kernel⟩, by decide +kernel, fun m f h ne => ?_, by decide⟩
  obtain ⟨rfl, rfl⟩ | ⟨rfl, rfl⟩ := two_roster h
  · exact absurd rfl ne
  · decide

/-- What an ordinary sighting hands over, and a farewell. -/
def observation (farewell : Bool) : Observation :=
  ⟨8, { payload with farewell := farewell }, false, #v[some ⟨-70, false⟩, none, none, none], some (-70, 0)⟩

theorem witness_ObservationIsApplied : one.roster[(3 : Fin 200)] = some alice ∧ one.roster[(4 : Fin 200)] = none ∧
    two.roster[(4 : Fin 200)] = some bob ∧
    ((applyObservation 3 (observation false) one).roster[(3 : Fin 200)].map fun e => (e.presence, e.lastBeacon, e.battery.filtered,
      e.signal.margin)) = some (.live, some 8, some 2500, some 22) ∧
    ((applyObservation 3 (observation true) one).roster[(3 : Fin 200)].map fun e => (e.presence, e.switch)) =
      some (.off, .closed) := by decide +kernel

/-- Entry 3 with an age. -/
def aged (x : Presence) (age : Nat) : State := State.reset.setSlot 3 (some { alice with presence := x, age := age })

/-- A part with a pool entry whose window has run out and a stranger record at its age limit, alone or not. -/
def runOut (alone : Bool) : State := { pooling with combiner := { pooling.combiner with
  pool := setAt pooling.combiner.pool 0 (some { pooled with window := 0 })
  strangers := #v[some { stranger with age := 10000 }, if alone then none else some { stranger with unit := 0x000201 },
    none, none, none, none, none, none] } }

theorem witness_AgesAndWindowsRunOut :
    (Ticking (runOut true) ∧ (runOut true).combiner.pool[(0 : Fin 12)] = some { pooled with window := 0 } ∧
      (runOut true).combiner.strangers[(0 : Fin 8)] = some { stranger with age := 10000 } ∧
      (∀ j : Fin 8, j ≠ 0 → (runOut true).combiner.strangers[j] = none) ∧
      (runOut false).combiner.strangers[(1 : Fin 8)] = some { stranger with unit := 0x000201 }) ∧
    (Ticking (aged .live 301) ∧ (aged .live 301).roster[(3 : Fin 200)] = some { alice with age := 301 } ∧ alice.presence = .live ∧
      alice.interval = some .fast ∧ 3 * 100 < 301 ∧ 3 * 100 < (aged .live 301).tuning.lostTime) ∧
    ((aged .fading 4001).roster[(3 : Fin 200)] = some { alice with presence := .fading, age := 4001 } ∧
      (aged .fading 4001).tuning.lostTime < 4001) :=
  ⟨⟨⟨rfl, rfl⟩, by decide +kernel⟩, ⟨⟨rfl, rfl⟩, by decide +kernel⟩, by decide +kernel⟩

theorem test_age_limits : (after (.entryFading 3) (aged .live 300)).roster[(3 : Fin 200)].map (·.presence) = some .live ∧
    (after (.entryFading 3) (aged .live 301)).roster[(3 : Fin 200)].map (·.presence) = some .fading ∧
    (after (.entryLost 3) (aged .fading 4000)).roster[(3 : Fin 200)].map (·.presence) = some .fading ∧
    (after (.entryLost 3) (aged .fading 4001)).roster[(3 : Fin 200)].map (·.presence) = some .lost := by decide +kernel

/-! ### Witnesses: the evaluators -/

/-- The second default profile. -/
def aa : Profile := ⟨12, 8, 4, 80, 2, 3, 5, 300⟩

theorem witness_VoltagesAreClassifiedAndFiltered : (aa.ve < aa.vc ∧ aa.vc < aa.vl ∧ aa.vl ≤ 31) ∧
    classify aa 2200 = .exhausted ∧ classify aa 2201 = .critical ∧ classify aa 2400 = .critical ∧ classify aa 2401 = .low ∧
    classify aa 2600 = .low ∧ classify aa 2601 = .ok ∧ classify aa (-80) = .exhausted ∧ classify aa (0 - aa.h) = .exhausted ∧ filterStep 1 1 = 1 ∧ filterStep 4 7 = 0 ∧ filterStep 4 8 = 1 ∧
    filterStep 4 (-8) = -1 := by decide

/-- The battery fields of an entry of profile 1. -/
def cells (f : Nat) (l : BattLevel) (q : Option Candidate) : Battery := ⟨1, some 500, some f, l, q⟩

theorem witness_BatteryIsEvaluated :
    ((Entry.fresh 1 1 0 1).battery.filtered = none ∧ (cells 2500 .low none).filtered = some 2500) ∧
    (2500 + aa.j ≤ 5 * 560 ∧ 5 * 559 < 2500 + aa.j) ∧
    battCandidate aa (2500 + filterStep aa.k (5 * 500 - 2500)) .low = .low ∧
    (battCandidate aa (2400 + filterStep aa.k (5 * 480 - 2400)) .low = .critical ∧ BattLevel.critical.worseThan .low = true ∧
      aa.nd ≤ 2 + 1 ∧ ¬ aa.nd ≤ 1 + 1) ∧
    (battCandidate aa (2681 + filterStep aa.k (5 * 537 - 2681)) .low = .ok ∧ BattLevel.ok.worseThan .low = false) := by decide

theorem test_battery_confirmations :
    evalBattery aa (cells 2400 .low (some ⟨.critical, 2⟩)) 480 = ⟨1, some 480, some 2400, .critical, none⟩ ∧
    evalBattery aa (cells 2400 .low (some ⟨.ok, 4⟩)) 480 = ⟨1, some 480, some 2400, .low, some ⟨.critical, 1⟩⟩ ∧
    evalBattery aa (cells 2500 .low none) 560 = ⟨1, some 560, some 2800, .ok, none⟩ ∧
    evalBattery aa (cells 2500 .low none) 1023 = cells 2500 .low none := by decide

/-- A SET_PROFILE that stores what it carries, and one whose five last fields are out of range. -/
def fields (wild : Bool) : RawProfile := if wild then ⟨31, 8, 0, 309, 0, 16, 0, 1001⟩ else ⟨31, 8, 4, 80, 2, 3, 5, 300⟩

/-- A sweep of profile 1 with a visit due. -/
def sweeping (n : Fin 200) : State := { evaluated with sweep := some ⟨1, n⟩, sweepDue := true }

theorem witness_ProfilesAreWrittenReadAndSwept :
    (Ready one ∧ 4 ≤ (4 : Byte).toNat ∧ (3 : Byte).toNat = (3 : Fin 4).1 ∧ 32 ≤ (32 : Byte).toNat ∧ (fields true).vl.toNat < 32 ∧
      (fields true).vc.toNat < (fields true).vl.toNat ∧ (fields true).ve.toNat < (fields true).vc.toNat ∧
      (sweeping 3).sweep.isSome = true ∧ one.sweep = none) ∧
    (Ticking (sweeping 3) ∧ (sweeping 3).sweepDue = true ∧ (sweeping 3).sweep = some ⟨1, 3⟩ ∧
      (sweeping 3).roster[(3 : Fin 200)] = some measured ∧ measured.battery.profile = 1 ∧ measured.battery.filtered = some 2500) ∧
    ((sweeping 199).sweep = some ⟨1, 199⟩ ∧ (sweeping 199).roster[(199 : Fin 200)] = none) :=
  ⟨⟨ready_one, by decide +kernel⟩, ⟨⟨rfl, rfl⟩, by decide +kernel⟩, by decide +kernel⟩

theorem test_profile_adjusted : (after (.setProfile 3 (fields true)) one).profiles[(3 : Fin 4)] = ⟨31, 8, 0, 300, 1, 15, 1, 1000⟩ ∧
    status (.setProfile 3 (fields true)) one = some .adjusted ∧ status (.setProfile 3 (fields false)) one = some .ok ∧
    (after .sweepVisit (sweeping 199)).sweep = none ∧ (after .sweepVisit (sweeping 3)).sweep = some ⟨1, 4⟩ := by decide +kernel

theorem witness_SignalIsEvaluated : (12 : Int) = max (-40) (min 60 (-80 - Tuning.defaults.signalFloor)) ∧
    (60 : Int) = max (-40) (min 60 (-20 - Tuning.defaults.signalFloor)) ∧ Tuning.defaults.poor < Tuning.defaults.weak ∧
    (⟨some 20, .good, some 0⟩ : Signal).margin = some 20 ∧ (⟨none, .unknown, none⟩ : Signal).margin = none ∧
    nextSigLevel Tuning.defaults 12 .good = .good ∧ nextSigLevel Tuning.defaults 14 .weak = .weak ∧
    nextSigLevel Tuning.defaults 15 .weak = .good ∧ nextSigLevel Tuning.defaults 4 .weak = .poor ∧
    nextSigLevel Tuning.defaults 7 .poor = .poor ∧ nextSigLevel Tuning.defaults 8 .poor = .weak := by decide

theorem witness_ProfilesAreWrittenReadAndSwept_absent : Ticking { one with sweep := some ⟨1, 3⟩, sweepDue := true } ∧
    one.roster[(3 : Fin 200)] = some alice ∧ alice.battery.profile = 1 ∧ alice.battery.filtered = none := ⟨⟨rfl, rfl⟩, by decide +kernel⟩

/-! ### Witnesses: tuning -/

/-- Ports UP, with entries of several ages. -/
def settled : State := { two with
  ports := mapTable two.ports fun p x => { x with state := .up, warmUp := 2000, silence := if p = 0 then 700 else 699 }
  roster := setAt (setAt two.roster 3 (some { alice with age := 1001 })) 4 (some { bob with hot := some ⟨200, false⟩ }) }

theorem ready_settled : Ready settled := ⟨rfl, by decide⟩

theorem witness_TimeLimitsActAtOnce :
    (Ready settled ∧ settled.tuning.silenceTime ≠ 700 ∧ settled.ports[(0 : Fin 4)].state = .up ∧
      700 ≤ settled.ports[(0 : Fin 4)].silence) ∧
    (settled.tuning.lostTime ≠ 1000 ∧ settled.roster[(3 : Fin 200)] = some { alice with age := 1001 } ∧ alice.presence = .live) ∧
    (after (.setPortSilenceTime 700) settled).ports[(0 : Fin 4)].state = .silent ∧
    (after (.setPortSilenceTime 700) settled).ports[(1 : Fin 4)].state = .up ∧
    (after (.setLostTime 1000) settled).roster[(3 : Fin 200)].map (·.presence) = some .lost ∧
    ((after (.setHotDelay 200) settled).roster[(4 : Fin 200)].bind (·.hot)) = some ⟨200, true⟩ :=
  ⟨⟨ready_settled, by decide +kernel⟩, by decide +kernel⟩

theorem witness_SettingsAreStored : Ready one ∧ (0 : Int) ≤ one.tuning.poor ∧ one.tuning.poor < 40 ∧ one.tuning.weak ≤ 39 ∧
    -10 < one.tuning.weak ∧ (1 : BitVec 32).toNat = true.toNat ∧ 2 ≤ (2 : BitVec 32).toNat := ⟨ready_one, by decide +kernel⟩

theorem test_settings_at_their_ends : (after (.setSignalFloor 0xFFFFFF91) one).tuning.signalFloor = -110 ∧
    status (.setSignalFloor 0xFFFFFF91) one = some .adjusted ∧ status (.setSignalFloor 0xFFFFFF92) one = some .ok ∧
    (after (.setSilentTime 120001) one).tuning.silentTime = 120000 ∧ (after (.setCombiningWindow 0x80000000) one).tuning.window = 2 ∧
    (after (.setIrqMask 0xFFFF0200) one).tuning.irqMask = 0 ∧ status (.setAutoRevoke 0x00010001) one = some .badArg := by
  decide +kernel

/-- A warning of a LATCHED class STANDING. -/
def standing : State := { one with engine := ⟨[⟨lostWarning, .standing, 1⟩], [lostWarning], 1, []⟩ }

theorem witness_PendingTypeIsChanged : Ready standing ∧ (11 : Byte).toNat < 12 ∧ 17 < (18 : Byte).toNat ∧ 2 ≤ (2 : BitVec 32).toNat ∧
    ((12 : Byte).toNat, WClass.sigLost) ∈ [(12, WClass.sigLost), (13, .battCritical), (14, .receiverSilent), (15, .sigWeak), (16, .hotMic),
      (17, .battLow)] ∧ (1 : BitVec 32).toNat = (if PendingType.selfClearing = .latched then 0 else 1) ∧
    standing.engine.posted = [] ∧ pendingTypeOf standing.tuning.pendingTypes .sigLost = .latched ∧
    (after (.setPendingType 12 1) standing).engine.warnings = [] := ⟨⟨rfl, by decide⟩, by decide +kernel⟩

theorem witness_PendingTypeIsChanged_quiets : ∀ r, standingOf .sigLost r = true ↔ r.id.cls = .sigLost ∧ r.state = .standing := by
  simp [standingOf]

/-- Section 11.8: items 13 and 17 are BATT_CRITICAL and BATT_LOW, and no other class's type changes. -/
theorem test_pending_items : (after (.setPendingType 13 1) one).tuning.pendingTypes =
      { one.tuning.pendingTypes with battCritical := .selfClearing } ∧
    (after (.setPendingType 17 0) one).tuning.pendingTypes = { one.tuning.pendingTypes with battLow := .latched } := by decide +kernel

theorem witness_TuningItemsAreRead : one.inReset = false ∧ asleep.inReset = false ∧ (0 : Byte).toNat = 0 ∧ 18 < (19 : Byte).toNat ∧
    1 ≤ (18 : Byte).toNat ∧ (after (.readTuning 18) asleep).command.lastReply = some ⟨.ok, [0, 0, 0x01, 0xFF]⟩ ∧
    (after (.readTuning 4) one).command.lastReply = some ⟨.ok, [0xFF, 0xFF, 0xFF, 0xA4]⟩ := by decide +kernel

/-! ### Witnesses: the floor -/

theorem witness_SpeakingIsDerivedAfresh : speaking.roster[(3 : Fin 200)] = some alice ∧ speaking.floor.liveSlotOf 3 = some 0 ∧
    speaking.floor.live[(0 : Fin 6)] = some ⟨3, 8000, true, false⟩ ∧ speaking.roster[(4 : Fin 200)] = some bob ∧
    speaking.floor.liveSlotOf 4 = none ∧ speaking.speaking 3 = true ∧ speaking.hotTerms 4 bob = true := by decide +kernel

/-- Entry 3 in slot 0 with its silent timer run out and its key just turned on; entry 4 without the floor, its terms first holding at a
hot delay of 0; entry 5 the chair, with a timer that had reached the delay. -/
def starting : State := { sitting with
  floor := { sitting.floor with live := setAt sitting.floor.live 0 (some ⟨3, 0, false, true⟩), chair := some 5 }
  roster := setAt sitting.roster 5 (some { bob with unit := 0x000103, seat := 14, hot := some ⟨9, true⟩ })
  tuning := { sitting.tuning with hotDelay := 0 } }

theorem witness_SpeakingIsDerivedAfresh_reports :
    (starting.floor.liveSlotOf 3 = some 0 ∧ starting.floor.live[(0 : Fin 6)] = some ⟨3, 0, false, true⟩ ∧ starting.speaking 3 = true ∧
      (derive 3 starting).engine.posted = [⟨.floor, .report ⟨.entry 3, .silentFloor⟩ false⟩]) ∧
    (starting.roster[(4 : Fin 200)] = some bob ∧ bob.hot = none ∧ starting.hotTerms 4 bob = true ∧
      (derive 4 starting).engine.posted = [⟨.floor, .report ⟨.entry 4, .hotMic⟩ true⟩]) ∧
    (starting.roster[(5 : Fin 200)] = some { bob with unit := 0x000103, seat := 14, hot := some ⟨9, true⟩ } ∧
      (derive 5 starting).engine.posted = [⟨.floor, .report ⟨.entry 5, .hotMic⟩ false⟩]) := by decide +kernel

/-- The same with slot 1 of the held floor occupied by entry 4 under the cause SILENCE. -/
def keyHeld : State := { sitting with floor := { sitting.floor with
  cause := .silence, asserted := true, pinHigh := true, stability := 20, held := setAt sitting.floor.held 1 (some 4) } }

theorem ready_keyHeld : Ready keyHeld := ⟨rfl, by decide⟩

theorem witness_FloorMovesKeepSlots : speaking.floor.live[(0 : Fin 6)] = some ⟨3, 8000, true, false⟩ ∧
    speaking.floor.live[(1 : Fin 6)] = none ∧ keyHeld.floor.held[(1 : Fin 6)] = some 4 ∧
    keyHeld.roster[(3 : Fin 200)] = some alice := by decide +kernel

/-- A live floor with every slot below the capacity of 4 occupied. -/
def crowdedFloor : State := { sitting with floor := { sitting.floor with
  live := #v[some ⟨10, 1, false, false⟩, some ⟨11, 1, false, false⟩, some ⟨12, 1, false, false⟩, some ⟨13, 1, false, false⟩,
    none, none] } }

theorem witness_FloorIsGrantedRevokedAndSized :
    (Ready one ∧ (3 : Byte).toNat = (3 : Fin 200).1 ∧ one.roster[(3 : Fin 200)] = some alice ∧ one.mode ≠ .session) ∧
    (Ready keyHeld ∧ keyHeld.mode = .session ∧ keyHeld.floor.cause ≠ .none ∧ keyHeld.roster[(4 : Fin 200)] = some bob ∧
      keyHeld.floor.liveSlotOf 4 = none ∧ keyHeld.floor.heldSlotOf 4 = some 1) ∧
    (Ready chaired ∧ chaired.floor.chair = some 3 ∧ chaired.floor.cause = .none) ∧
    (Ready speaking ∧ speaking.floor.liveSlotOf 3 = some 0 ∧ speaking.floor.live[(0 : Fin 6)] = some ⟨3, 8000, true, false⟩ ∧
      speaking.floor.heldSlotOf 3 = none ∧ speaking.floor.liveSlotOf 4 = none ∧ speaking.floor.live[(1 : Fin 6)] = none ∧
      (∀ j : Fin 6, j < 1 → speaking.floor.live[j] ≠ none) ∧ speaking.floor.chair ≠ some 4) ∧
    (Ready crowdedFloor ∧ crowdedFloor.floor.liveSlotOf 3 = none ∧
      (∀ k : Fin 6, k.1 < crowdedFloor.floor.capacity → crowdedFloor.floor.live[k] ≠ none) ∧
      3 ≤ (3 : Fin 6).1 ∧ crowdedFloor.floor.live[(3 : Fin 6)] ≠ none ∧
      ∀ k : Fin 6, 4 ≤ k.1 → crowdedFloor.floor.live[k] = none ∧ crowdedFloor.floor.held[k] = none) :=
  ⟨⟨ready_one, by decide +kernel⟩, ⟨ready_keyHeld, by decide +kernel⟩, ⟨ready_chaired, by decide +kernel⟩,
    ⟨ready_speaking, by decide +kernel⟩, ⟨⟨rfl, by decide⟩, by decide +kernel⟩⟩

theorem test_capacity : status (.setFloorCapacity 0) one = some .adjusted ∧ (after (.setFloorCapacity 0) one).floor.capacity = 1 ∧
    (after (.setFloorCapacity 7) one).floor.capacity = 6 ∧ status (.setFloorCapacity 3) crowdedFloor = some .occupied ∧
    status (.setFloorCapacity 4) crowdedFloor = some .ok := by decide +kernel

theorem witness_MutesAreSetAndCleared : Ready chaired ∧ (3 : Byte).toNat = (3 : Fin 200).1 ∧ chaired.roster[(3 : Fin 200)] = some alice ∧
    chaired.floor.chair = some 3 ∧ (4 : Byte).toNat = (4 : Fin 200).1 ∧ chaired.roster[(4 : Fin 200)] = some bob ∧
    chaired.floor.chair ≠ some 4 := ⟨ready_chaired, by decide +kernel⟩

theorem witness_ChairIsDesignated : Ready one ∧ one.floor.chair = none ∧ Ready chaired ∧ chaired.floor.chair ≠ none ∧
    (3 : Byte).toNat = (3 : Fin 200).1 ∧ chaired.roster[(3 : Fin 200)] = some alice ∧ chaired.floor.chair = some 3 ∧
    (4 : Byte).toNat = (4 : Fin 200).1 ∧ chaired.roster[(4 : Fin 200)] = some bob ∧ chaired.floor.chair ≠ some 4 ∧ FloorLaw chaired ∧
    (after (.setChair 4) chaired).floor.cause = .chair :=
  ⟨ready_one, by decide +kernel, ready_chaired, by decide +kernel, rfl, by decide +kernel, rfl, rfl, by decide +kernel,
    by decide +kernel, floorLaw_chaired, by decide +kernel⟩

/-- Entry 3 in slot 0, its silent timer run out; entry 4's hot-mic timer at the hot delay. -/
def timedOut (autoRevoke : Bool) : State := { sitting with
  floor := { sitting.floor with live := setAt sitting.floor.live 0 (some ⟨3, 0, false, false⟩) }
  roster := setAt sitting.roster 4 (some { bob with hot := some ⟨1500, false⟩ })
  tuning := { sitting.tuning with autoRevoke := autoRevoke } }

/-- The silence key pressed for 20 ms. -/
def pressed (cause : Cause) : State := { speaking with floor := { speaking.floor with pinHigh := false, stability := 20, cause := cause } }

theorem witness_FloorTimersAndSilenceKeyAct :
    (∀ b, Ticking (timedOut b) ∧ (timedOut b).floor.live[(0 : Fin 6)] = some ⟨3, 0, false, false⟩ ∧
      (timedOut b).tuning.autoRevoke = b ∧ (timedOut b).floor.liveSlotOf 3 = some 0 ∧ (timedOut b).floor.heldSlotOf 3 = none ∧
      (timedOut b).roster[(4 : Fin 200)] = some { bob with hot := some ⟨1500, false⟩ } ∧ (timedOut b).tuning.hotDelay ≤ 1500) ∧
    (∀ x, Ticking (pressed x) ∧ (pressed x).floor.pinHigh = false ∧ (pressed x).floor.asserted = false ∧
      20 ≤ (pressed x).floor.stability ∧ (pressed x).floor.cause = x) ∧
    (Ticking keyHeld ∧ keyHeld.floor.pinHigh = true ∧ keyHeld.floor.asserted = true ∧ 20 ≤ keyHeld.floor.stability ∧
      keyHeld.chairKeyOn = false ∧ ({ keyHeld with floor := { keyHeld.floor with chair := some 3 } } : State).chairKeyOn = true ∧
      keyHeld.tuning.priority = true) := by
  refine ⟨fun b => ⟨⟨rfl, rfl⟩, ?_⟩, fun x => ⟨⟨rfl, rfl⟩, ?_⟩, ⟨rfl, rfl⟩, by decide +kernel⟩
  · revert b; decide +kernel
  · exact ⟨rfl, rfl, Nat.le_refl 20, rfl⟩

/-! ### Witnesses: warnings and lines -/

/-- A full list: 32 STRANGER-severity places taken by HOT_MIC warnings of 32 entries. -/
def hotMics : Engine :=
  ⟨(List.finRange 32).map fun i => ⟨⟨.entry (i.castLE (by decide)), .hotMic⟩, .raised, 1⟩,
    (List.finRange 32).map fun i => ⟨.entry (i.castLE (by decide)), .hotMic⟩, 1, []⟩

theorem attentionLaw_hotMics : AttentionLaw hotMics := by
  constructor <;> decide +kernel

theorem attentionLaw_standing : AttentionLaw standing.engine := by
  constructor <;> decide +kernel

theorem witness_RaisesAndClearsChangeTheWarning :
    (AttentionLaw alarmed.engine ∧ alarmed.engine.stateOf ⟨.entry 3, .battLow⟩ = none ∧ alarmed.engine.attention.length < 32) ∧
    (AttentionLaw hotMics ∧ hotMics.attention.length = 32 ∧ hotMics.stateOf ⟨.chamber, .stranger⟩ = none ∧
      (∀ x ∈ hotMics.attention, WClass.stranger.severity ≤ x.cls.severity) ∧ hotMics.stateOf lostWarning = none ∧
      ∀ x ∈ hotMics.attention.getLast?, x.cls.severity < lostWarning.cls.severity) ∧
    (AttentionLaw standing.engine ∧ standing.engine.stateOf lostWarning = some .standing) ∧
    (alarmed.engine.stateOf lostWarning = some .raised ∧ alarmed.engine.find lostWarning = some ⟨lostWarning, .raised, 1⟩ ∧
      alarmed.engine.stateOf ⟨.port 2, .receiverSilent⟩ = some .noted) :=
  ⟨⟨attentionLaw_alarmed, by decide +kernel⟩, ⟨attentionLaw_hotMics, by decide +kernel⟩, ⟨attentionLaw_standing, by decide +kernel⟩,
    by decide +kernel⟩

theorem test_full_list : (hotMics.raise ⟨.chamber, .stranger⟩).overflow = true ∧
    (hotMics.raise lostWarning).attention.head? = some lostWarning ∧ (hotMics.raise lostWarning).attention.length = 32 := by
  decide +kernel

theorem witness_AcknowledgementChecksAndTakes :
    Ready alarmed ∧ warningOf 3 3 9 = none ∧ warningOf 3 3 0 = some lostWarning ∧ warningOf 3 4 0 = some ⟨.entry 4, .sigLost⟩ ∧
    alarmed.engine.stateOf ⟨.entry 4, .sigLost⟩ = none ∧ alarmed.engine.find lostWarning = some ⟨lostWarning, .raised, 1⟩ ∧
    ActiveState.raised ≠ .noted ∧ (1 : Stamp) ≠ 2 ∧ alarmed.engine.posted = [] ∧ AttentionLaw alarmed.engine ∧
    standing.engine.find lostWarning = some ⟨lostWarning, .standing, 1⟩ ∧ AttentionLaw standing.engine :=
  ⟨⟨rfl, by decide⟩, by decide +kernel, by decide +kernel, by decide +kernel, by decide +kernel, by decide +kernel, by decide, by decide,
    rfl, attentionLaw_alarmed, by decide +kernel, attentionLaw_standing⟩

theorem witness_ListIsAcknowledgedAndRead :
    Ready alarmed ∧ alarmed.engine.posted = [] ∧ AttentionLaw alarmed.engine ∧ lostWarning ∈ alarmed.engine.attention ∧
    alarmed.engine.find lostWarning = some ⟨lostWarning, .raised, 1⟩ ∧ 32 ≤ (32 : Byte).toNat ∧
    ((31 : Byte).toNat < 32 ∧ alarmed.engine.attention.length ≤ (31 : Byte).toNat) ∧
    alarmed.engine.attention[(0 : Byte).toNat]? = some lostWarning :=
  ⟨⟨rfl, by decide⟩, rfl, attentionLaw_alarmed, by decide +kernel, by decide +kernel, by decide, by decide +kernel, by decide +kernel⟩

/-- A WARNING source for the classes 0 and 4 of group 3, FAST, held 25 times 10 ms. -/
def rawLine : RawLineConfig := ⟨2, 0, 1, 3, 0x0011, 1, 2, 0, 25, 1, 1⟩

/-- That configuration. -/
def groupLine : LineConfig := ⟨.warning (.group 3) 0x011 true, .fast, .activeHigh, 25, .ms10, true⟩

theorem witness_LinesAreStagedAppliedAndRead : Ready one ∧ 16 ≤ (16 : Byte).toNat ∧ (15 : Byte).toNat = (15 : Fin 16).1 ∧
    lineConfigOf rawLine = some groupLine ∧ lineConfigOf { rawLine with source := 8 } = none ∧
    lineConfigOf { rawLine with scopeIndex := 8 } = none := ⟨ready_one, by decide +kernel⟩

theorem witness_StoredConfigurationsReadBack : lineConfigOf rawLine = some groupLine ∧
    lineConfigBytes groupLine = [2, 0, 1, 3, 0x00, 0x11, 1, 2, 0, 25, 1, 1] ∧
    lineConfigOf { rawLine with classSet := 0xFE11, sense := 7 } = some groupLine := by decide

/-- Line 5 staged to light steadily, line 6 live so already and faulty; a boundary due. -/
def boundary (commit : Bool) : State := { one with lines := { one.lines with
  commitPending := commit, boundaryDue := true
  line := setAt (setAt one.lines.line 5 { Line.reset false with staged := ⟨.on, .steady, .activeHigh, 1, .ms100, true⟩ })
    6 { Line.reset false with
      live := ⟨.on, .steady, .activeHigh, 1, .ms100, true⟩, staged := ⟨.on, .steady, .activeHigh, 1, .ms100, true⟩
      source := true, active := true, disagree := 50, fault := true } } }

theorem witness_BoundaryMakesTheCommit : (∀ b, Ticking (boundary b) ∧ (boundary b).lines.boundaryDue = true ∧
      (boundary b).lines.commitPending = b) ∧
    (boundary true).lines.line[(5 : Fin 16)].live ≠ (boundary true).lines.line[(5 : Fin 16)].staged ∧
    (boundary true).lines.line[(6 : Fin 16)].live = (boundary true).lines.line[(6 : Fin 16)].staged ∧
    (after .blinkBoundary (boundary true)).lines.line[(5 : Fin 16)].active = true ∧
    (after .blinkBoundary (boundary true)).lines.line[(6 : Fin 16)].fault = true := by
  refine ⟨fun b => ⟨⟨rfl, rfl⟩, rfl, rfl⟩, ?_⟩
  decide +kernel

/-- Line 0 active with its source fallen and its hold run out; line 1 lit and sense-checked for 50 ms against its drive, or with it. -/
def checked (against : Bool) : State := { one with lines := { one.lines with
  line := setAt (setAt one.lines.line 0 { Line.reset false with active := true })
    1 { Line.reset (!against) with
      live := ⟨.on, .steady, .activeHigh, 0, .ms1, true⟩, source := true, active := true
      disagree := if against then 50 else 0, agree := if against then 0 else 50, fault := !against } } }

theorem witness_LinesFollowExpireAndAreChecked :
    (∀ b, Ticking (checked b) ∧ (checked b).lines.line[(0 : Fin 16)].active = true ∧
      (checked b).lines.line[(0 : Fin 16)].source = false ∧ (checked b).lines.line[(0 : Fin 16)].hold = 0 ∧
      (checked b).lineLit (checked b).lines.line[(1 : Fin 16)] = true ∧
      (checked b).lineDriven (checked b).lines.line[(1 : Fin 16)] = true ∧
      (checked b).lines.line[(1 : Fin 16)].live.senseCheck = true ∧ (checked b).engine.posted = [] ∧
      (checked b).sourceState (checked b).lines.line[(0 : Fin 16)].live.source = false ∧
      (checked b).sourceState (checked b).lines.line[(1 : Fin 16)].live.source = true) ∧
    (50 ≤ (checked true).lines.line[(1 : Fin 16)].disagree ∧ (checked true).lines.line[(1 : Fin 16)].fault = false) ∧
    (50 ≤ (checked false).lines.line[(1 : Fin 16)].agree ∧ (checked false).lines.line[(1 : Fin 16)].fault = true) := by
  refine ⟨fun b => ⟨⟨rfl, rfl⟩, ?_⟩, by decide +kernel⟩
  revert b; decide +kernel

theorem test_lamp : (after (.lampFaultDetected 1) (checked true)).lines.line[(1 : Fin 16)].fault = true ∧
    (after (.lampFaultDetected 1) (checked true)).engine.attention = [⟨.line 1, .lampFault⟩] ∧
    (after (.lampFaultCleared 1) (checked false)).lines.line[(1 : Fin 16)].fault = false ∧
    (after (.holdExpiry 0) (checked true)).lines.line[(0 : Fin 16)].active = false := by decide +kernel

/-! ### Witnesses: further clauses -/

theorem held_two (k : Fin 6) : two.floor.held[k] = none ∧ two.floor.live[k] = none := by
  revert k; decide +kernel

theorem floorLaw_two : FloorLaw two where
  capacity := by decide +kernel
  liveBelow k x h := by rw [(held_two k).2] at h; cases h
  heldBelow k n h := by rw [(held_two k).1] at h; cases h
  liveOnce j k x y h := by rw [(held_two j).2] at h; cases h
  heldOnce j k n h := by rw [(held_two j).1] at h; cases h
  heldEmpty _ k := (held_two k).1
  liveEmpty _ k := (held_two k).2
  liveEnrolled k x h := by rw [(held_two k).2] at h; cases h
  heldEnrolled k n h := by rw [(held_two k).1] at h; cases h
  chairEnrolled n h := by cases h
  chairLive k x h := by rw [(held_two k).2] at h; cases h
  chairHeld k n h := by rw [(held_two k).1] at h; cases h
  sitting _ k := ⟨(held_two k).2, (held_two k).1⟩
  silence := by decide +kernel

theorem witness_ModesChangeAsCommanded_session : two.inReset = false ∧ two.mode = .recess ∧ FloorLaw two ∧
    ((after .setModeSession two).roster[(3 : Fin 200)].map (·.hot)) = some (some ⟨0, false⟩) := ⟨rfl, rfl, floorLaw_two, by decide +kernel⟩

theorem witness_ModesChangeAsCommanded_dormant : pooling.inReset = false ∧ pooling.mode ≠ .dormant ∧ PoolLaw pooling ∧
    pooling.combiner.pool[(0 : Fin 12)] = some pooled ∧ pooling.roster[pooled.entry] = some alice ∧
    ((after .setModeDormant pooling).roster[(3 : Fin 200)].map (·.lastBeacon)) = some (some 8) :=
  ⟨rfl, by decide, poolLaw_pooling, by decide +kernel⟩

theorem witness_ReceiverMovesWithItsLine_answering : (disabled.setPort 3 { disabled.ports[(3 : Fin 4)] with answer := some .taken }).inReset = false ∧
    (disabled.setPort 3 { disabled.ports[(3 : Fin 4)] with answer := some .taken }).ports[(3 : Fin 4)].enabled = false ∧
    (disabled.setPort 3 { disabled.ports[(3 : Fin 4)] with answer := some .taken }).ports[(3 : Fin 4)].answer.isSome = true := by
  decide +kernel

theorem witness_PortsAreEnabledDisabledAndRead_last : Ready onePort ∧ onePort.ports[(0 : Fin 4)].enabled = true ∧
    (∀ q : Fin 4, q ≠ 0 → onePort.ports[q].state = .off ∨ onePort.ports[q].state = .silent) ∧
    one.ports[(3 : Fin 4)].enabled = true ∧ (1 : Fin 4) ≠ 3 ∧ one.ports[(1 : Fin 4)].state = .warming :=
  ⟨⟨rfl, by decide⟩, by decide +kernel⟩

theorem witness_FramesAreTakenAndStrangersEntered_reported : (∀ i : Fin 8, one.combiner.strangers[i] = none) ∧
    visited.combiner.strangers[(0 : Fin 8)] = some stranger ∧ (takeStranger (sighting 8) one).engine.posted =
      [⟨.combiner, .report ⟨.chamber, .stranger⟩ true⟩] := by decide +kernel

/-- A full pool, the entries at positions 4 and 7 with the least window. -/
def fullPool : State := { one with combiner := { one.combiner with
  pool := Vector.ofFn fun i => some { pooled with entry := 20 + i.castLE (by decide), window := if i = 4 ∨ i = 7 then 3 else 5 } } }

theorem witness_PoolEntriesOpenJoinAndClose_full : (∀ j : Fin 12, fullPool.combiner.pool[j] ≠ none) ∧
    fullPool.combiner.pool[(4 : Fin 12)] = some { pooled with entry := 24, window := 3 } ∧
    (∀ j : Fin 12, ∀ f ∈ fullPool.combiner.pool[j], 3 ≤ f.window ∧ (f.window = 3 → 4 ≤ j)) ∧
    ((openPool 3 (sighting 8) fullPool).combiner.pool[(4 : Fin 12)].map (·.entry)) = some 3 := by decide +kernel

/-- The chair, entry 3, holding the floor by priority: entry 4 in slot 1 of the held floor. -/
def chairHold : State := { sitting with floor := { sitting.floor with
  chair := some 3, cause := .chair, held := setAt sitting.floor.held 1 (some 4) } }

theorem chairHold_held {k : Fin 6} {n : Fin 200} (h : chairHold.floor.held[k] = some n) : k = 1 ∧ n = 4 := only_get h

theorem floorLaw_chairHold : FloorLaw chairHold where
  capacity := by decide +kernel
  liveBelow k x h := by rw [show chairHold.floor.live[k] = none from (held_two k).2] at h; cases h
  heldBelow k n h := by obtain ⟨rfl, rfl⟩ := chairHold_held h; decide +kernel
  liveOnce j k x y h := by rw [show chairHold.floor.live[j] = none from (held_two j).2] at h; cases h
  heldOnce j k n h h' := by rw [(chairHold_held h).1, (chairHold_held h').1]
  heldEmpty h := by cases h
  liveEmpty _ k := (held_two k).2
  liveEnrolled k x h := by rw [show chairHold.floor.live[k] = none from (held_two k).2] at h; cases h
  heldEnrolled k n h := by obtain ⟨rfl, rfl⟩ := chairHold_held h; decide +kernel
  chairEnrolled n h := by
    have : (some 3 : Option (Fin 200)) = some n := h
    cases this; decide +kernel
  chairLive k x h := by rw [show chairHold.floor.live[k] = none from (held_two k).2] at h; cases h
  chairHeld k n h := by obtain ⟨rfl, rfl⟩ := chairHold_held h; decide +kernel
  sitting h := absurd rfl h
  silence := by decide +kernel

theorem witness_RetireEmptiesTheSlot_hold : Ready chairHold ∧ chairHold.engine.posted = [] ∧ FloorLaw chairHold ∧
    (3 : Byte).toNat = (3 : Fin 200).1 ∧ chairHold.roster[(3 : Fin 200)] = some alice ∧ chairHold.floor.chair = some 3 ∧
    chairHold.floor.cause = .chair ∧ chairHold.roster[(4 : Fin 200)] = some bob ∧ chairHold.floor.heldSlotOf 4 = some 1 ∧
    (after (.retire 3) chairHold).floor.live[(1 : Fin 6)] = some ⟨4, 8000, true, false⟩ :=
  ⟨⟨rfl, by decide⟩, rfl, floorLaw_chairHold, by decide +kernel⟩

/-- An entry whose cells stand at 2500 mV, LOST, with a POOR path once. -/
def worn : State := sitting.setSlot 3 (some { measured with presence := .lost })

theorem witness_ObservationIsApplied_handed :
    worn.roster[(3 : Fin 200)] = some { measured with presence := .lost } ∧
    (∃ x : Nat, measured.battery.filtered = some x ∧ 560 ≤ 1022 ∧ x + worn.profiles[measured.battery.profile].j ≤ 5 * 560) ∧
    ¬(∃ x : Nat, measured.battery.filtered = some x ∧ 500 ≤ 1022 ∧ x + worn.profiles[measured.battery.profile].j ≤ 5 * 500) ∧
    ((applyObservation 3 (observation false) worn).engine.posted.map (·.act)) = [.report lostWarning false] ∧
    (chaired.floor.chair ≠ some 4 ∧ chaired.floor.chair = some 3 ∧ chaired.floor.cause = .none ∧ chairHold.floor.chair = some 3 ∧
      chairHold.floor.cause = .chair ∧ chaired.tuning.priority = true ∧ chaired.mode = .session ∧ alice.switch = .opened ∧
      alice.presence = .live ∧ (floorTakes 3 chaired).floor.cause = .chair) := by
  refine ⟨by decide +kernel, ⟨2500, by decide +kernel⟩, ?_, by decide +kernel⟩
  rintro ⟨x, h, -, h'⟩
  cases (show some 2500 = some x from h)
  exact absurd h' (by decide +kernel)

theorem witness_BatteryIsEvaluated_reports :
    (BattLevel.low ≠ .unknown ∧ BattLevel.low.code.toNat < (classify aa 2400).code.toNat) ∧
    ((classify aa 2681).code.toNat ≤ BattLevel.low.code.toNat ∧ (classify aa (2681 - aa.h)).code.toNat < BattLevel.low.code.toNat) ∧
    ((classify aa 2680).code.toNat ≤ BattLevel.low.code.toNat ∧ BattLevel.low.code.toNat ≤ (classify aa (2680 - aa.h)).code.toNat) ∧
    (postBattery 3 .low .critical one).engine.posted = [⟨.battery, .both ⟨.entry 3, .battLow⟩ false ⟨.entry 3, .battCritical⟩ true⟩] ∧
    (postBattery 3 .critical .exhausted one).engine.posted = [] ∧
    (postBattery 3 .ok .low one).engine.posted = [⟨.battery, .report ⟨.entry 3, .battLow⟩ true⟩] := by decide

/-- A lost time of 1500 ms in force, entry 3 past it and entry 4 FADING below it; port 0 silent for 700 ms. -/
def waited : State := { settled with
  tuning := { settled.tuning with lostTime := 1500, silenceTime := 700 }
  roster := setAt (setAt two.roster 3 (some { alice with age := 1501 })) 4 (some { bob with presence := .fading, age := 1500 }) }

theorem witness_TimeLimitsActAtOnce_kept :
    (Ready waited ∧ waited.tuning.silenceTime = 700 ∧ waited.tuning.lostTime = 1500) ∧
    (waited.roster[(3 : Fin 200)] = some { alice with age := 1501 } ∧ alice.presence = .live ∧ waited.tuning.lostTime < 1501) ∧
    (waited.roster[(4 : Fin 200)] = some { bob with presence := .fading, age := 1500 } ∧ 1500 ≤ waited.tuning.lostTime) ∧
    (alice.interval = some .fast ∧ 301 ≤ 1500 ∧ 3 * 100 < 301 ∧ 3 * 100 < 1500) ∧
    (Entry.fresh 1 1 0 1).presence ≠ .live ∧ (Entry.fresh 1 1 0 1).interval = none ∧
    waited.floor.liveSlotOf 4 = none ∧ waited.floor.heldSlotOf 4 = none ∧ waited.engine.posted = [] ∧
    (after (.setLostTime 1500) waited).roster[(3 : Fin 200)] = some { alice with age := 1501 } ∧
    ((after (.setLostTime 1600) waited).roster[(3 : Fin 200)].map (·.presence)) = some .fading ∧
    (after (.setPortSilenceTime 700) waited).ports[(0 : Fin 4)].state = .up :=
  ⟨⟨⟨rfl, by decide⟩, rfl, rfl⟩, by decide +kernel⟩

theorem witness_FloorMovesKeepSlots_law : (FloorLaw chaired ∧ chaired.floor.liveSlotOf 4 = some 0 ∧ chaired.roster[(4 : Fin 200)] = some bob ∧
      chaired.floor.liveSlotOf 3 = none) ∧
    (FloorLaw chairHold ∧ chairHold.floor.held[(1 : Fin 6)] = some 4 ∧ chairHold.floor.held[(0 : Fin 6)] = none ∧
      chairHold.floor.heldSlotOf 4 = some 1 ∧ chairHold.floor.heldSlotOf 3 = none) ∧
    (moveToHeld { chaired with floor := { chaired.floor with live := setAt chaired.floor.live 0 (some ⟨4, 0, false, true⟩) } }).engine.posted =
      [⟨.floor, .report ⟨.entry 4, .silentFloor⟩ false⟩] :=
  ⟨⟨floorLaw_chaired, by decide +kernel⟩, ⟨floorLaw_chairHold, by decide +kernel⟩, by decide +kernel⟩

theorem witness_MutesAreSetAndCleared_all : Ready State.reset ∧ (∀ n : Fin 200, State.reset.roster[n] = none) ∧ Ready chaired ∧
    chaired.roster[(0 : Fin 200)] = none ∧ status .muteAll State.reset = some .ok ∧
    (after .muteAll chaired).roster[(0 : Fin 200)] = none := by
  refine ⟨ready_reset, fun n => ?_, ready_chaired, by decide +kernel⟩
  simp [State.reset]

theorem witness_ChairIsDesignated_floors : (Ready chaired ∧ FloorLaw chaired ∧ chaired.floor.chair = some 3 ∧ chaired.floor.cause = .none ∧
      (after (.setChair 4) chaired).floor.cause = .chair) ∧
    (Ready chairHold ∧ FloorLaw chairHold ∧ chairHold.floor.chair = some 3 ∧ chairHold.floor.cause = .chair ∧
      chairHold.roster[(4 : Fin 200)] = some bob ∧ chairHold.floor.chair ≠ some 4 ∧
      (after (.setChair 0xFF) chairHold).floor.live[(1 : Fin 6)] = some ⟨4, 8000, true, false⟩ ∧
      (after (.setChair 0xFF) chairHold).floor.held[(1 : Fin 6)] = none) ∧
    (Ready sitting ∧ FloorLaw sitting ∧ sitting.floor.chair = none ∧ sitting.floor.cause = .none ∧
      (after (.setChair 4) { sitting with tuning := { sitting.tuning with priority := false } }).floor.cause = .none) :=
  ⟨⟨ready_chaired, floorLaw_chaired, by decide +kernel⟩, ⟨⟨rfl, by decide⟩, floorLaw_chairHold, by decide +kernel⟩,
    ready_sitting, ⟨floorLaw_two.capacity, floorLaw_two.liveBelow, floorLaw_two.heldBelow, floorLaw_two.liveOnce, floorLaw_two.heldOnce,
      floorLaw_two.heldEmpty, floorLaw_two.liveEmpty, floorLaw_two.liveEnrolled, floorLaw_two.heldEnrolled, floorLaw_two.chairEnrolled,
      floorLaw_two.chairLive, floorLaw_two.chairHeld, fun h => absurd rfl h, floorLaw_two.silence⟩, by decide +kernel⟩

/-- R102: the new chair's SILENT_FLOOR ends with its slot. -/
theorem test_new_chair_reports : (prepareChair 4 { chaired with floor := { chaired.floor with
    live := setAt chaired.floor.live 0 (some ⟨4, 0, false, true⟩) } }).engine.posted =
      [⟨.floor, .report ⟨.entry 4, .silentFloor⟩ false⟩] := by decide +kernel

theorem witness_FloorTimersAndSilenceKeyAct_stopped : asleep.inReset = false ∧ asleep.clockRunning = false := ⟨rfl, rfl⟩

/-- A full list of HOT_MIC warnings, with BATT_LOW of entry 40 and HOT_MIC of entry 41 beside it. -/
def overfull : Engine := { hotMics with warnings := hotMics.warnings ++
  [⟨⟨.entry 40, .battLow⟩, .standing, 2⟩, ⟨⟨.entry 41, .hotMic⟩, .raised, 3⟩, ⟨⟨.entry 42, .hotMic⟩, .raised, 4⟩] }

theorem witness_RaisesAndClearsChangeTheWarning_readmitted :
    32 ≤ overfull.attention.length ∧ overfull.stateOf ⟨.entry 5, .hotMic⟩ = some .raised ∧
    (overfull.clear .selfClearing ⟨.entry 5, .hotMic⟩).attention.getLast? = some ⟨.entry 41, .hotMic⟩ ∧
    (overfull.clear .selfClearing ⟨.entry 5, .hotMic⟩).attention.length = 32 := by decide +kernel

theorem witness_RaisesAndClearsChangeTheWarning_place : ∃ g : Engine, g = { overfull with attention := overfull.attention.dropLast } ∧
    g.attention.length < 32 ∧ (g.warnings.map fun r => r.id.key).Pairwise (· < ·) ∧
    (g.attention.map fun id => id.cls.severity).Pairwise (· ≥ ·) ∧ ⟨⟨.entry 31, .hotMic⟩, .raised, 1⟩ ∈ g.unlisted ∧
    ∀ q ∈ g.unlisted, q.id.cls.severity < 3 ∨ q.id.cls.severity = 3 ∧ (⟨.entry 31, .hotMic⟩ : WarnId).key ≤ q.id.key :=
  ⟨_, rfl, by decide +kernel⟩

theorem test_warnings_named : warningOf 0 77 8 = some ⟨.chamber, .stranger⟩ ∧ warningOf 1 3 2 = some ⟨.port 3, .receiverSilent⟩ ∧
    warningOf 1 4 2 = none ∧ warningOf 2 15 7 = some ⟨.line 15, .lampFault⟩ ∧ warningOf 3 199 6 = some ⟨.entry 199, .silentFloor⟩ ∧
    warningOf 3 200 6 = none ∧ warningOf 3 0 2 = none ∧ warningOf 4 0 0 = none := by decide

theorem witness_ListIsAcknowledgedAndRead_quiets :
    (∀ r, standingCells 3 r = true ↔
      r.id.subject = .entry 3 ∧ (r.id.cls = .battLow ∨ r.id.cls = .battCritical) ∧ r.state = .standing) ∧
    (∀ r : WarnRecord, r.id.cls.sitting = true ↔
      r.id.cls = .sigLost ∨ r.id.cls = .sigWeak ∨ r.id.cls = .hotMic ∨ r.id.cls = .silentFloor) ∧
    (overfull.quietAll fun r => r.id.subject == .entry 5).attention.length = 32 := by
  refine ⟨fun r => ?_, fun r => ?_, by decide +kernel⟩
  · simp [standingCells, and_assoc]
  · cases r.id.cls <;> decide

theorem test_irq : alarmed.irqAsserted = true ∧
    ({ alarmed with tuning := { alarmed.tuning with irqMask := 0x1FE } } : State).irqAsserted = false ∧
    ({ alarmed with inReset := true } : State).irqAsserted = false := by decide +kernel

/-- Line 7 active and faulty, its hold running, staged to another configuration that is active as well. -/
def rearranged : State := { boundary true with
  lines := { (boundary true).lines with line := setAt (boundary true).lines.line 7 { Line.reset false with
    live := ⟨.on, .steady, .activeHigh, 3, .ms10, true⟩, staged := ⟨.on, .fast, .activeHigh, 5, .ms10, true⟩
    source := true, active := true, hold := 9, disagree := 50, fault := true } } }

theorem witness_BoundaryMakesTheCommit_hold : Ticking rearranged ∧ rearranged.lines.boundaryDue = true ∧
    rearranged.lines.commitPending = true ∧ rearranged.engine.posted = [] ∧
    rearranged.lines.line[(7 : Fin 16)].live ≠ rearranged.lines.line[(7 : Fin 16)].staged ∧
    (after .blinkBoundary rearranged).lines.line[(5 : Fin 16)].hold = 100 ∧
    (after .blinkBoundary rearranged).lines.line[(7 : Fin 16)].hold = 0 ∧
    (after .blinkBoundary rearranged).lines.line[(7 : Fin 16)].active = true := ⟨⟨rfl, rfl⟩, by decide +kernel⟩

theorem test_lines_lit : (lit 499).lineLit (lit 499).lines.line[(0 : Fin 16)] = true ∧
    (lit 500).lineLit (lit 500).lines.line[(0 : Fin 16)] = false ∧
    alarmed.sourceState (.warning (.group 2) 0x001 false) = true ∧ alarmed.sourceState (.warning (.group 3) 0x001 false) = false ∧
    alarmed.sourceState (.warning (.port 2) 0x004 false) = false ∧ alarmed.sourceState (.warning (.port 2) 0x004 true) = true ∧
    alarmed.sourceState (.attention 5) = true ∧ speaking.sourceState (.gate 0) = true ∧ chaired.sourceState .chairSpeaking = true := by
  decide +kernel

/-! ### Witnesses: laws that every step keeps -/

theorem witness_StepsKeepThePortLaws : (∀ p : Fin 4, PortLaw served.ports[p]) ∧
    step { served with pending := [.frameComplete 0 0x93] } = .next (after (.frameComplete 0 0x93) served) :=
  ⟨portLaw_served, rfl⟩

theorem witness_StepsKeepThePoolLaw : (ClockLaw pooling ∧ PoolLaw pooling) ∧ 
    step { pooling with pending := [.poolWindowExpiry 0] } = .next (after (.poolWindowExpiry 0) pooling) :=
  ⟨⟨clockLaw_pooling, poolLaw_pooling⟩, rfl⟩

theorem witness_StepsKeepTheKeyLaw : KeyLaw keyed ∧
    step { keyed with pending := [.enrolStranger 0 250 7 3] } = .next (after (.enrolStranger 0 250 7 3) keyed) :=
  ⟨keyLaw_keyed, rfl⟩

theorem witness_StepsKeepTheEvaluatorLaw : (SettingsLaw evaluated ∧ EvaluatorLaw evaluated) ∧
    step { evaluated with pending := [.readStatus] } = .next (after .readStatus evaluated) :=
  ⟨⟨settingsLaw_evaluated, evaluatorLaw_evaluated⟩, rfl⟩

theorem witness_StepsKeepTheFloorLaw : (ClockLaw chaired ∧ FloorLaw chaired) ∧
    step { chaired with pending := [.setChair 4] } = .next (after (.setChair 4) chaired) :=
  ⟨⟨clockLaw_chaired, floorLaw_chaired⟩, rfl⟩

theorem witness_StepsKeepSpeakingDerived : (ClockLaw chaired ∧ FloorLaw chaired ∧ SpeakingLaw chaired) ∧
    step { chaired with pending := [.mute 4] } = .next (after (.mute 4) chaired) :=
  ⟨⟨clockLaw_chaired, floorLaw_chaired, speakingLaw_chaired⟩, rfl⟩

theorem witness_StepsKeepTheAttentionList : EngineLaw alarmed ∧
    step { alarmed with pending := [.ackListed] } = .next (after .ackListed alarmed) := ⟨engineLaw_alarmed, rfl⟩

/-- The chaired part with a battery warning STANDING of a LATCHED class, and a sitting's own. -/
def troubled : State := { chaired with engine :=
  ⟨[⟨lostWarning, .raised, 1⟩, ⟨⟨.entry 3, .battCritical⟩, .standing, 2⟩], [lostWarning, ⟨.entry 3, .battCritical⟩], 2, []⟩ }

theorem witness_StepsKeepTheAttentionList_sitting :
    (ClockLaw troubled ∧ FloorLaw troubled ∧ SpeakingLaw troubled ∧ EngineLaw troubled ∧ WarningLaw troubled) ∧
    step { troubled with pending := [.setModeRecess 0] } = .next (after (.setModeRecess 0) troubled) ∧
    (after (.setModeRecess 0) troubled).engine.attention = [⟨.entry 3, .battCritical⟩] := by
  refine ⟨⟨⟨clockLaw_chaired.runs, clockLaw_chaired.reset⟩, ⟨floorLaw_chaired.capacity, floorLaw_chaired.liveBelow, floorLaw_chaired.heldBelow,
    floorLaw_chaired.liveOnce, floorLaw_chaired.heldOnce, floorLaw_chaired.heldEmpty, floorLaw_chaired.liveEmpty,
    floorLaw_chaired.liveEnrolled, floorLaw_chaired.heldEnrolled, floorLaw_chaired.chairEnrolled, floorLaw_chaired.chairLive,
    floorLaw_chaired.chairHeld, floorLaw_chaired.sitting, floorLaw_chaired.silence⟩,
    ⟨speakingLaw_chaired.live, speakingLaw_chaired.hot⟩, ⟨rfl, ?_⟩, ⟨by decide +kernel, fun h => absurd rfl h⟩⟩, rfl, by decide +kernel⟩
  constructor <;> decide +kernel

end Sys2Proof.Tests
end

section
/-! PROOFS. The moves of one antenna port, and that each keeps the laws of a port. -/

namespace Sys2Proof.Machine

/-! ### What befalls one port -/

/-- All that a step can do to one antenna port, each move under the condition on which its row makes it (R1 to R17). -/
inductive PortMove : AntennaPort → AntennaPort → Prop where
  | refl (x : AntennaPort) : PortMove x x
  | character {x : AntennaPort} (b : Byte) (h : x.characterDue = true) : PortMove x (x.character b)
  | goneWrong (x : AntennaPort) : PortMove x x.goneWrong
  | answering (x : AntennaPort) (a : Answer) : PortMove x (x.answering a)
  | accept {x : AntennaPort} {f : List Byte} (he : x.enabled = true) (hf : validFrame f = true) : PortMove x (x.accept f)
  | roused (x : AntennaPort) : PortMove x (x.heard.answering .wake)
  | answered (x : AntennaPort) : PortMove x x.answered
  | listening {x : AntennaPort} (h : x.resyncDue = true) : PortMove x { x with rx := .listening }
  | up {x : AntennaPort} (h : x.warmUpDue = true) : PortMove x { x with state := .up }
  | silent {x : AntennaPort} (h : x.state ≠ .off) : PortMove x { x with state := .silent }
  | take {x : AntennaPort} {f : InboxFrame} {rest : List InboxFrame} (h : x.inbox = f :: rest) : PortMove x { x with inbox := rest }
  | read (x : AntennaPort) : PortMove x { x with congested := false }
  | turnedOn (x : AntennaPort) : PortMove x x.turnedOn
  | turnedOff (x : AntennaPort) : PortMove x x.turnedOff
  | tick (x : AntennaPort) : PortMove x x.tick
  | woken (x : AntennaPort) : PortMove x x.woken
  | chamberReset (x : AntennaPort) : PortMove x x.chamberReset
  | deviceReset (x : AntennaPort) : PortMove x .reset

/-! ### Equations of a port's operations -/

theorem heard_enabled (x : AntennaPort) : x.heard.enabled = x.enabled := by
  unfold AntennaPort.heard; split <;> rfl

theorem heard_inbox (x : AntennaPort) : x.heard.inbox = x.inbox := by
  unfold AntennaPort.heard; split <;> rfl

/-- A valid frame at an inbox with room: taken, with its warming mark (R4). -/
theorem accept_of_room {x : AntennaPort} (h : x.inbox.length < 2) (f : List Byte) : x.accept f = { x.heard with
    silence := 0, inbox := x.inbox ++ [⟨f, x.heard.state == .warming⟩]
    rx := .answering, frame := [], rejectOwed := false, answer := some .taken } := by
  rw [← heard_inbox] at h ⊢
  exact if_pos h

/-- A valid frame at a full inbox: HOLD, with the congested flag set (R4). -/
theorem accept_of_full {x : AntennaPort} (h : 2 ≤ x.inbox.length) (f : List Byte) : x.accept f = { x.heard with
    silence := 0, congested := true, rx := .answering, frame := [], rejectOwed := false, answer := some .hold } := by
  rw [← heard_inbox] at h
  exact if_neg (not_lt.2 h)

/-! ### The laws of a port -/

theorem PortLaw.frame_eq_nil {x : AntennaPort} (h : PortLaw x) (hr : x.rx ≠ .receiving) : x.frame = [] :=
  not_not.1 fun hf => hr (h.receiving.2 hf)

theorem heard_law {x : AntennaPort} (h : PortLaw x) : PortLaw x.heard := by
  unfold AntennaPort.heard
  split
  · rename_i hs
    have he : x.enabled ≠ false := fun e => by rw [h.off.2 e] at hs; cases hs
    exact ⟨by simp [AntennaPort.startWarming, he], nofun, nofun, Nat.zero_le _, h.silence, h.inbox, h.frame, h.receiving⟩
  · exact h

theorem answering_law {x : AntennaPort} (h : PortLaw x) (a : Answer) : PortLaw (x.answering a) :=
  ⟨h.off, h.offTimers, h.upTimer, h.warmUp, h.silence, h.inbox, Nat.zero_le _, by simp [AntennaPort.answering]⟩

/-- An accepted frame finds room in an inbox of fewer than two, at a port that is not OFF (R4, R6). -/
theorem accept_law {x : AntennaPort} (h : PortLaw x) (he : x.enabled = true) (f : List Byte) : PortLaw (x.accept f) := by
  have hh := heard_law h
  have hon : x.heard.state ≠ .off := fun e => by
    have := hh.off.1 e
    rw [heard_enabled, he] at this; cases this
  rcases lt_or_ge x.inbox.length 2 with hr | hr
  · rw [accept_of_room hr]
    exact ⟨hh.off, fun e => absurd e hon, hh.upTimer, hh.warmUp, Nat.zero_le _, by simp; omega, Nat.zero_le _, by simp⟩
  · rw [accept_of_full hr]
    exact ⟨hh.off, fun e => absurd e hon, hh.upTimer, hh.warmUp, Nat.zero_le _, hh.inbox, Nat.zero_le _, by simp⟩

theorem character_law {x : AntennaPort} (h : PortLaw x) (b : Byte) (hd : x.characterDue = true) : PortLaw (x.character b) := by
  have h9 := h.frame
  simp only [AntennaPort.characterDue, Config.frameLength, Bool.and_eq_true, Bool.not_eq_true', Bool.and_eq_false_iff, beq_eq_false_iff_ne] at hd
  unfold AntennaPort.character
  cases hr : x.rx with
  | listening => exact ⟨h.off, h.offTimers, h.upTimer, h.warmUp, h.silence, h.inbox, by simp, by simp⟩
  | receiving =>
    have hl : x.frame.length ≠ 9 := hd.2.resolve_left fun e => e hr
    exact ⟨h.off, h.offTimers, h.upTimer, h.warmUp, h.silence, h.inbox, by simp; omega, by simp⟩
  | answering => exact h
  | resync => exact h

theorem answered_law {x : AntennaPort} (h : PortLaw x) : PortLaw x.answered := by
  unfold AntennaPort.answered
  split
  · rename_i hc
    simp only [Bool.and_eq_true, beq_iff_eq] at hc
    have hf := h.frame_eq_nil (by rw [hc.2]; decide)
    exact ⟨h.off, h.offTimers, h.upTimer, h.warmUp, h.silence, h.inbox, h.frame, by simp [hf]⟩
  · exact ⟨h.off, h.offTimers, h.upTimer, h.warmUp, h.silence, h.inbox, h.frame, h.receiving⟩

theorem tick_portLaw {x : AntennaPort} (h : PortLaw x) : PortLaw x.tick := by
  have hoff := h.off
  unfold AntennaPort.tick
  cases hs : x.state with
  | off => exact h
  | warming =>
    exact ⟨by simpa [hs] using hoff, nofun, nofun, Nat.min_le_left _ _, Nat.min_le_left _ _, h.inbox, h.frame, h.receiving⟩
  | up =>
    exact ⟨by simpa [hs] using hoff, nofun, fun _ => h.upTimer hs, h.warmUp, Nat.min_le_left _ _, h.inbox, h.frame, h.receiving⟩
  | silent =>
    exact ⟨by simpa [hs] using hoff, nofun, nofun, h.warmUp, Nat.min_le_left _ _, h.inbox, h.frame, h.receiving⟩

theorem woken_law {x : AntennaPort} (h : PortLaw x) : PortLaw x.woken := by
  unfold AntennaPort.woken
  split
  · exact ⟨h.off, fun e => ⟨(h.offTimers e).1, rfl, (h.offTimers e).2.2⟩, h.upTimer, h.warmUp, Nat.zero_le _, h.inbox, h.frame, h.receiving⟩
  · exact h

theorem chamberReset_portLaw {x : AntennaPort} (h : PortLaw x) : PortLaw x.chamberReset := by
  unfold AntennaPort.chamberReset
  split
  · rename_i he
    exact ⟨by simp [he], by simp, by simp, by simp, by simp, by simp, h.frame, h.receiving⟩
  · rename_i he
    exact ⟨by simpa using he, by simp, by simp, by simp, by simp, by simp, h.frame, h.receiving⟩

theorem reset_portLaw : PortLaw AntennaPort.reset := by
  constructor <;> simp [AntennaPort.reset]

/-- Every move of a port keeps its laws. -/
theorem PortMove.law {x y : AntennaPort} (h : PortMove x y) (hx : PortLaw x) : PortLaw y := by
  cases h with
  | refl => exact hx
  | character b hd => exact character_law hx b hd
  | goneWrong => exact ⟨hx.off, hx.offTimers, hx.upTimer, hx.warmUp, hx.silence, hx.inbox, Nat.zero_le _, by simp [AntennaPort.goneWrong]⟩
  | answering a => exact answering_law hx a
  | accept he hf => exact accept_law hx he _
  | roused => exact answering_law (heard_law hx) _
  | answered => exact answered_law hx
  | listening hd =>
    simp only [AntennaPort.resyncDue, Bool.and_eq_true, beq_iff_eq] at hd
    have hf := hx.frame_eq_nil (by rw [hd.1.1.2]; decide)
    exact ⟨hx.off, hx.offTimers, hx.upTimer, hx.warmUp, hx.silence, hx.inbox, hx.frame, by simp [hf]⟩
  | up hd =>
    simp only [AntennaPort.warmUpDue, Config.warmUpTime, Bool.and_eq_true, beq_iff_eq] at hd
    have hon := hx.off
    rw [hd.1] at hon
    exact ⟨by simpa using hon, by simp, fun _ => le_antisymm hx.warmUp (of_decide_eq_true hd.2), hx.warmUp, hx.silence, hx.inbox, hx.frame, hx.receiving⟩
  | silent hs =>
    have hon : x.enabled ≠ false := fun e => hs (hx.off.2 e)
    exact ⟨by simpa using hon, by simp, by simp, hx.warmUp, hx.silence, hx.inbox, hx.frame, hx.receiving⟩
  | take hi =>
    refine ⟨hx.off, fun e => ?_, hx.upTimer, hx.warmUp, hx.silence, ?_, hx.frame, hx.receiving⟩
    · rw [(hx.offTimers e).2.2] at hi; cases hi
    · have := hx.inbox
      rw [hi, List.length_cons] at this
      exact le_trans (Nat.le_succ _) this
  | read => exact ⟨hx.off, hx.offTimers, hx.upTimer, hx.warmUp, hx.silence, hx.inbox, hx.frame, hx.receiving⟩
  | turnedOn => constructor <;> simp [AntennaPort.turnedOn]
  | turnedOff => constructor <;> simp [AntennaPort.turnedOff]
  | tick => exact tick_portLaw hx
  | woken => exact woken_law hx
  | chamberReset => exact chamberReset_portLaw hx
  | deviceReset => exact reset_portLaw

/-! ### Inboxes -/

/-- Only a valid frame comes into an inbox (R2, R4). -/
theorem PortMove.mem_inbox {x y : AntennaPort} (h : PortMove x y) {f : InboxFrame} (hf : f ∈ y.inbox) :
    f ∈ x.inbox ∨ validFrame f.bytes = true := by
  cases h with
  | refl => exact .inl hf
  | character b hd => unfold AntennaPort.character at hf; split at hf <;> exact .inl hf
  | goneWrong => exact .inl hf
  | answering a => exact .inl hf
  | accept he hv =>
    rcases lt_or_ge x.inbox.length 2 with hr | hr
    · rw [accept_of_room hr, List.mem_append, List.mem_singleton] at hf
      exact hf.imp_right fun e => by rw [e]; exact hv
    · rw [accept_of_full hr] at hf
      exact .inl (heard_inbox x ▸ hf)
  | roused => exact .inl (heard_inbox x ▸ hf)
  | answered => unfold AntennaPort.answered at hf; split at hf <;> exact .inl hf
  | listening hd => exact .inl hf
  | up hd => exact .inl hf
  | silent hs => exact .inl hf
  | take hi => exact .inl (hi ▸ List.mem_cons_of_mem _ hf)
  | read => exact .inl hf
  | turnedOn => cases hf
  | turnedOff => cases hf
  | tick => unfold AntennaPort.tick at hf; split at hf <;> exact .inl hf
  | woken => unfold AntennaPort.woken at hf; split at hf <;> exact .inl hf
  | chamberReset => unfold AntennaPort.chamberReset at hf; split at hf <;> cases hf
  | deviceReset => cases hf

end Sys2Proof.Machine
end

section
/-! PROOFS. What a step can do to the ports, to the keys of the roster and to the stranger table, said once for all 78 rows
(`exec_intakeStep`); and the two laws that follow: of the ports (O54) and of the keys (O56). -/

namespace Sys2Proof.Machine

/-! ### What a step can do to ports, keys and strangers -/

/-- A slot of the roster brings no new key: it holds the unit and the seat that it held, or is empty. -/
def NoNewKeys (a b : Option Entry) : Prop := ∀ f, b = some f → ∃ e, a = some e ∧ f.unit = e.unit ∧ f.seat = e.seat

/-- A place of the stranger table brings no new unit: it names the unit that it named, or is empty. -/
def NoNewStranger (a b : Option Stranger) : Prop := ∀ q, b = some q → ∃ r, a = some r ∧ q.unit = r.unit

theorem NoNewKeys.refl (a : Option Entry) : NoNewKeys a a := fun f h => ⟨f, h, rfl, rfl⟩
theorem NoNewStranger.refl (a : Option Stranger) : NoNewStranger a a := fun q h => ⟨q, h, rfl⟩

theorem NoNewKeys.none (a : Option Entry) : NoNewKeys a none := fun _ h => nomatch h
theorem NoNewStranger.none (a : Option Stranger) : NoNewStranger a none := fun _ h => nomatch h

theorem SameEntry.noNewKeys {a b : Option Entry} (h : SameEntry a b) : NoNewKeys a b := by
  rintro f rfl
  rcases h with ⟨_, h⟩ | ⟨e, f', rfl, h, hu, hs, _⟩
  · cases h
  · cases h; exact ⟨e, rfl, hu, hs⟩

theorem NoNewKeys.map (g : Entry → Entry) (hu : ∀ e, (g e).unit = e.unit) (hs : ∀ e, (g e).seat = e.seat) (a : Option Entry) :
    NoNewKeys a (a.map g) := by
  intro f hf
  obtain ⟨e, rfl, rfl⟩ := Option.map_eq_some_iff.1 hf
  exact ⟨e, rfl, hu e, hs e⟩

/-- All that a step can do to the ports, to the keys of the roster and to the stranger table: every port makes a move and no key is
new; a stranger's frame is taken; a unit is enrolled, once its key is known to be free; an entry takes a free seat. -/
inductive IntakeStep : State → State → Prop where
  | settle {s t : State} (ports : ∀ p : Fin 4, PortMove s.ports[p] t.ports[p])
      (roster : ∀ n : Fin 200, NoNewKeys s.roster[n] t.roster[n])
      (strangers : ∀ i : Fin 8, NoNewStranger s.combiner.strangers[i] t.combiner.strangers[i]) : IntakeStep s t
  | stranger {s t : State} {p : Fin 4} {f : InboxFrame} (inbox : f ∈ s.ports[p].inbox) (kind : frameByte f.bytes 0 = sightingKind)
      (unknown : s.entryOfUnit (frameUnit f.bytes) = none) (ports : ∀ q : Fin 4, PortMove s.ports[q] t.ports[q])
      (roster : t.roster = s.roster)
      (strangers : t.combiner.strangers = strangersAfter s.combiner (sightingOf p f)) : IntakeStep s t
  | enrol {s : State} (n : Fin 200) {u : UnitId} {seat : Nat} (g : Fin 8) (pr : Fin 4)
      (unit : badUnit u = false ∧ s.entryOfUnit u = none ∨ ∃ (i : Fin 8) (r : Stranger), s.combiner.strangers[i] = some r ∧ r.unit = u)
      (range : 1 ≤ seat ∧ seat ≤ 250) (free : s.entryOfSeat seat = none) : IntakeStep s (enrolAt n u seat g pr s)
  | amend {s : State} {n : Fin 200} {e : Entry} {seat : Nat} (g : Fin 8) (pr : Fin 4) (entry : s.roster[n] = some e)
      (range : 1 ≤ seat ∧ seat ≤ 250) (free : s.seatHeldByOther n seat = false) :
      IntakeStep s (s.setSlot n (some (e.amended seat g pr)))
  | trans {s t u : State} (h₁ : IntakeStep s t) (h₂ : IntakeStep t u) : IntakeStep s u

namespace IntakeStep

/-- What leaves the three alone is such a step. -/
theorem keep {s t : State} (hp : t.ports = s.ports) (hr : t.roster = s.roster) (hs : t.combiner.strangers = s.combiner.strangers) :
    IntakeStep s t :=
  .settle (fun p => by rw [hp]; exact .refl _) (fun n => by rw [hr]; exact .refl _) (fun i => by rw [hs]; exact .refl _)

theorem refl (s : State) : IntakeStep s s := .keep rfl rfl rfl

theorem of_entryStep {s t : State} (h : EntryStep s t) : IntakeStep s t :=
  .settle (fun p => by rw [h.ports]; exact .refl _) (fun n => (h.roster n).noNewKeys) (fun i => by rw [h.strangers]; exact .refl _)

theorem of_floorStep {s t : State} (h : FloorStep s t) : IntakeStep s t := .of_entryStep h.entryStep

/-- One port moves. -/
theorem setPort {s : State} {p : Fin 4} {x : AntennaPort} (h : PortMove s.ports[p] x) : IntakeStep s (s.setPort p x) := by
  refine .settle (fun q => ?_) (fun _ => .refl _) (fun _ => .refl _)
  rw [State.setPort_ports, setAt_get]
  split
  · rename_i e; rw [← e]; exact h
  · exact .refl _

theorem postChange {s t : State} (h : IntakeStep s t) (b : Block) (id : WarnId) (old new : Bool) :
    IntakeStep s (t.postChange b id old new) := h.trans (.of_floorStep (.postChange t b id old new))

theorem portBecomes {s : State} {p : Fin 4} {x : AntennaPort} (h : PortMove s.ports[p] x) : IntakeStep s (s.portBecomes p x) :=
  (setPort h).postChange _ _ _ _

theorem setSlot {s : State} {n : Fin 200} {x : Option Entry} (h : NoNewKeys s.roster[n] x) : IntakeStep s (s.setSlot n x) := by
  refine .settle (fun _ => .refl _) (fun m => ?_) (fun _ => .refl _)
  rw [State.setSlot_roster, setAt_get]
  split
  · rename_i e; rw [← e]; exact h
  · exact .refl _

/-- The stranger table loses records, or has them changed in place. -/
theorem strangersBecome {s : State} {v : Vector (Option Stranger) 8} (h : ∀ i : Fin 8, NoNewStranger s.combiner.strangers[i] v[i]) :
    IntakeStep s (s.strangersBecome v) :=
  (IntakeStep.settle (s := s) (t := { s with combiner := { s.combiner with strangers := v } }) (fun _ => .refl _) (fun _ => .refl _)
    h).postChange _ _ _ _

theorem takeReports {s t : State} (h : IntakeStep s t) : IntakeStep s t.takeReports :=
  h.trans (.keep (takeReports_ports t) (takeReports_roster t) (by rw [takeReports_combiner]))

theorem finish {s t : State} (h : IntakeStep s t) : IntakeStep s (finish t) :=
  h.trans (.keep (finish_ports t) (finish_roster t) (by rw [finish_combiner]))

theorem forEach {n : Nat} {f : Fin n → State → State} (hf : ∀ a t, IntakeStep t (f a t)) (s : State) : IntakeStep s (forEach f s) :=
  forEach_induct (P := IntakeStep s) s (.refl s) fun a t ht => ht.trans (hf a t)

end IntakeStep

/-! ### Handlings -/

/-- The state that a command's body leaves, before the end of its handling. -/
def Handling.state : Handling → State
  | .answered s _ => s
  | .acted s _ => s

@[simp] theorem refuse_state (s : State) (st : Status) (len : Nat) : (refuse s st len).state = s := rfl

theorem acted_intakeStep {s t : State} (h : IntakeStep s t) (r : Reply) : IntakeStep s (Handling.acted t r).state := h

theorem conclude_intakeStep {s : State} {h : Handling} (hs : IntakeStep s h.state) (i : Instr) : IntakeStep s (h.conclude i) := by
  cases h with
  | answered t r => exact hs.trans (.keep rfl rfl rfl)
  | acted t r => exact hs.finish.trans (.keep rfl rfl rfl)

theorem wake_intakeStep (s : State) : IntakeStep s (wake s) := by
  refine .settle (fun p => ?_) (fun n => ?_) (fun _ => .refl _)
  · show PortMove s.ports[p] (mapTable s.ports fun _ p => p.woken)[p]
    rw [mapTable_get]; exact .woken _
  · show NoNewKeys s.roster[n] (mapTable s.roster fun _ e => e.map Entry.woken)[n]
    rw [mapTable_get]; exact .map Entry.woken (fun _ => rfl) (fun _ => rfl) _

theorem wakeIfDormant_intakeStep (s : State) : IntakeStep s (wakeIfDormant s) := by
  unfold wakeIfDormant; split
  · exact wake_intakeStep s
  · exact .refl s
  · exact .refl s

theorem next_intakeStep {s u t : State} (hu : IntakeStep s u)
    (h : (.next u : Host.Outcome State Fault Refusal) = .next t) : IntakeStep s t := by
  cases h; exact hu

theorem occur_intakeStep {s t : State} {due : Bool} {f : State → State} (h : occur due f s = .next t)
    (hf : due = true → IntakeStep s (f s)) : IntakeStep s t := by
  refine next_intakeStep ?_ h
  split
  · exact .refl s
  · rename_i hc
    simp only [Bool.or_eq_true, Bool.not_eq_true', not_or, Bool.not_eq_false] at hc
    exact (hf hc.2).finish

theorem runCommand_intakeStep {i : Instr} {body : State → Handling} {s t : State} (h : runCommand i body s = .next t)
    (hb : ∀ u, IntakeStep u (body u).state) : IntakeStep s t := by
  refine next_intakeStep ?_ h
  split
  · exact .refl s
  · exact (wakeIfDormant_intakeStep s).trans (conclude_intakeStep (hb _) i)

/-- A command that names an entry does nothing to the three if its action on the entry does nothing new to them. -/
theorem onEntry_intakeStep {entry : Byte} {len : Nat} {f : Fin 200 → Entry → Handling} {s : State}
    (hf : ∀ n e, s.roster[n] = some e → IntakeStep s (f n e).state) : IntakeStep s (onEntry entry len f s).state := by
  unfold onEntry; split
  · exact .refl s
  · split
    · exact .refl s
    · exact hf _ _ ‹_›

/-! ### Each row -/

theorem tick_intakeStep (s : State) : IntakeStep s (tick s) := by
  refine .settle (fun p => ?_) (fun n => ?_) (fun i => ?_)
  · show PortMove s.ports[p] (mapTable s.ports fun _ p => p.tick)[p]
    rw [mapTable_get]; exact .tick _
  · show NoNewKeys s.roster[n] (mapTable s.roster fun _ e => e.map Entry.tick)[n]
    rw [mapTable_get]; exact .map Entry.tick (fun _ => rfl) (fun _ => rfl) _
  · show NoNewStranger s.combiner.strangers[i] (mapTable s.combiner.strangers fun _ r => r.map Stranger.tick)[i]
    rw [mapTable_get]
    intro q hq
    obtain ⟨r, hr, rfl⟩ := Option.map_eq_some_iff.1 hq
    exact ⟨r, hr, rfl⟩

theorem autonomous_intakeStep (s : State) : IntakeStep s (autonomous s) := by
  unfold autonomous
  split
  · exact .refl s
  · split
    · split
      · exact tick_intakeStep s
      · exact .refl s
    · exact .keep rfl rfl rfl

theorem deviceReset_intakeStep (s : State) : IntakeStep s (deviceReset s) := by
  refine .settle (fun p => ?_) (fun n => ?_) (fun i => ?_)
  · have h : (deviceReset s).ports[p] = AntennaPort.reset := Vector.getElem_replicate _
    rw [h]; exact .deviceReset _
  · have h : (deviceReset s).roster[n] = none := Vector.getElem_replicate _
    rw [h]; exact .none _
  · have h : (deviceReset s).combiner.strangers[i] = none := Vector.getElem_replicate _
    rw [h]; exact .none _

theorem chamberResetAll_intakeStep (s : State) : IntakeStep s (chamberResetAll s) := by
  refine .settle (fun p => ?_) (fun n => ?_) (fun i => ?_)
  · show PortMove s.ports[p] (mapTable s.ports fun _ p => p.chamberReset)[p]
    rw [mapTable_get]; exact .chamberReset _
  · show NoNewKeys s.roster[n] (mapTable s.roster fun _ e => e.map Entry.chamberReset)[n]
    rw [mapTable_get]; exact .map Entry.chamberReset (fun _ => rfl) (fun _ => rfl) _
  · have h : (chamberResetAll s).combiner.strangers[i] = none := Vector.getElem_replicate _
    rw [h]; exact .none _

/-- The judging of a tenth character (R2 to R5). -/
theorem judgeFrame_intakeStep {p : Fin 4} {s : State} (he : s.ports[p].enabled = true) (f : List Byte) :
    IntakeStep s (judgeFrame p f s) := by
  unfold judgeFrame
  split
  · rename_i hv
    split
    · exact (wake_intakeStep s).trans (.portBecomes (.roused _))
    · exact .portBecomes (.accept he hv)
    · exact .portBecomes (.accept he hv)
  · exact .setPort (.answering _ _)

theorem portFallsSilent_intakeStep {p : Fin 4} {s : State} (h : s.ports[p].state ≠ .off) : IntakeStep s (portFallsSilent p s) :=
  (IntakeStep.portBecomes (.silent h)).trans (.of_entryStep (recheckCoverage_entryStep _))

theorem endWarmUp_intakeStep {p : Fin 4} {s : State} (h : s.ports[p].warmUpDue = true) : IntakeStep s (endWarmUp p s) := by
  unfold endWarmUp
  split
  · exact .setPort (.up h)
  · refine portFallsSilent_intakeStep fun e => ?_
    rw [AntennaPort.warmUpDue, e] at h; cases h

theorem disablePort_intakeStep (p : Fin 4) (s : State) : IntakeStep s (disablePort p s) :=
  (IntakeStep.portBecomes (.turnedOff _)).trans (.of_entryStep (recheckAfterDisable_entryStep _ _))

/-- Ports that become SILENT one after another: each of them SILENT, reported in the order of the list (R10, R11). -/
theorem forList_silent {l : List (Fin 4)} (hl : l.Nodup) {s : State} (hs : ∀ p ∈ l, s.ports[p].state ≠ .silent) :
    forList (fun p s => s.portBecomes p { s.ports[p] with state := .silent }) l s = { s with
      ports := mapTable s.ports fun p a => if p ∈ l then { a with state := .silent } else a
      engine := { s.engine with
        posted := s.engine.posted ++ l.map fun p => ⟨.ports, .report (receiverWarning p) true⟩ } } := by
  induction l generalizing s with
  | nil =>
    have h : (mapTable s.ports fun p a => if p ∈ ([] : List (Fin 4)) then { a with state := .silent } else a) = s.ports :=
      table_ext fun p => by simp only [mapTable_get, List.not_mem_nil, if_false]
    rw [h]; simp [forList]
  | cons p l ih =>
    obtain ⟨hp, hl⟩ := List.nodup_cons.1 hl
    have hcond : s.ports[p].state.silentCond = false := by
      have := hs p (List.mem_cons_self ..)
      cases h : s.ports[p].state <;> simp_all [PortState.silentCond]
    have h1 : s.portBecomes p { s.ports[p] with state := .silent } =
        (s.setPort p { s.ports[p] with state := .silent }).post .ports (.report (receiverWarning p) true) := by
      unfold State.portBecomes; rw [hcond]; exact State.postChange_changed _ _ _ (by simp [PortState.silentCond])
    have h2 : ∀ q ∈ l, (s.portBecomes p { s.ports[p] with state := .silent }).ports[q].state ≠ .silent := by
      intro q hq
      have hne : p ≠ q := fun e => hp (e ▸ hq)
      rw [h1, State.post_ports, State.setPort_ports, setAt_get_ne _ hne]
      exact hs q (List.mem_cons_of_mem _ hq)
    have h3 : mapTable (setAt s.ports p { s.ports[p] with state := .silent })
          (fun q a => if q ∈ l then { a with state := .silent } else a) =
        mapTable s.ports fun q a => if q ∈ p :: l then { a with state := .silent } else a := by
      refine table_ext fun q => ?_
      rw [mapTable_get, mapTable_get, setAt_get]
      by_cases e : p = q
      · subst e; simp [hp]
      · simp [e, Ne.symm e]
    show forList _ l (s.portBecomes p _) = _
    rw [ih hl h2, h1]
    simp only [State.post_ports, State.setPort_ports, h3, State.post_engine, State.setPort_engine, List.append_assoc,
      List.map_cons, List.cons_append, List.nil_append]
    rfl

/-- The ports that a new silence time makes SILENT (R11). -/
def silenceJudged (s : State) : List (Fin 4) := (List.finRange 4).filter fun p => s.ports[p].silenceDue s.tuning.silenceTime

theorem mem_silenceJudged {s : State} {p : Fin 4} :
    p ∈ silenceJudged s ↔ s.ports[p].state = .up ∧ s.tuning.silenceTime ≤ s.ports[p].silence := by
  simp [silenceJudged, AntennaPort.silenceDue]

/-- The judgement of the silence timers: the ports SILENT and reported in port order; then, where there is one, the re-check (R11). -/
theorem judgeSilence_eq (s : State) : ∃ t : State, t = { s with
      ports := mapTable s.ports fun p a => if p ∈ silenceJudged s then { a with state := .silent } else a
      engine := { s.engine with
        posted := s.engine.posted ++ (silenceJudged s).map fun p => ⟨.ports, .report (receiverWarning p) true⟩ } } ∧
    judgeSilence s = if silenceJudged s = [] then t else recheckCoverage t := by
  refine ⟨_, rfl, ?_⟩
  have h := forList_silent (l := silenceJudged s) ((List.nodup_finRange 4).filter _) (s := s) fun p hp e => by
    rw [(mem_silenceJudged.1 hp).1] at e; cases e
  unfold judgeSilence
  simp only [List.isEmpty_iff]
  rw [← h]
  rfl

theorem judgeSilence_intakeStep (s : State) : IntakeStep s (judgeSilence s) := by
  obtain ⟨t, ht, h⟩ := judgeSilence_eq s
  have hst : IntakeStep s t := by
    subst ht
    refine .settle (fun p => ?_) (fun _ => .refl _) (fun _ => .refl _)
    simp only [mapTable_get]
    split
    · rename_i hp
      exact .silent fun e => by rw [(mem_silenceJudged.1 hp).1] at e; cases e
    · exact .refl _
  rw [h]
  split
  · exact hst
  · exact hst.trans (.of_entryStep (recheckCoverage_entryStep t))

/-! ### Frames -/

theorem takeSighting_intakeStep {p : Fin 4} {f : InboxFrame} {s t : State} (hf : f ∈ s.ports[p].inbox)
    (hk : frameByte f.bytes 0 = sightingKind) (hp : ∀ q : Fin 4, PortMove s.ports[q] t.ports[q]) (hr : t.roster = s.roster)
    (hs : t.combiner.strangers = s.combiner.strangers) : IntakeStep s (takeSighting (sightingOf p f) t) := by
  have keep : IntakeStep s t := .settle hp (fun n => by rw [hr]; exact .refl _) (fun i => by rw [hs]; exact .refl _)
  unfold takeSighting
  split
  · exact keep.trans (.of_entryStep (takeEnrolled_entryStep _ _ _))
  · rename_i hu
    have hc : strangersAfter t.combiner (sightingOf p f) = strangersAfter s.combiner (sightingOf p f) := by
      unfold strangersAfter Combiner.strangerOf; rw [hs]
    refine .stranger hf hk ?_ (fun q => ?_) ?_ ?_
    · unfold State.entryOfUnit at hu ⊢; rw [← hr]; exact hu
    · unfold takeStranger State.strangersBecome; rw [State.postChange_ports]; exact hp q
    · unfold takeStranger State.strangersBecome; rw [State.postChange_roster]; exact hr
    · unfold takeStranger State.strangersBecome; rw [State.postChange_combiner]; exact hc

theorem takeFrame_intakeStep (s : State) : IntakeStep s (takeFrame s) := by
  unfold takeFrame
  split
  · exact .refl s
  · rename_i p _
    split
    · exact .refl s
    · rename_i f rest hi
      have hp : ∀ q : Fin 4, PortMove s.ports[q] (s.setPort p { s.ports[p] with inbox := rest }).ports[q] := by
        intro q
        rw [State.setPort_ports, setAt_get]
        split
        · rename_i e; rw [← e]; exact .take hi
        · exact .refl _
      simp only
      split
      · rename_i hk
        exact takeSighting_intakeStep (hi ▸ List.mem_cons_self ..) hk hp rfl rfl
      · exact .settle hp (fun _ => .refl _) (fun _ => .refl _)

theorem strangerExpiry_intakeStep (i : Fin 8) (s : State) :
    IntakeStep s (s.strangersBecome (setAt s.combiner.strangers i none)) := by
  refine .strangersBecome fun j => ?_
  rw [setAt_get]
  split
  · exact .none _
  · exact .refl _

/-! ### The roster -/

theorem sweepStep_intakeStep (s : State) : IntakeStep s (sweepStep s) := by
  unfold sweepStep
  split
  · exact .keep rfl rfl rfl
  · rename_i w _
    refine IntakeStep.trans (t := { s with sweep := w.advanced, sweepDue := false }) (.keep rfl rfl rfl) ?_
    unfold visitSlot
    split
    · split
      · exact .of_entryStep (reclassifyEntry_entryStep _ _)
      · exact .refl _
    · exact .refl _

theorem placeOf_seat {seat group profile : Byte} {st : Nat} {g : Fin 8} {p : Fin 4}
    (h : placeOf seat group profile = some (st, g, p)) : 1 ≤ st ∧ st ≤ 250 := by
  unfold placeOf at h
  split at h
  · rename_i hs _ _
    cases h
    unfold seatNumber at hs
    split at hs
    · cases hs; assumption
    · cases hs
  · cases h

theorem enrolBody_intakeStep (unit : UnitId) (seat group profile : Byte) (s : State) :
    IntakeStep s (enrolBody unit seat group profile s).state := by
  unfold enrolBody
  split
  · exact .refl s
  · rename_i st g p hpl
    split
    · exact .refl s
    · rename_i hbad
      split
      · exact .refl s
      · rename_i hu
        split
        · exact .refl s
        · rename_i hs
          split
          · exact .refl s
          · exact .enrol _ g p (.inl ⟨by simpa using hbad, by simpa using hu⟩) (placeOf_seat hpl) (by simpa using hs)

theorem enrolStrangerBody_intakeStep (position seat group profile : Byte) (s : State) :
    IntakeStep s (enrolStrangerBody position seat group profile s).state := by
  unfold enrolStrangerBody
  split
  · rename_i i st g p _ hpl
    split
    · exact .refl s
    · rename_i r hr
      split
      · exact .refl s
      · rename_i hs
        split
        · exact .refl s
        · exact .enrol _ g p (.inr ⟨i, r, hr, rfl⟩) (placeOf_seat hpl) (by simpa using hs)
  · exact .refl s

theorem retireEntry_intakeStep (n : Fin 200) (s : State) : IntakeStep s (retireEntry n s) := by
  have hfree : IntakeStep s ((freeSlot n (dropPool n s)).setSlot n none) :=
    (IntakeStep.keep (s := s) (t := dropPool n s) rfl rfl rfl).trans
      ((IntakeStep.of_floorStep (freeSlot_floorStep n _)).trans (.setSlot (n := n) (.none _)))
  have hchair : ∀ (b : Bool) {t : State}, IntakeStep s t →
      IntakeStep s (if b then { t with floor := { t.floor with chair := none } } else t) := by
    intro b t ht; cases b
    · exact ht
    · exact ht.trans (.keep rfl rfl rfl)
  have hhold : ∀ (b : Bool) {t : State}, IntakeStep s t → IntakeStep s (if b then endHold t else t) := by
    intro b t ht; cases b
    · exact ht
    · exact ht.trans (.of_floorStep (endHold_floorStep t))
  exact (hhold _ (hchair _ hfree)).trans (.of_floorStep (.post _ _ _))

theorem amend_intakeStep {n : Fin 200} {e : Entry} {seat : Nat} (g : Fin 8) (pr : Fin 4) {s : State} (he : s.roster[n] = some e)
    (hr : 1 ≤ seat ∧ seat ≤ 250) (hf : s.seatHeldByOther n seat = false) : IntakeStep s (amend n e seat g pr s) := by
  have ha : IntakeStep s (s.setSlot n (some (e.amended seat g pr))) := .amend g pr he hr hf
  unfold amend
  simp only
  split
  · exact ha
  · exact ha.trans (.of_entryStep (reclassifyEntry_entryStep n _))

theorem amendEntryBody_intakeStep (entry seat group profile : Byte) (s : State) :
    IntakeStep s (amendEntryBody entry seat group profile s).state := by
  unfold amendEntryBody
  split
  · exact .refl s
  · rename_i st g p hpl
    refine onEntry_intakeStep fun n e he => ?_
    split
    · exact .refl s
    · rename_i hs
      exact amend_intakeStep g p he (placeOf_seat hpl) (by simpa using hs)

/-! ### The floor -/

theorem silentExpires_intakeStep (k : Fin 6) (s : State) : IntakeStep s (silentExpires k s) := by
  unfold silentExpires
  split
  · exact .refl s
  · simp only
    split
    · exact .of_floorStep ((((FloorStep.setLive s _ _).trans (.postChange _ _ _ _ _)).trans (freeSlot_floorStep _ _)).trans
        (derive_floorStep _ _))
    · exact .of_floorStep ((FloorStep.setLive s _ _).trans (.postChange _ _ _ _ _))

theorem hotReached_floorStep (n : Fin 200) (s : State) : FloorStep s (hotReached n s) := by
  unfold hotReached
  split
  · rename_i e he
    split
    · exact (FloorStep.setHot s he _).trans (.postChange _ _ _ _ _)
    · exact .refl s
  · exact .refl s

theorem debounceExpires_intakeStep (s : State) : IntakeStep s (debounceExpires s) := by
  unfold debounceExpires
  simp only
  refine IntakeStep.trans (t := { s with floor := { s.floor with asserted := !s.floor.asserted, stability := 0 } }) (.keep rfl rfl rfl) ?_
  split
  · exact .of_floorStep (silenceAsserted_floorStep _)
  · exact .of_floorStep (silenceReleased_floorStep _)

theorem grantBody_intakeStep (n : Fin 200) (s : State) : IntakeStep s (grantBody n s).state := by
  unfold grantBody
  split
  · exact .refl s
  · split
    · exact .refl s
    · split
      · exact .refl s
      · split
        · exact .refl s
        · split
          · exact .refl s
          · exact .of_floorStep ((FloorStep.setLive s _ _).trans (derive_floorStep _ _))

theorem setMuted_intakeStep (v : Bool) (n : Fin 200) (s : State) : IntakeStep s (setMuted v n s) := by
  unfold setMuted
  split
  · exact .refl s
  · rename_i e he
    split
    · exact .refl s
    · exact (IntakeStep.setSlot (he ▸ .map (fun e => { e with muted := v }) (fun _ => rfl) (fun _ => rfl) (some e))).trans
        (.of_floorStep (derive_floorStep _ _))

theorem clearMute_intakeStep (n : Fin 200) (s : State) : IntakeStep s (clearMute n s) := by
  unfold clearMute
  split
  · exact .refl s
  · rename_i e he
    exact .setSlot (he ▸ .map (fun e => { e with muted := false }) (fun _ => rfl) (fun _ => rfl) (some e))

theorem setAllMuted_intakeStep (v : Bool) (s : State) : IntakeStep s (setAllMuted v s) := by
  refine .forEach (fun n t => ?_) s
  split
  · exact .refl t
  · exact setMuted_intakeStep v n t

theorem prepareChair_intakeStep (n : Fin 200) (s : State) : IntakeStep s (prepareChair n s) :=
  ((IntakeStep.of_floorStep (freeSlot_floorStep n s)).trans (clearMute_intakeStep n _)).trans (.of_floorStep (stopHot_floorStep n _))

theorem designate_intakeStep (chair : Option (Fin 200)) (s : State) : IntakeStep s (designate chair s) := by
  refine IntakeStep.trans (t := { s with floor := { s.floor with chair := chair } }) (.keep rfl rfl rfl) ?_
  unfold designate
  simp only
  split
  · exact .of_floorStep (derive_floorStep _ _)
  · exact .refl _

theorem changeChair_intakeStep (chair : Option (Fin 200)) (s : State) : IntakeStep s (changeChair chair s) := by
  have hprep : IntakeStep s (match chair with | some n => prepareChair n s | none => s) := by
    split
    · exact prepareChair_intakeStep _ s
    · exact .refl s
  have hhold : ∀ t, IntakeStep t (match t.floor.cause with | .chair => endHold t | .none => t | .silence => t) := by
    intro t; split
    · exact .of_floorStep (endHold_floorStep t)
    · exact .refl t
    · exact .refl t
  have hclaim : ∀ t, IntakeStep t (match t.floor.cause with
      | .none => if t.chairClaims then beginHold t else t
      | .chair => t
      | .silence => t) := by
    intro t; split
    · split
      · exact .of_floorStep (beginHold_floorStep t)
      · exact .refl t
    · exact .refl t
    · exact .refl t
  exact ((hprep.trans (designate_intakeStep chair _)).trans (hhold _)).trans (hclaim _)

theorem setChairTo_intakeStep (chair : Option (Fin 200)) (s : State) : IntakeStep s (setChairTo chair s).state := by
  unfold setChairTo
  split
  · exact .refl s
  · exact changeChair_intakeStep chair s

theorem setChairBody_intakeStep (entry : Byte) (s : State) : IntakeStep s (setChairBody entry s).state := by
  unfold setChairBody
  split
  · exact setChairTo_intakeStep none s
  · exact onEntry_intakeStep fun n _ _ => setChairTo_intakeStep (some n) s

/-! ### Changes of mode, the commit, and what each row does -/

theorem leaveSession_intakeStep (s : State) : IntakeStep s (leaveSession s) :=
  (IntakeStep.keep (s := s) (t := s.setMode .recess) rfl rfl rfl).trans (.of_floorStep (leaveSession_floorStep s))

theorem enterSession_intakeStep (s : State) : IntakeStep s (enterSession s) :=
  (IntakeStep.keep (s := s) (t := s.setMode .session) rfl rfl rfl).trans (.of_floorStep (enterSession_floorStep s))

theorem enterDormant_intakeStep (s : State) : IntakeStep s (enterDormant s) := by
  have hrecess : IntakeStep s (recessEffects s) := by
    unfold recessEffects; split
    · exact (leaveSession_intakeStep s).takeReports
    · exact .refl s
    · exact .refl s
  exact (hrecess.trans (.of_entryStep (closeAll_entryStep _))).takeReports.trans (.keep rfl rfl rfl)

theorem blinkBoundary_intakeStep (s : State) : IntakeStep s (blinkBoundary s) := by
  unfold blinkBoundary
  simp only
  split
  · rw [commit_rest]; exact .keep rfl rfl rfl
  · exact .keep rfl rfl rfl

theorem lineFault_intakeStep (m : Fin 16) (v : Bool) (s : State) : IntakeStep s (lineFault m v s) :=
  (IntakeStep.keep (s := s) (t := s.setLine m { s.lines.line[m] with fault := v }) rfl rfl rfl).postChange _ _ _ _

theorem changePendingType_intakeStep (c : WClass) (t : PendingType) (s : State) : IntakeStep s (changePendingType c t s) := by
  unfold changePendingType
  simp only
  split <;> exact .keep rfl rfl rfl

theorem setTuning_intakeStep (s : State) (t : Tuning) : IntakeStep s (s.setTuning t) := .keep rfl rfl rfl

theorem inSubjectOrder_intakeStep (s : State) : IntakeStep s (inSubjectOrder s) := .keep rfl rfl rfl

theorem setLostTime_intakeStep (t : Tuning) (s : State) : IntakeStep s (inSubjectOrder (forEach judgeAge (s.setTuning t))) :=
  ((setTuning_intakeStep s t).trans (.forEach (fun n u => .of_entryStep (judgeAge_entryStep n u)) _)).trans
    (inSubjectOrder_intakeStep _)

theorem setHotDelay_intakeStep (t : Tuning) (s : State) : IntakeStep s (forEach judgeHot (s.setTuning t)) := by
  refine (setTuning_intakeStep s t).trans (.forEach (fun n u => ?_) _)
  unfold judgeHot; split
  · exact .of_floorStep (hotReached_floorStep n u)
  · exact .refl u

/-- Every row's effect on the ports, the keys and the strangers is one of the steps. -/
theorem exec_intakeStep (i : Instr) {s t : State} (h : exec i s = .next t) : IntakeStep s t := by
  cases i with
  | deviceReset =>
    rw [exec_deviceReset] at h
    exact next_intakeStep (deviceReset_intakeStep s) h
  | resetEnd =>
    rw [exec_resetEnd] at h
    refine next_intakeStep ?_ h
    split <;> exact .keep rfl rfl rfl
  | frameComplete p b =>
    rw [exec_frameComplete] at h
    refine occur_intakeStep h fun hd => judgeFrame_intakeStep ?_ _
    simp only [AntennaPort.tenthDue, Bool.and_eq_true] at hd
    exact hd.1.1
  | stopBitMissing p =>
    rw [exec_stopBitMissing] at h
    exact occur_intakeStep h fun _ => .setPort (.goneWrong _)
  | byteGapTimeout p =>
    rw [exec_byteGapTimeout] at h
    exact occur_intakeStep h fun _ => .setPort (.goneWrong _)
  | frameGapReject p =>
    rw [exec_frameGapReject] at h
    exact occur_intakeStep h fun _ => .setPort (.answering _ _)
  | answerSent p =>
    rw [exec_answerSent] at h
    exact occur_intakeStep h fun _ => .setPort (.answered _)
  | resyncIdle p =>
    rw [exec_resyncIdle] at h
    exact occur_intakeStep h fun hd => .setPort (.listening hd)
  | warmUpEnd p =>
    rw [exec_warmUpEnd] at h
    exact occur_intakeStep h fun hd => endWarmUp_intakeStep (Bool.and_eq_true_iff.1 hd).2
  | portSilenceExpiry p =>
    rw [exec_portSilenceExpiry] at h
    refine occur_intakeStep h fun hd => portFallsSilent_intakeStep fun e => ?_
    rw [AntennaPort.silenceDue, e] at hd; simp at hd
  | frameTake =>
    rw [exec_frameTake] at h
    exact occur_intakeStep h fun _ => takeFrame_intakeStep s
  | strangerAgeExpiry i =>
    rw [exec_strangerAgeExpiry] at h
    exact occur_intakeStep h fun _ => strangerExpiry_intakeStep i s
  | poolWindowExpiry i =>
    rw [exec_poolWindowExpiry] at h
    exact occur_intakeStep h fun _ => .of_entryStep (closeAt_entryStep i s)
  | entryFading n =>
    rw [exec_entryFading] at h
    exact occur_intakeStep h fun _ => .of_entryStep (fadeEntry_entryStep n s)
  | entryLost n =>
    rw [exec_entryLost] at h
    exact occur_intakeStep h fun _ => .of_entryStep (loseEntry_entryStep n s)
  | sweepVisit =>
    rw [exec_sweepVisit] at h
    exact occur_intakeStep h fun _ => sweepStep_intakeStep s
  | silentExpiry k =>
    rw [exec_silentExpiry] at h
    exact occur_intakeStep h fun _ => silentExpires_intakeStep k s
  | hotDelayReached n =>
    rw [exec_hotDelayReached] at h
    exact occur_intakeStep h fun _ => .of_floorStep (hotReached_floorStep n s)
  | silenceInputChange high =>
    rw [exec_silenceInputChange] at h
    refine next_intakeStep ?_ h
    split <;> exact .keep rfl rfl rfl
  | silenceDebounceExpiry =>
    rw [exec_silenceDebounceExpiry] at h
    exact occur_intakeStep h fun _ => debounceExpires_intakeStep s
  | blinkBoundary =>
    rw [exec_blinkBoundary] at h
    exact occur_intakeStep h fun _ => blinkBoundary_intakeStep s
  | holdExpiry m =>
    rw [exec_holdExpiry] at h
    exact occur_intakeStep h fun _ => .keep rfl rfl rfl
  | senseInputChange m high =>
    rw [exec_senseInputChange] at h
    refine next_intakeStep ?_ h
    exact .keep rfl rfl rfl
  | lampFaultDetected m =>
    rw [exec_lampFaultDetected] at h
    exact occur_intakeStep h fun _ => lineFault_intakeStep m true s
  | lampFaultCleared m =>
    rw [exec_lampFaultCleared] at h
    exact occur_intakeStep h fun _ => lineFault_intakeStep m false s
  | csNFall =>
    rw [exec_csNFall] at h
    refine next_intakeStep ?_ h
    split
    · exact .refl s
    · split <;> exact .keep rfl rfl rfl
  | csNRise =>
    rw [exec_csNRise] at h
    refine next_intakeStep ?_ h
    split
    · exact .keep rfl rfl rfl
    · split <;> exact .keep rfl rfl rfl
  | waitingCommandStart =>
    rw [exec_waitingCommandStart] at h
    refine next_intakeStep ?_ h
    split <;> exact .keep rfl rfl rfl
  | commandRefusedBusy b =>
    rw [exec_commandRefusedBusy] at h
    refine next_intakeStep ?_ h
    split <;> exact .keep rfl rfl rfl
  | enrol unit seat group profile =>
    rw [exec_enrol] at h
    exact runCommand_intakeStep h (enrolBody_intakeStep _ _ _ _)
  | enrolStranger position seat group profile =>
    rw [exec_enrolStranger] at h
    exact runCommand_intakeStep h (enrolStrangerBody_intakeStep _ _ _ _)
  | retire entry =>
    rw [exec_retire] at h
    exact runCommand_intakeStep h fun u => onEntry_intakeStep fun n _ _ => retireEntry_intakeStep n u
  | findUnit unit =>
    rw [exec_findUnit] at h
    refine runCommand_intakeStep h fun u => ?_
    unfold found
    split <;> exact .refl u
  | findSeat seat =>
    rw [exec_findSeat] at h
    refine runCommand_intakeStep h fun u => ?_
    unfold findSeatBody found
    split
    · exact .refl u
    · split <;> exact .refl u
  | readEntry entry =>
    rw [exec_readEntry] at h
    exact runCommand_intakeStep h fun u => onEntry_intakeStep fun _ _ _ => .refl u
  | amendEntry entry seat group profile =>
    rw [exec_amendEntry] at h
    exact runCommand_intakeStep h (amendEntryBody_intakeStep _ _ _ _)
  | grantFloor entry =>
    rw [exec_grantFloor] at h
    exact runCommand_intakeStep h fun u => onEntry_intakeStep fun n _ _ => grantBody_intakeStep n u
  | revokeFloor entry =>
    rw [exec_revokeFloor] at h
    refine runCommand_intakeStep h fun u => onEntry_intakeStep fun n _ _ => ?_
    unfold revokeBody; split
    · exact .refl u
    · exact .of_floorStep ((freeSlot_floorStep n u).trans (derive_floorStep n _))
  | setFloorCapacity capacity =>
    rw [exec_setFloorCapacity] at h
    refine runCommand_intakeStep h fun u => ?_
    unfold setFloorCapacityBody; simp only; split <;> exact .keep rfl rfl rfl
  | mute entry =>
    rw [exec_mute] at h
    refine runCommand_intakeStep h fun u => onEntry_intakeStep fun n _ _ => ?_
    unfold muteBody; split
    · exact .refl u
    · exact setMuted_intakeStep true n u
  | unmute entry =>
    rw [exec_unmute] at h
    refine runCommand_intakeStep h fun u => onEntry_intakeStep fun n _ _ => ?_
    unfold muteBody; split
    · exact .refl u
    · exact setMuted_intakeStep false n u
  | muteAll =>
    rw [exec_muteAll] at h
    exact runCommand_intakeStep h fun u => acted_intakeStep (setAllMuted_intakeStep true u) _
  | unmuteAll =>
    rw [exec_unmuteAll] at h
    exact runCommand_intakeStep h fun u => acted_intakeStep (setAllMuted_intakeStep false u) _
  | setChair entry =>
    rw [exec_setChair] at h
    exact runCommand_intakeStep h (setChairBody_intakeStep entry)
  | readAttention position =>
    rw [exec_readAttention] at h
    refine runCommand_intakeStep h fun u => ?_
    unfold readAttentionBody; split <;> exact .refl u
  | acknowledge kind index cls stamp =>
    rw [exec_acknowledge] at h
    refine runCommand_intakeStep h fun u => ?_
    unfold acknowledgeBody
    (repeat' split) <;> exact .keep rfl rfl rfl
  | ackListed =>
    rw [exec_ackListed] at h
    exact runCommand_intakeStep h fun u => .keep rfl rfl rfl
  | readStrangers =>
    rw [exec_readStrangers] at h
    exact runCommand_intakeStep h fun u => .refl u
  | readPort port =>
    rw [exec_readPort] at h
    refine runCommand_intakeStep h fun u => ?_
    unfold readPortBody; split
    · exact .refl u
    · exact .setPort (.read _)
  | enablePortOn port =>
    rw [exec_enablePortOn] at h
    refine runCommand_intakeStep h fun u => ?_
    unfold enablePortOnBody; split
    · exact .refl u
    · split
      · exact .refl u
      · exact .portBecomes (.turnedOn _)
  | enablePortOff port value =>
    rw [exec_enablePortOff] at h
    refine runCommand_intakeStep h fun u => ?_
    unfold enablePortOffBody; split
    · exact .refl u
    · split
      · exact .refl u
      · split
        · exact disablePort_intakeStep _ u
        · exact .refl u
  | setProfile profile fields =>
    rw [exec_setProfile] at h
    refine runCommand_intakeStep h fun u => ?_
    unfold setProfileBody
    (repeat' split) <;> exact .keep rfl rfl rfl
  | readProfile profile =>
    rw [exec_readProfile] at h
    refine runCommand_intakeStep h fun u => ?_
    unfold readProfileBody; split <;> exact .refl u
  | setPortSilenceTime v =>
    rw [exec_setPortSilenceTime] at h
    refine runCommand_intakeStep h fun u => ?_
    unfold setPortSilenceTimeBody; simp only; split
    · exact .refl u
    · exact (setTuning_intakeStep u _).trans (judgeSilence_intakeStep _)
  | setCombiningWindow v =>
    rw [exec_setCombiningWindow] at h
    exact runCommand_intakeStep h fun u => .keep rfl rfl rfl
  | setLostTime v =>
    rw [exec_setLostTime] at h
    refine runCommand_intakeStep h fun u => ?_
    unfold setLostTimeBody; simp only; split
    · exact .refl u
    · exact setLostTime_intakeStep _ u
  | setSignalFloor v =>
    rw [exec_setSignalFloor] at h
    exact runCommand_intakeStep h fun u => .keep rfl rfl rfl
  | setSmoothingShift v =>
    rw [exec_setSmoothingShift] at h
    exact runCommand_intakeStep h fun u => .keep rfl rfl rfl
  | setWeakThreshold v =>
    rw [exec_setWeakThreshold] at h
    refine runCommand_intakeStep h fun u => ?_
    unfold setWeakThresholdBody; simp only; split <;> exact .keep rfl rfl rfl
  | setPoorThreshold v =>
    rw [exec_setPoorThreshold] at h
    refine runCommand_intakeStep h fun u => ?_
    unfold setPoorThresholdBody; simp only; split <;> exact .keep rfl rfl rfl
  | setSilentTime v =>
    rw [exec_setSilentTime] at h
    exact runCommand_intakeStep h fun u => .keep rfl rfl rfl
  | setAutoRevoke v =>
    rw [exec_setAutoRevoke] at h
    refine runCommand_intakeStep h fun u => ?_
    unfold setAutoRevokeBody; split <;> exact .keep rfl rfl rfl
  | setHotDelay v =>
    rw [exec_setHotDelay] at h
    refine runCommand_intakeStep h fun u => ?_
    unfold setHotDelayBody
    exact acted_intakeStep (setHotDelay_intakeStep _ u) _
  | setPriorityFunction v =>
    rw [exec_setPriorityFunction] at h
    refine runCommand_intakeStep h fun u => ?_
    unfold setPriorityFunctionBody; split
    · exact (setTuning_intakeStep u _).trans (.of_floorStep (followClaim_floorStep _))
    · exact .refl u
  | setPendingType item v =>
    rw [exec_setPendingType] at h
    refine runCommand_intakeStep h fun u => ?_
    unfold setPendingTypeBody; split
    · exact changePendingType_intakeStep _ _ u
    · exact .refl u
  | setIrqMask v =>
    rw [exec_setIrqMask] at h
    exact runCommand_intakeStep h fun u => .keep rfl rfl rfl
  | readTuning item =>
    rw [exec_readTuning] at h
    refine runCommand_intakeStep h fun u => ?_
    unfold readTuningBody; split <;> exact .refl u
  | stageLine line config =>
    rw [exec_stageLine] at h
    refine runCommand_intakeStep h fun u => ?_
    unfold stageLineBody; split <;> exact .keep rfl rfl rfl
  | applyLines =>
    rw [exec_applyLines] at h
    exact runCommand_intakeStep h fun u => .keep rfl rfl rfl
  | readLine line =>
    rw [exec_readLine] at h
    refine runCommand_intakeStep h fun u => ?_
    unfold readLineBody; split <;> exact .refl u
  | setModeRecess value =>
    rw [exec_setModeRecess] at h
    refine runCommand_intakeStep h fun u => ?_
    unfold setModeRecessBody; split
    · exact .refl u
    · split
      · exact acted_intakeStep (leaveSession_intakeStep u) _
      · exact .refl u
      · exact .refl u
  | setModeSession =>
    rw [exec_setModeSession] at h
    refine runCommand_intakeStep h fun u => ?_
    unfold setModeSessionBody; split
    · exact acted_intakeStep (enterSession_intakeStep u) _
    · exact .refl u
    · exact acted_intakeStep (enterSession_intakeStep u) _
  | setModeDormant =>
    rw [exec_setModeDormant] at h
    refine next_intakeStep ?_ h
    split
    · exact .refl s
    · refine conclude_intakeStep ?_ _
      unfold setModeDormantBody; split
      · exact enterDormant_intakeStep s
      · exact enterDormant_intakeStep s
      · exact .refl s
  | readStatus =>
    rw [exec_readStatus] at h
    exact runCommand_intakeStep h fun u => .refl u
  | chamberReset =>
    rw [exec_chamberReset] at h
    exact runCommand_intakeStep h fun u => chamberResetAll_intakeStep u
  | unknownCommand code =>
    rw [exec_unknownCommand] at h
    exact runCommand_intakeStep h fun u => .refl u
  | characterComplete p b =>
    rw [exec_characterComplete] at h
    exact occur_intakeStep h fun hd => .setPort (.character b hd)
  | byteComplete b =>
    rw [exec_byteComplete] at h
    refine next_intakeStep ?_ h
    split <;> exact .keep rfl rfl rfl

/-- Every step's effect on the ports, the keys and the strangers is one of the steps. -/
theorem step_intakeStep {s t : State} (h : step s = .next t) : IntakeStep s t := by
  unfold step at h
  split at h
  · cases h; exact autonomous_intakeStep s
  · rename_i rest _
    exact (IntakeStep.keep (s := s) (t := { s with pending := rest }) rfl rfl rfl).trans (exec_intakeStep _ h)

/-- A law that the moves of a port keep is kept of every port by every step. -/
theorem IntakeStep.portLaw {s t : State} (h : IntakeStep s t) (hs : ∀ p : Fin 4, PortLaw s.ports[p]) :
    ∀ p : Fin 4, PortLaw t.ports[p] := by
  induction h with
  | settle ports => exact fun p => (ports p).law (hs p)
  | stranger _ _ _ ports => exact fun p => (ports p).law (hs p)
  | @enrol s n u seat g pr =>
    have : (enrolAt n u seat g pr s).ports = s.ports := by
      unfold enrolAt State.forgetStranger
      split
      · exact State.postChange_ports ..
      · rfl
    rw [this]; exact hs
  | amend => exact hs
  | trans _ _ ih₁ ih₂ => exact ih₂ (ih₁ hs)

/-- Settles O54: every step moves each port by one of the moves of a port, and each of these keeps the laws. -/
theorem stepsKeepThePortLaws : Obligations.StepsKeepThePortLaws :=
  fun _ _ hs h => (step_intakeStep h).portLaw hs

/-! ### Keys -/

theorem entryOfUnit_none {s : State} {u : UnitId} (h : s.entryOfUnit u = none) {n : Fin 200} {e : Entry} (he : s.roster[n] = some e) :
    e.unit ≠ u := by
  have := firstIndex_eq_none.1 h n
  rw [he] at this
  simpa using this

theorem entryOfSeat_none {s : State} {seat : Nat} (h : s.entryOfSeat seat = none) {n : Fin 200} {e : Entry}
    (he : s.roster[n] = some e) : e.seat ≠ seat := by
  have := firstIndex_eq_none.1 h n
  rw [he] at this
  simpa using this

theorem strangerOf_none {c : Combiner} {u : UnitId} (h : c.strangerOf u = none) {i : Fin 8} {r : Stranger}
    (hr : c.strangers[i] = some r) : r.unit ≠ u := by
  have := firstIndex_eq_none.1 h i
  rw [hr] at this
  simpa using this

theorem strangerOf_some {c : Combiner} {u : UnitId} {i : Fin 8} (h : c.strangerOf u = some i) :
    ∃ r, c.strangers[i] = some r ∧ r.unit = u := by
  have := (firstIndex_eq_some.1 h).1
  split at this
  · exact ⟨_, ‹_›, by simpa using this⟩
  · cases this

theorem seatHeldByOther_false {s : State} {n : Fin 200} {seat : Nat} (h : s.seatHeldByOther n seat = false) {m : Fin 200} {e : Entry}
    (hm : m ≠ n) (he : s.roster[m] = some e) : e.seat ≠ seat := by
  unfold State.seatHeldByOther at h
  rw [Option.isSome_eq_false_iff, Option.isNone_iff_eq_none, firstIndex_eq_none] at h
  have := h m
  rw [he] at this
  simpa [hm] using this

/-- The stranger table after a sighting: its units where they were; or, where the unit had no record, its record at one place (R21). -/
theorem strangersAfter_cases (c : Combiner) (x : Sighting) :
    (∀ i : Fin 8, NoNewStranger c.strangers[i] (strangersAfter c x)[i]) ∨
    (c.strangerOf x.unit = none ∧ ∃ i : Fin 8, strangersAfter c x = setAt c.strangers i (some (Stranger.first x))) := by
  unfold strangersAfter
  split
  · rename_i i _
    refine .inl fun j => ?_
    rw [setAt_get]
    split
    · rename_i e
      intro q hq
      obtain ⟨r, hr, rfl⟩ := Option.map_eq_some_iff.1 hq
      exact ⟨r, e ▸ hr, rfl⟩
    · exact .refl _
  · rename_i h
    split
    · exact .inr ⟨h, _, rfl⟩
    · split
      · exact .inr ⟨h, _, rfl⟩
      · exact .inl fun j => .refl _

theorem forgetStranger_ports (s : State) (u : UnitId) : (s.forgetStranger u).ports = s.ports := by
  unfold State.forgetStranger; split
  · exact State.postChange_ports ..
  · rfl

theorem forgetStranger_roster (s : State) (u : UnitId) : (s.forgetStranger u).roster = s.roster := by
  unfold State.forgetStranger; split
  · exact State.postChange_roster ..
  · rfl

theorem forgetStranger_setSlot (s : State) (n : Fin 200) (e : Option Entry) (u : UnitId) :
    (s.setSlot n e).forgetStranger u = (s.forgetStranger u).setSlot n e := by
  unfold State.forgetStranger
  rw [State.setSlot_combiner]
  split
  · unfold State.strangersBecome State.postChange
    rw [State.setSlot_combiner]
    split <;> rfl
  · rfl

/-- Forgetting a unit keeps the other records in their places (R23). -/
theorem forgetStranger_kept {s : State} {u : UnitId} {i : Fin 8} {r : Stranger}
    (h : (s.forgetStranger u).combiner.strangers[i] = some r) : s.combiner.strangers[i] = some r := by
  unfold State.forgetStranger at h
  split at h
  · unfold State.strangersBecome at h
    rw [State.postChange_combiner] at h
    simp only [setAt_get] at h
    split at h
    · cases h
    · exact h
  · exact h

/-- Where units are named once, a forgotten unit has no record left (R23). -/
theorem forgetStranger_gone {s : State} {u : UnitId} (hs : KeyLaw s) {i : Fin 8} {r : Stranger}
    (h : (s.forgetStranger u).combiner.strangers[i] = some r) : r.unit ≠ u := by
  have hk := forgetStranger_kept h
  unfold State.forgetStranger at h
  split at h
  · rename_i j hj
    obtain ⟨q, hq, rfl⟩ := strangerOf_some hj
    intro hu
    have hji : j = i := hs.strangerOnce j i q r hq hk hu.symm
    unfold State.strangersBecome at h
    rw [State.postChange_combiner] at h
    simp [hji] at h
  · exact strangerOf_none ‹_› hk

/-- A valid SIGHTING names a unit that may be enrolled (R2). -/
theorem frameUnit_of_valid {f : List Byte} (hv : validFrame f = true) (hk : frameByte f 0 = sightingKind) :
    badUnit (frameUnit f) = false := by
  unfold validFrame at hv
  rw [hk] at hv
  simp only [Bool.and_eq_true, Bool.or_eq_true, bne_iff_ne, ne_eq] at hv
  rcases hv.2 with h | ⟨⟨_, h0⟩, h1⟩
  · exact absurd h (by decide)
  · simp only [badUnit, Bool.or_eq_false_iff, beq_eq_false_iff_ne]
    exact ⟨h0, h1⟩

theorem keyLaw_settle {s t : State} (hs : KeyLaw s) (ports : ∀ p : Fin 4, PortMove s.ports[p] t.ports[p])
    (roster : ∀ n : Fin 200, NoNewKeys s.roster[n] t.roster[n])
    (strangers : ∀ i : Fin 8, NoNewStranger s.combiner.strangers[i] t.combiner.strangers[i]) : KeyLaw t where
  unitOnce n m e f he hf h := by
    obtain ⟨e', he', hu, _⟩ := roster n e he
    obtain ⟨f', hf', hv, _⟩ := roster m f hf
    exact hs.unitOnce n m e' f' he' hf' (by rw [← hu, ← hv, h])
  seatOnce n m e f he hf h := by
    obtain ⟨e', he', _, hu⟩ := roster n e he
    obtain ⟨f', hf', _, hv⟩ := roster m f hf
    exact hs.seatOnce n m e' f' he' hf' (by rw [← hu, ← hv, h])
  ranges n e he := by
    obtain ⟨e', he', hu, hv⟩ := roster n e he
    rw [hu, hv]; exact hs.ranges n e' he'
  strangerOnce i j q r hq hr h := by
    obtain ⟨q', hq', hu⟩ := strangers i q hq
    obtain ⟨r', hr', hv⟩ := strangers j r hr
    exact hs.strangerOnce i j q' r' hq' hr' (by rw [← hu, ← hv, h])
  strangerApart i r n e hr he := by
    obtain ⟨r', hr', hu⟩ := strangers i r hr
    obtain ⟨e', he', hv, _⟩ := roster n e he
    rw [hu, hv]; exact hs.strangerApart i r' n e' hr' he'
  strangerRange i r hr := by
    obtain ⟨r', hr', hu⟩ := strangers i r hr
    rw [hu]; exact hs.strangerRange i r' hr'
  inboxes p f hf := ((ports p).mem_inbox hf).elim (hs.inboxes p f) id

/-- A stranger's record at a place of the table: its unit is valid, not enrolled, and has no other record (R21, R23). -/
theorem keyLaw_stranger {s t : State} {p : Fin 4} {f : InboxFrame} (hs : KeyLaw s) (inbox : f ∈ s.ports[p].inbox)
    (kind : frameByte f.bytes 0 = sightingKind) (unknown : s.entryOfUnit (frameUnit f.bytes) = none)
    (ports : ∀ q : Fin 4, PortMove s.ports[q] t.ports[q]) (roster : t.roster = s.roster)
    (strangers : t.combiner.strangers = strangersAfter s.combiner (sightingOf p f)) : KeyLaw t := by
  have hroster : ∀ n : Fin 200, NoNewKeys s.roster[n] t.roster[n] := fun n => by rw [roster]; exact .refl _
  rcases strangersAfter_cases s.combiner (sightingOf p f) with hkeep | ⟨hnone, k, hset⟩
  · exact keyLaw_settle hs ports hroster fun i => by rw [strangers]; exact hkeep i
  · have hgone : KeyLaw { t with combiner := { t.combiner with strangers := setAt s.combiner.strangers k none } } :=
      keyLaw_settle hs ports hroster fun i => by
        simp only [setAt_get]
        split
        · exact .none _
        · exact .refl _
    have hrec : ∀ (i : Fin 8) (r : Stranger), t.combiner.strangers[i] = some r →
        i = k ∧ r.unit = frameUnit f.bytes ∨ i ≠ k ∧ s.combiner.strangers[i] = some r := by
      intro i r hr
      rw [strangers, hset, setAt_get] at hr
      split at hr
      · rename_i e; cases hr; exact .inl ⟨e.symm, rfl⟩
      · rename_i e; exact .inr ⟨Ne.symm e, hr⟩
    refine ⟨hgone.unitOnce, hgone.seatOnce, hgone.ranges, fun i j q r hq hr h => ?_, fun i r n e hr he => ?_, fun i r hr => ?_,
      hgone.inboxes⟩
    · rcases hrec i q hq with ⟨rfl, hu⟩ | ⟨_, hq⟩ <;> rcases hrec j r hr with ⟨rfl, hv⟩ | ⟨_, hr⟩
      · rfl
      · exact absurd (h.symm.trans hu) (strangerOf_none hnone hr)
      · exact absurd (h.trans hv) (strangerOf_none hnone hq)
      · exact hs.strangerOnce i j q r hq hr h
    · rw [roster] at he
      rcases hrec i r hr with ⟨rfl, hu⟩ | ⟨_, hr⟩
      · rw [hu]; exact (entryOfUnit_none unknown he).symm
      · exact hs.strangerApart i r n e hr he
    · rcases hrec i r hr with ⟨rfl, hu⟩ | ⟨_, hr⟩
      · rw [hu]; exact frameUnit_of_valid (hs.inboxes p f inbox) kind
      · exact hs.strangerRange i r hr

/-- An entry in a slot of its own, with a unit and a seat that no other holds, and no stranger record (R36, R38, R44). -/
theorem keyLaw_setSlot {s : State} (hs : KeyLaw s) (n : Fin 200) {e : Entry} (hb : badUnit e.unit = false)
    (hr : 1 ≤ e.seat ∧ e.seat ≤ 250) (hu : ∀ (m : Fin 200) (f : Entry), m ≠ n → s.roster[m] = some f → f.unit ≠ e.unit)
    (hv : ∀ (m : Fin 200) (f : Entry), m ≠ n → s.roster[m] = some f → f.seat ≠ e.seat)
    (ha : ∀ (i : Fin 8) (r : Stranger), s.combiner.strangers[i] = some r → r.unit ≠ e.unit) : KeyLaw (s.setSlot n (some e)) := by
  have hslot : ∀ (m : Fin 200) (f : Entry), (s.setSlot n (some e)).roster[m] = some f → m = n ∧ f = e ∨ m ≠ n ∧ s.roster[m] = some f := by
    intro m f hf
    rw [State.setSlot_roster, setAt_get] at hf
    split at hf
    · rename_i h; cases hf; exact .inl ⟨h.symm, rfl⟩
    · rename_i h; exact .inr ⟨Ne.symm h, hf⟩
  refine ⟨fun m k f g hf hg h => ?_, fun m k f g hf hg h => ?_, fun m f hf => ?_, hs.strangerOnce, fun i r m f hr hf => ?_,
    hs.strangerRange, hs.inboxes⟩
  · rcases hslot m f hf with ⟨rfl, rfl⟩ | ⟨hm, hf'⟩ <;> rcases hslot k g hg with ⟨rfl, rfl⟩ | ⟨hk, hg'⟩
    · rfl
    · exact absurd h.symm (hu k g hk hg')
    · exact absurd h (hu m f hm hf')
    · exact hs.unitOnce m k f g hf' hg' h
  · rcases hslot m f hf with ⟨rfl, rfl⟩ | ⟨hm, hf'⟩ <;> rcases hslot k g hg with ⟨rfl, rfl⟩ | ⟨hk, hg'⟩
    · rfl
    · exact absurd h.symm (hv k g hk hg')
    · exact absurd h (hv m f hm hf')
    · exact hs.seatOnce m k f g hf' hg' h
  · rcases hslot m f hf with ⟨rfl, rfl⟩ | ⟨_, hf⟩
    · exact ⟨hb, hr⟩
    · exact hs.ranges m f hf
  · rcases hslot m f hf with ⟨rfl, rfl⟩ | ⟨_, hf⟩
    · exact ha i r hr
    · exact hs.strangerApart i r m f hr hf

/-- An enrolment of a unit that is not enrolled, or that a stranger record names, at a free seat (R38 to R40). -/
theorem keyLaw_enrolAt {s : State} (hs : KeyLaw s) (n : Fin 200) {u : UnitId} {seat : Nat} (g : Fin 8) (pr : Fin 4)
    (unit : badUnit u = false ∧ s.entryOfUnit u = none ∨ ∃ (i : Fin 8) (r : Stranger), s.combiner.strangers[i] = some r ∧ r.unit = u)
    (range : 1 ≤ seat ∧ seat ≤ 250) (free : s.entryOfSeat seat = none) : KeyLaw (enrolAt n u seat g pr s) := by
  have hunit : badUnit u = false ∧ ∀ (m : Fin 200) (f : Entry), s.roster[m] = some f → f.unit ≠ u := by
    rcases unit with ⟨hb, hu⟩ | ⟨i, r, hr, rfl⟩
    · exact ⟨hb, fun m f hf => entryOfUnit_none hu hf⟩
    · exact ⟨hs.strangerRange i r hr, fun m f hf => (hs.strangerApart i r m f hr hf).symm⟩
  have hforget : KeyLaw (s.forgetStranger u) :=
    keyLaw_settle hs (fun p => by rw [forgetStranger_ports]; exact .refl _) (fun m => by rw [forgetStranger_roster]; exact .refl _)
      fun i q hq => ⟨q, forgetStranger_kept hq, rfl⟩
  rw [enrolAt, forgetStranger_setSlot]
  exact keyLaw_setSlot hforget n (e := Entry.fresh u seat g pr) hunit.1 range
    (fun m f _ hf => hunit.2 m f (forgetStranger_roster s u ▸ hf))
    (fun m f _ hf => entryOfSeat_none free (forgetStranger_roster s u ▸ hf)) fun i r hr => forgetStranger_gone hs hr

theorem keyLaw_amend {s : State} (hs : KeyLaw s) {n : Fin 200} {e : Entry} {seat : Nat} (g : Fin 8) (pr : Fin 4)
    (entry : s.roster[n] = some e) (range : 1 ≤ seat ∧ seat ≤ 250) (free : s.seatHeldByOther n seat = false) :
    KeyLaw (s.setSlot n (some (e.amended seat g pr))) :=
  keyLaw_setSlot hs n (hs.ranges n e entry).1 range (fun m f hm hf h => hm (hs.unitOnce m n f e hf entry h))
    (fun _ _ hm hf => seatHeldByOther_false free hm hf) fun i r hr => hs.strangerApart i r n e hr entry

/-- Settles O56: a step brings a new key or a new stranger only after the checks of the enrolment, of the amendment and of the frame. -/
theorem stepsKeepTheKeyLaw : Obligations.StepsKeepTheKeyLaw := by
  intro s t hs h
  have hst := step_intakeStep h
  clear h
  induction hst with
  | settle ports roster strangers => exact keyLaw_settle hs ports roster strangers
  | stranger inbox kind unknown ports roster strangers => exact keyLaw_stranger hs inbox kind unknown ports roster strangers
  | enrol n g pr unit range free => exact keyLaw_enrolAt hs n g pr unit range free
  | amend g pr entry range free => exact keyLaw_amend hs g pr entry range free
  | trans _ _ ih₁ ih₂ => exact ih₂ (ih₁ hs)

end Sys2Proof.Machine
end

section
/-! PROOFS. The part with no row waiting: which rows are due, and that they are queued, or else a millisecond counted (O3). -/

namespace Sys2Proof.Machine

theorem running_iff (s : State) : s.running = true ↔ s.clockRunning = true ∧ s.inReset = false := by
  simp [State.running]

theorem mem_due (s : State) (i : Instr) :
    i ∈ s.due.flatten ↔ i ∈ s.dueAtOnce.flatten ∨ s.clockRunning = true ∧ s.inReset = false ∧ i ∈ s.dueOnClock.flatten := by
  rw [← and_assoc, ← running_iff]
  unfold State.due
  split
  · rename_i h; simp only [List.flatten_append, List.mem_append, h, true_and]
  · rename_i h; simp only [h, Bool.false_eq_true, false_and, or_false]

theorem mem_dueCommand (c : CommandPort) (i : Instr) :
    i ∈ c.dueCommand ↔ ∃ t : Taken, c.inProgress = some t ∧ t.done = false ∧ i = rowOf t.code t.params := by
  unfold CommandPort.dueCommand
  split
  · rename_i t ht
    rw [ht]; cases hd : t.done <;> simp [hd]
  · rename_i ht
    simp [ht]

theorem handOverDue_iff (c : CommandPort) :
    c.handOverDue = true ↔ c.waiting ≠ none ∧ ∀ t : Taken, c.inProgress = some t → t.done = true := by
  unfold CommandPort.handOverDue
  cases c.inProgress <;> simp [Option.isSome_iff_ne_none]

/-- The rotation passes every port, so a frame is offered wherever an inbox holds one (R18). -/
theorem offeringPort_isSome (s : State) : s.offeringPort.isSome = true ↔ ∃ p : Fin 4, s.ports[p].inbox ≠ [] := by
  unfold State.offeringPort
  rw [List.find?_isSome]
  constructor
  · rintro ⟨p, _, hp⟩
    exact ⟨p, by simpa [AntennaPort.offers] using hp⟩
  · rintro ⟨p, hp⟩
    exact ⟨p, List.mem_map.2 ⟨p - s.combiner.nextPort, List.mem_finRange _, by omega⟩, by simpa [AntennaPort.offers] using hp⟩

theorem frameOffered_iff (s : State) : s.frameOffered = true ↔ s.mode ≠ .dormant ∧ ∃ p : Fin 4, s.ports[p].inbox ≠ [] := by
  rw [State.frameOffered, Bool.and_eq_true, offeringPort_isSome, bne_iff_ne]

theorem mem_dueAtOnce (s : State) (i : Instr) : i ∈ s.dueAtOnce.flatten ↔
    (∃ t : Taken, s.command.inProgress = some t ∧ t.done = false ∧ i = rowOf t.code t.params) ∨
    (i = .waitingCommandStart ∧ s.command.waiting ≠ none ∧ ∀ t : Taken, s.command.inProgress = some t → t.done = true) ∨
    (i = .frameTake ∧ s.mode ≠ .dormant ∧ ∃ p : Fin 4, s.ports[p].inbox ≠ []) := by
  simp only [State.dueAtOnce, List.flatten_cons, List.flatten_nil, List.mem_append, List.not_mem_nil, or_false, mem_dueCommand,
    mem_rowIf, handOverDue_iff, frameOffered_iff]
  rw [and_comm (b := i = .waitingCommandStart), and_comm (b := i = .frameTake)]

/-! ### Each limit -/

theorem warmUpDue_iff (x : AntennaPort) : x.warmUpDue = true ↔ x.state = .warming ∧ 2000 ≤ x.warmUp := by
  rw [AntennaPort.warmUpDue, Bool.and_eq_true, beq_iff_eq, decide_eq_true_iff]; rfl

theorem silenceDue_iff (t : Nat) (x : AntennaPort) : x.silenceDue t = true ↔ x.state = .up ∧ t ≤ x.silence := by
  simp [AntennaPort.silenceDue]

theorem strangerDue_iff (r : Option Stranger) : strangerDue r = true ↔ ∃ x : Stranger, r = some x ∧ 10000 ≤ x.age := by
  cases r with
  | none => simp [strangerDue]
  | some x =>
    have h : strangerDue (some x) = true ↔ 10000 ≤ x.age := decide_eq_true_iff
    simp [h]

theorem windowDue_iff (e : Option PoolEntry) : windowDue e = true ↔ ∃ x : PoolEntry, e = some x ∧ x.window = 0 := by
  cases e <;> simp [windowDue]

theorem ms_eq (b : BeaconInterval) : b.ms = if b = .fast then 100 else 500 := by cases b <;> rfl

theorem fadingDue_iff (t : Nat) (e : Entry) : fadingDue t e = true ↔ ∃ b : BeaconInterval, e.presence = .live ∧ e.interval = some b ∧
    3 * (if b = .fast then 100 else 500) < e.age ∧ 3 * (if b = .fast then 100 else 500) < t := by
  unfold fadingDue
  split
  · rename_i b hp hi
    simp [hp, hi, ms_eq]
  · rename_i h
    constructor
    · nofun
    · rintro ⟨b, hp, hi, _⟩; exact absurd hi (h b hp)

theorem present_iff (p : Presence) : p.present = true ↔ p = .live ∨ p = .fading := by cases p <;> simp [Presence.present]

theorem lostDue_iff (t : Nat) (e : Entry) : lostDue t e = true ↔ (e.presence = .live ∨ e.presence = .fading) ∧ t < e.age := by
  simp [lostDue, present_iff]

theorem fadingDueAt_iff (s : State) (n : Fin 200) : s.fadingDueAt n = true ↔ ∃ (e : Entry) (b : BeaconInterval),
    s.roster[n] = some e ∧ e.presence = .live ∧ e.interval = some b ∧
      3 * (if b = .fast then 100 else 500) < e.age ∧ 3 * (if b = .fast then 100 else 500) < s.tuning.lostTime := by
  unfold State.fadingDueAt
  cases h : s.roster[n] with
  | none => simp
  | some e => simp [fadingDue_iff]

theorem lostDueAt_iff (s : State) (n : Fin 200) : s.lostDueAt n = true ↔
    ∃ e : Entry, s.roster[n] = some e ∧ (e.presence = .live ∨ e.presence = .fading) ∧ s.tuning.lostTime < e.age := by
  unfold State.lostDueAt
  cases h : s.roster[n] with
  | none => simp
  | some e => simp [lostDue_iff]

theorem silentDue_iff (x : Option LiveSlot) :
    silentDue x = true ↔ ∃ y : LiveSlot, x = some y ∧ y.speaking = false ∧ y.timer = 0 ∧ y.expired = false := by
  cases x <;> simp [silentDue, and_assoc]

theorem hotDue_iff (t : Nat) (x : Option Entry) : hotDue t x = true ↔
    ∃ (e : Entry) (h : HotTimer), x = some e ∧ e.hot = some h ∧ t ≤ h.elapsed ∧ h.reached = false := by
  cases x with
  | none => simp [hotDue]
  | some e => cases h : e.hot <;> simp [hotDue, h]

theorem debounceDue_iff (f : Floor) : f.debounceDue = true ↔ f.pinHigh = f.asserted ∧ 20 ≤ f.stability := by
  rw [Floor.debounceDue, Floor.opposite, Bool.and_eq_true, beq_iff_eq, decide_eq_true_iff]; rfl

theorem holdDue_iff (l : Line) : l.holdDue = true ↔ l.active = true ∧ l.source = false ∧ l.hold = 0 := by
  simp [Line.holdDue, and_assoc]

theorem faultDue_iff (l : Line) : l.faultDue = true ↔ 50 ≤ l.disagree ∧ l.fault = false := by
  rw [Line.faultDue, Bool.and_eq_true, Bool.not_eq_true', decide_eq_true_iff]; rfl

theorem soundDue_iff (l : Line) : l.soundDue = true ↔ 50 ≤ l.agree ∧ l.fault = true := by
  rw [Line.soundDue, Bool.and_eq_true, decide_eq_true_iff]; rfl

/-- Which rows are due on the chamber clock: of each kind, those whose limit is reached. -/
theorem mem_dueOnClock (s : State) (i : Instr) : i ∈ s.dueOnClock.flatten ↔
    (∃ p, s.ports[p].warmUpDue = true ∧ .warmUpEnd p = i) ∨
    (∃ p, s.ports[p].silenceDue s.tuning.silenceTime = true ∧ .portSilenceExpiry p = i) ∨
    (∃ j, strangerDue s.combiner.strangers[j] = true ∧ .strangerAgeExpiry j = i) ∨
    (∃ j, windowDue s.combiner.pool[j] = true ∧ .poolWindowExpiry j = i) ∨
    (∃ n, s.fadingDueAt n = true ∧ .entryFading n = i) ∨
    (∃ n, s.lostDueAt n = true ∧ .entryLost n = i) ∨
    (s.sweepDue = true ∧ s.sweep ≠ none) ∧ i = .sweepVisit ∨
    (∃ k, silentDue s.floor.live[k] = true ∧ .silentExpiry k = i) ∨
    (∃ n, hotDue s.tuning.hotDelay s.roster[n] = true ∧ .hotDelayReached n = i) ∨
    s.floor.debounceDue = true ∧ i = .silenceDebounceExpiry ∨
    s.lines.boundaryDue = true ∧ i = .blinkBoundary ∨
    (∃ m, s.lines.line[m].holdDue = true ∧ .holdExpiry m = i) ∨
    (∃ m, s.lines.line[m].faultDue = true ∧ .lampFaultDetected m = i) ∨
    ∃ m, s.lines.line[m].soundDue = true ∧ .lampFaultCleared m = i := by
  simp only [State.dueOnClock, List.flatten_cons, List.flatten_nil, List.mem_append, mem_rowsOf, mem_rowIf, List.not_mem_nil, or_false,
    Bool.and_eq_true, Option.isSome_iff_ne_none]

/-- A row is due where its own limit is reached, and a row of no limit never: of the fourteen kinds, the row's constructor leaves one. -/
theorem rowsAreDue : Claims.RowsAreDue := by
  intro s i
  refine (mem_due s i).trans ((or_congr_left (mem_dueAtOnce s i)).trans (or_assoc.trans (or_congr_right (or_assoc.trans ?_))))
  refine or_congr_right (or_congr_right (and_congr_right fun _ => and_congr_right fun _ => (mem_dueOnClock s i).trans ?_))
  cases i <;> simp only [reduceCtorEq, and_false, and_true, exists_const, or_false, false_or, Instr.warmUpEnd.injEq,
    Instr.portSilenceExpiry.injEq, Instr.strangerAgeExpiry.injEq, Instr.poolWindowExpiry.injEq, Instr.entryFading.injEq,
    Instr.entryLost.injEq, Instr.silentExpiry.injEq, Instr.hotDelayReached.injEq, Instr.holdExpiry.injEq,
    Instr.lampFaultDetected.injEq, Instr.lampFaultCleared.injEq, exists_eq_right, warmUpDue_iff, silenceDue_iff, strangerDue_iff,
    windowDue_iff, fadingDueAt_iff, lostDueAt_iff, silentDue_iff, hotDue_iff, debounceDue_iff, holdDue_iff, faultDue_iff, soundDue_iff]

/-! ### The queue -/

theorem autonomous_due {s : State} (hr : s.inReset = false) (hd : s.due.flatten ≠ []) : autonomous s = { s with
    pending := shuffle s.choice s.due.flatten.length s.due, choice := s.choice + s.due.flatten.length } := by
  unfold autonomous
  rw [hr]
  cases h : s.due.flatten with
  | nil => exact absurd h hd
  | cons _ ds => rfl

theorem step_empty {s : State} (h : s.pending = []) : step s = .next (autonomous s) := by
  unfold step; rw [h]

theorem emptyQueueQueuesWhatIsDue : Claims.EmptyQueueQueuesWhatIsDue := by
  intro s hp hr hd
  obtain ⟨hperm, hsub⟩ := shuffle_spec s.choice s.due.flatten.length s.due le_rfl
  exact ⟨_, by rw [step_empty hp, autonomous_due hr hd], hperm, hsub⟩

theorem idlePartCountsOrRests : Claims.IdlePartCountsOrRests := by
  intro s hp
  rw [step_empty hp]
  unfold autonomous
  refine ⟨fun hr => by simp [hr], fun hr hd hc => ?_, fun hr hd hc => ?_⟩
  · simp [hr, hd, hc]
  · simp [hr, hd, hc]

/-- Settles O3: what is due, row by row; the open order is a permutation that keeps each kind's order; the other cases by the branches
of `autonomous`. -/
theorem emptyQueueActsByItself : Obligations.EmptyQueueActsByItself :=
  ⟨emptyQueueQueuesWhatIsDue, rowsAreDue, idlePartCountsOrRests⟩

end Sys2Proof.Machine
end

section
/-! PROOFS. One millisecond of the chamber clock: the timers it counts, line by line, and what it leaves (O4). -/

namespace Sys2Proof.Machine

/-! ### The fields of a tick -/

theorem tick_ports (s : State) (p : Fin 4) : (tick s).ports[p] = s.ports[p].tick := mapTable_get s.ports (fun _ p => p.tick) p

theorem tick_strangers (s : State) (i : Fin 8) : (tick s).combiner.strangers[i] = s.combiner.strangers[i].map Stranger.tick :=
  mapTable_get s.combiner.strangers (fun _ r => r.map Stranger.tick) i

theorem tick_pool (s : State) (i : Fin 12) : (tick s).combiner.pool[i] = s.combiner.pool[i].map PoolEntry.tick :=
  mapTable_get s.combiner.pool (fun _ e => e.map PoolEntry.tick) i

theorem tick_roster (s : State) (n : Fin 200) : (tick s).roster[n] = s.roster[n].map Entry.tick :=
  mapTable_get s.roster (fun _ e => e.map Entry.tick) n

theorem tick_live (s : State) (k : Fin 6) : (tick s).floor.live[k] = s.floor.live[k].map LiveSlot.tick :=
  mapTable_get s.floor.live (fun _ x => x.map LiveSlot.tick) k

theorem tick_line (s : State) (m : Fin 16) : (tick s).lines.line[m] = (tick s).settleLine (s.tickLine s.lines.line[m]) := by
  unfold tick
  rw [settleLines_line, settleLines_settleLine]
  congr 1
  exact mapTable_get s.lines.line (fun _ l => s.tickLine l) m

theorem port_tick_silence (x : AntennaPort) :
    x.tick.silence = if x.state = .off then x.silence else min 65535 (x.silence + 1) := by
  unfold AntennaPort.tick; cases h : x.state <;> rfl

theorem port_tick_warmUp (x : AntennaPort) :
    x.tick.warmUp = if x.state = .warming then min 2000 (x.warmUp + 1) else x.warmUp := by
  unfold AntennaPort.tick; cases h : x.state <;> rfl

theorem port_tick_rest (x : AntennaPort) : x.tick = { x with silence := x.tick.silence, warmUp := x.tick.warmUp } := by
  unfold AntennaPort.tick; split <;> rfl

theorem liveSlot_tick (x : LiveSlot) : x.tick = { x with timer := if x.speaking then x.timer else x.timer - 1 } := by
  unfold LiveSlot.tick; split <;> rfl

/-! ### What sources read stands still -/

theorem tick_liveHolder (s : State) (k : Fin 6) : (tick s).floor.liveHolder k = s.floor.liveHolder k := by
  unfold Floor.liveHolder
  rw [tick_live, Option.map_map]
  congr 1
  funext x
  rw [Function.comp_apply, liveSlot_tick]

theorem tick_liveSlotOf (s : State) (n : Fin 200) : (tick s).floor.liveSlotOf n = s.floor.liveSlotOf n := by
  simp only [Floor.liveSlotOf, tick_liveHolder]

theorem tick_speaking (s : State) (n : Fin 200) : (tick s).speaking n = s.speaking n := by
  unfold State.speaking
  rw [tick_roster, tick_liveSlotOf]
  cases s.roster[n] <;> rfl

theorem tick_gate (s : State) (k : Fin 6) : (tick s).gate k = s.gate k := by
  unfold State.gate
  rw [tick_liveHolder]
  cases s.floor.liveHolder k with
  | none => rfl
  | some n => simp only [tick_speaking]; rfl

theorem tick_chairSpeaking (s : State) : (tick s).chairSpeaking = s.chairSpeaking := by
  have hkey : (tick s).chairKeyOn = s.chairKeyOn := by
    unfold State.chairKeyOn
    have hc : (tick s).floor.chair = s.floor.chair := rfl
    rw [hc]
    cases s.floor.chair with
    | none => rfl
    | some n =>
      simp only
      rw [tick_roster]
      cases s.roster[n] <;> rfl
  unfold State.chairSpeaking
  rw [hkey]; rfl

theorem tick_isSome (s : State) (n : Fin 200) : (tick s).roster[n].isSome = s.roster[n].isSome := by
  rw [tick_roster, Option.isSome_map]

theorem inScope_group (s : State) (g : Fin 8) (n : Fin 200) :
    s.inScope (.group g) (.entry n) = s.roster[n].any fun e => e.group == g := by
  show (match s.roster[n] with
    | some e => e.group == g
    | none => false) = _
  cases s.roster[n] <;> rfl

theorem tick_inScope (s : State) (sc : Scope) (x : Subject) : (tick s).inScope sc x = s.inScope sc x := by
  cases x with
  | entry n =>
    cases sc with
    | anyUnit => exact tick_isSome s n
    | group g => rw [inScope_group, inScope_group, tick_roster]; cases s.roster[n] <;> rfl
    | entry m => exact congrArg (m == n && ·) (tick_isSome s m)
    | port p => rfl
    | line m => rfl
    | chamber => rfl
  | chamber => cases sc <;> rfl
  | port p => cases sc <;> rfl
  | line m => cases sc <;> rfl

/-- A millisecond changes no source: no source reads a timer (R140 to R142). -/
theorem tick_sourceState (s : State) (src : Source) : (tick s).sourceState src = s.sourceState src := by
  cases src with
  | warning sc cs noted =>
    have h : (tick s).matching sc cs = s.matching sc cs := by
      simp only [State.matching, tick_inScope]; rfl
    simp only [State.sourceState, h]
  | gate k => exact tick_gate s k
  | chairSpeaking => exact tick_chairSpeaking s
  | off => rfl
  | on => rfl
  | hold => rfl
  | attention v => rfl
  | session => rfl

/-! ### Lines -/

/-- Following its source changes a line's source, activity and hold timer alone. -/
theorem Line.follow_rest (l : Line) (src : Bool) :
    l.follow src = { l with source := src, active := (l.follow src).active, hold := (l.follow src).hold } := by
  unfold Line.follow
  cases src
  · rfl
  · cases l.active <;> rfl

/-- A line whose source does not rise from inactivity keeps its hold timer. -/
theorem Line.follow_hold {l : Line} {src : Bool} (h : src = true → l.active = true) : (l.follow src).hold = l.hold := by
  unfold Line.follow
  cases src
  · rfl
  · simp [h rfl]

theorem restSense_rest (s : State) (l : Line) :
    s.restSense l = { l with disagree := (s.restSense l).disagree, agree := (s.restSense l).agree } := by
  unfold State.restSense
  split
  · split <;> rfl
  · rfl

theorem restSense_used {s : State} {l : Line} (h : s.senseInUse l = true) :
    (s.senseAgrees l = true → (s.restSense l).disagree = 0 ∧ (s.restSense l).agree = l.agree) ∧
    (s.senseAgrees l = false → (s.restSense l).agree = 0 ∧ (s.restSense l).disagree = l.disagree) := by
  unfold State.restSense
  rw [if_pos h]
  exact ⟨fun ha => by simp [ha], fun ha => by simp [ha]⟩

theorem restSense_unused {s : State} {l : Line} (h : s.senseInUse l = false) :
    (s.restSense l).disagree = 0 ∧ (s.restSense l).agree = 0 := by
  unfold State.restSense
  simp [h]

/-- Whether a line is lit depends on its activity and its live configuration alone. -/
theorem lineLit_congr (s : State) {l k : Line} (ha : k.active = l.active) (hl : k.live = l.live) : s.lineLit k = s.lineLit l := by
  unfold State.lineLit; rw [ha, hl]

theorem lineLit_restSense (s : State) (l : Line) : s.lineLit (s.restSense l) = s.lineLit l := by
  rw [restSense_rest]; exact lineLit_congr s rfl rfl

/-- A lit line is driven as its polarity says, whatever the state. -/
theorem lineDriven_of_lit {s : State} {l : Line} (h : s.lineLit l = true) : s.lineDriven l = (l.live.polarity == .activeHigh) := by
  have hr : s.inReset = false := by
    simp only [State.lineLit, Bool.and_eq_true, Bool.not_eq_true'] at h
    exact h.2
  unfold State.lineDriven
  rw [hr, h]
  cases l.live.polarity <;> rfl

/-- A line as a millisecond leaves it, before its sense times are judged. -/
def State.followedLine (s : State) (l : Line) : Line := (s.tickLine l).follow ((tick s).sourceState l.live.source)

theorem tick_line_eq (s : State) (m : Fin 16) : (tick s).lines.line[m] = (tick s).restSense (s.followedLine s.lines.line[m]) :=
  tick_line s m

theorem followedLine_rest (s : State) (l : Line) : s.followedLine l = { s.tickLine l with
    source := (tick s).sourceState l.live.source, active := (s.followedLine l).active, hold := (s.followedLine l).hold } :=
  Line.follow_rest _ _

theorem timersAreCounted : Claims.TimersAreCounted := by
  intro s
  refine ⟨fun p => ?_, fun p => ?_, fun i r hr => ?_, fun i e he => ?_, fun n e he => ?_, fun k x hx => ?_, ?_, rfl, fun m hsrc hact => ?_⟩
  · rw [tick_ports]; exact port_tick_silence _
  · rw [tick_ports]; exact port_tick_warmUp _
  · rw [tick_strangers, hr]; rfl
  · rw [tick_pool, he]; rfl
  · refine ⟨e.hot.map HotTimer.tick, by rw [tick_roster, he]; rfl, fun t ht => by rw [ht]; rfl, fun hn => by rw [hn]; rfl⟩
  · rw [tick_live, hx, Option.map_some, liveSlot_tick]
  · show (if s.floor.opposite then _ else 0) = _
    simp only [Floor.opposite, beq_iff_eq]; rfl
  · rw [tick_line_eq, restSense_rest]
    refine Line.follow_hold fun h => hact ?_
    rw [hsrc, ← tick_sourceState]; exact h

theorem senseTimesAreCounted : Claims.SenseTimesAreCounted := by
  rintro s m l x rfl rfl
  generalize hl : s.lines.line[m] = l
  have hx : (tick s).lines.line[m] = (tick s).restSense (s.followedLine l) := by rw [tick_line_eq, hl]
  have hf := followedLine_rest s l
  rw [hx, lineLit_restSense]
  have hlive : (s.followedLine l).live = l.live := by rw [hf]; rfl
  have hsense : (s.followedLine l).sense = l.sense := by rw [hf]; rfl
  have hdis : (s.followedLine l).disagree = (s.tickLine l).disagree := by rw [hf]
  have hagr : (s.followedLine l).agree = (s.tickLine l).agree := by rw [hf]
  refine ⟨fun hc h1 h2 => ?_, fun h => ?_, ?_, ?_⟩
  · have hin : s.senseInUse l = true := by rw [State.senseInUse, h1, hc]; rfl
    have hin' : (tick s).senseInUse (s.followedLine l) = true := by rw [State.senseInUse, h2, hlive, hc]; rfl
    have hag : (tick s).senseAgrees (s.followedLine l) = s.senseAgrees l := by
      unfold State.senseAgrees
      rw [lineDriven_of_lit h1, lineDriven_of_lit h2, hlive, hsense]
    obtain ⟨hyes, hno⟩ := restSense_used hin'
    rw [hag, hagr] at hyes
    rw [hag, hdis] at hno
    refine ⟨fun he => ?_, fun hne => ?_⟩
    · have ha : s.senseAgrees l = true := by rw [State.senseAgrees, he, beq_self_eq_true]
      obtain ⟨hd, hg⟩ := hyes ha
      exact ⟨by rw [hg, State.tickLine, hin, ha]; rfl, hd⟩
    · have ha : s.senseAgrees l = false := by simpa [State.senseAgrees] using hne
      obtain ⟨hd, hg⟩ := hno ha
      exact ⟨by rw [hg, State.tickLine, hin, ha]; rfl, hd⟩
  · refine restSense_unused ?_
    rw [State.senseInUse, hlive]
    rcases h with h | h
    · rw [h, Bool.and_false]
    · rw [h, Bool.false_and]
  · have hr := restSense_rest (tick s) (s.followedLine l)
    generalize (tick s).restSense (s.followedLine l) = x at hr ⊢
    rw [hr, hf]; rfl
  · rw [restSense_rest, hf]

theorem millisecondKeepsTheRest : Claims.MillisecondKeepsTheRest := by
  intro s
  refine ⟨rfl, ?_, fun p => ?_, fun i h => ?_, fun i h => ?_, fun n h => ?_, fun k h => ?_, rfl⟩
  · show (s.lines.boundaryDue || (s.lines.phase + 1) % 1000 % 125 == 0) = true ↔ _
    rw [Bool.or_eq_true, beq_iff_eq, Nat.dvd_iff_mod_eq_zero]
  · rw [tick_ports]; exact port_tick_rest _
  · rw [tick_strangers, h]; rfl
  · rw [tick_pool, h]; rfl
  · rw [tick_roster, h]; rfl
  · rw [tick_live, h]; rfl

/-- Settles O4, field by field of `tick`; a line is counted, follows its source, and has its sense times judged on the state left. -/
theorem millisecondCountsTheTimers : Obligations.MillisecondCountsTheTimers :=
  ⟨timersAreCounted, senseTimesAreCounted, millisecondKeepsTheRest⟩

end Sys2Proof.Machine
end

section
/-! PROOFS. Resets and wakes: a device reset (O6), the wake before a command (O7), CHAMBER_RESET (O9), and the laws at reset (O53). -/

namespace Sys2Proof.Machine

/-! ### Device reset -/

theorem deviceReset_ports (s : State) (p : Fin 4) : (deviceReset s).ports[p] = .reset := Vector.getElem_replicate _

theorem deviceReset_pool (s : State) (i : Fin 12) : (deviceReset s).combiner.pool[i] = none := Vector.getElem_replicate _

theorem deviceReset_strangers (s : State) (i : Fin 8) : (deviceReset s).combiner.strangers[i] = none := Vector.getElem_replicate _

theorem deviceReset_roster (s : State) (n : Fin 200) : (deviceReset s).roster[n] = none := Vector.getElem_replicate _

theorem floorReset_live (b : Bool) (k : Fin 6) : (Floor.reset b).live[k] = none := Vector.getElem_replicate _

theorem floorReset_held (b : Bool) (k : Fin 6) : (Floor.reset b).held[k] = none := Vector.getElem_replicate _

theorem deviceReset_line (s : State) (m : Fin 16) : (deviceReset s).lines.line[m] = .reset s.lines.line[m].sense :=
  mapTable_get s.lines.line (fun _ l => Line.reset l.sense) m

theorem lineDriven_inReset {s : State} (h : s.inReset = true) (l : Line) : s.lineDriven l = false := by
  unfold State.lineDriven; rw [if_pos h]

theorem senseInUse_inReset {s : State} (h : s.inReset = true) (l : Line) : s.senseInUse l = false := by
  simp [State.senseInUse, State.lineLit, h]

theorem deviceResetStartsEveryBlockAfresh : Claims.DeviceResetStartsEveryBlockAfresh := by
  intro s
  refine ⟨deviceReset s, rfl, rfl, rfl, fun p => ?_, deviceReset_pool s, deviceReset_strangers s, rfl, deviceReset_roster s, rfl, rfl, rfl,
    rfl, rfl, fun k => ⟨floorReset_live _ k, floorReset_held _ k⟩, rfl, rfl, rfl, rfl, rfl, rfl, rfl, rfl, rfl, rfl, fun m => ?_, rfl, rfl,
    rfl, rfl, rfl, rfl, rfl⟩
  · rw [deviceReset_ports]
    exact ⟨rfl, rfl, rfl, rfl, rfl, rfl, rfl, rfl, rfl, rfl⟩
  · rw [deviceReset_line]
    exact ⟨rfl, rfl, rfl, rfl, rfl, rfl, rfl, rfl, lineDriven_inReset rfl _, rfl⟩

theorem resetEndStartsThePart : Claims.ResetEndStartsThePart := by
  intro s h
  rw [exec_resetEnd, if_pos h]; rfl

/-- Every row but those of the reset and of the pins asks first whether RESET_N is low. -/
theorem resetHoldsThePart : Claims.ResetHoldsThePart := by
  intro i s h hreset hend hfall hrise hsilence hsense
  obtain ⟨_, _, _, _, _, _, _, _, _, _, _, _, _, _, _, _⟩ := s
  cases h
  cases i with
  | deviceReset => exact absurd rfl hreset
  | resetEnd => exact absurd rfl hend
  | csNFall => exact absurd rfl hfall
  | csNRise => exact absurd rfl hrise
  | silenceInputChange b => exact absurd rfl (hsilence b)
  | senseInputChange m b => exact absurd rfl (hsense m b)
  | _ => rfl

theorem pinsAreFollowedInReset : Claims.PinsAreFollowedInReset := by
  intro s h
  refine ⟨?_, ?_, fun high => ?_, fun m high => ?_⟩
  · rw [exec_csNFall]
    by_cases hc : s.command.csLow = true
    · rw [if_pos hc, ← hc]
    · rw [if_neg hc, if_pos h]
  · rw [exec_csNRise, if_pos h]
  · have hr : s.running = false := by rw [State.running, h, Bool.not_true, Bool.and_false]
    rw [exec_silenceInputChange, hr]; rfl
  · rw [exec_senseInputChange]
    have hu := senseInUse_inReset (s := s.setLine m (s.lines.line[m].withSense high)) h
    unfold State.restSense
    simp only [hu, Bool.false_eq_true, if_false, State.setLine_lines, setAt_get_same]
    rw [State.setLine, State.setLine_lines, setAt_setAt]; rfl

/-- Settles O6, field by field of `deviceReset`; the rows held in reset by the question each of them asks first. -/
theorem deviceResetHoldsAndStartsThePart : Obligations.DeviceResetHoldsAndStartsThePart :=
  ⟨deviceResetStartsEveryBlockAfresh, resetHoldsThePart, pinsAreFollowedInReset, resetEndStartsThePart⟩

/-! ### The wake -/

theorem wake_ports (s : State) (p : Fin 4) : (wake s).ports[p] = s.ports[p].woken := mapTable_get s.ports (fun _ p => p.woken) p

theorem wake_roster (s : State) (n : Fin 200) : (wake s).roster[n] = s.roster[n].map Entry.woken :=
  mapTable_get s.roster (fun _ e => e.map Entry.woken) n

theorem wake_line (s : State) (m : Fin 16) : (wake s).lines.line[m] = s.lines.line[m].woken :=
  mapTable_get s.lines.line (fun _ l => l.woken) m

theorem woken_eq (x : AntennaPort) : x.woken = { x with silence := if x.enabled then 0 else x.silence } := by
  unfold AntennaPort.woken; split <;> rfl

/-- A command to a DORMANT part is carried out as on the part that the wake leaves (R163). -/
theorem runCommand_dormant {s : State} (hr : s.inReset = false) (hd : s.mode = .dormant) (i : Instr) (body : State → Handling) :
    runCommand i body s = runCommand i body (wake s) := by
  rw [runCommand_ready (s := wake s) ⟨hr, nofun⟩, runCommand, hr, wakeIfDormant_dormant hd]; rfl

/-- Every row that stands for a command, but SET_MODE DORMANT, is carried out through `runCommand` (R163). -/
theorem exec_eq_runCommand {i : Instr} (hi : IsCommand i) (hne : i ≠ .setModeDormant) :
    ∃ body : State → Handling, ∀ s, exec i s = runCommand i body s := by
  cases i with
  | deviceReset | resetEnd | frameComplete | stopBitMissing | byteGapTimeout | frameGapReject | answerSent | resyncIdle
  | warmUpEnd | portSilenceExpiry | frameTake | strangerAgeExpiry | poolWindowExpiry | entryFading | entryLost | sweepVisit
  | silentExpiry | hotDelayReached | silenceInputChange | silenceDebounceExpiry | blinkBoundary | holdExpiry | senseInputChange
  | lampFaultDetected | lampFaultCleared | csNFall | csNRise | waitingCommandStart | commandRefusedBusy | characterComplete
  | byteComplete => cases hi
  | setModeDormant => exact absurd rfl hne
  | retire e => exact ⟨_, exec_retire e⟩
  | findUnit u => exact ⟨_, exec_findUnit u⟩
  | readEntry e => exact ⟨_, exec_readEntry e⟩
  | grantFloor e => exact ⟨_, exec_grantFloor e⟩
  | revokeFloor e => exact ⟨_, exec_revokeFloor e⟩
  | mute e => exact ⟨_, exec_mute e⟩
  | unmute e => exact ⟨_, exec_unmute e⟩
  | muteAll => exact ⟨_, exec_muteAll⟩
  | unmuteAll => exact ⟨_, exec_unmuteAll⟩
  | readStrangers => exact ⟨_, exec_readStrangers⟩
  | applyLines => exact ⟨_, exec_applyLines⟩
  | readStatus => exact ⟨_, exec_readStatus⟩
  | chamberReset => exact ⟨_, exec_chamberReset⟩
  | unknownCommand o => exact ⟨_, exec_unknownCommand o⟩
  | _ => exact ⟨_, fun _ => rfl⟩

theorem commandsWakeADormantPart : Claims.CommandsWakeADormantPart := by
  intro i s hi hne hr hd
  obtain ⟨body, h⟩ := exec_eq_runCommand hi hne
  rw [h, h, runCommand_dormant hr hd]

theorem wakeRestartsAndContinues : Claims.WakeRestartsAndContinues := by
  intro s
  refine ⟨rfl, rfl, fun p => ?_, fun n => ?_, rfl, fun m => ?_, rfl, rfl⟩
  · rw [wake_ports]; exact woken_eq _
  · rw [wake_roster]; rfl
  · rw [wake_line]; rfl

/-- Settles O7: every command but SET_MODE DORMANT goes through `runCommand`, which wakes the part first; and the fields of a wake. -/
theorem wakesComeFirst : Obligations.WakesComeFirst := ⟨commandsWakeADormantPart, wakeRestartsAndContinues⟩

/-! ### CHAMBER_RESET -/

theorem finish_eq_settleLines {s : State} (h : s.engine.posted = []) : finish s = settleLines s := by
  rw [finish, takeReports_eq_self h]

theorem chamberReset_ports (s : State) (p : Fin 4) : (chamberResetAll s).ports[p] = s.ports[p].chamberReset :=
  mapTable_get s.ports (fun _ p => p.chamberReset) p

theorem chamberReset_roster (s : State) (n : Fin 200) : (chamberResetAll s).roster[n] = s.roster[n].map Entry.chamberReset :=
  mapTable_get s.roster (fun _ e => e.map Entry.chamberReset) n

theorem chamberReset_live (s : State) (k : Fin 6) : (chamberResetAll s).floor.live[k] = none := Vector.getElem_replicate _

theorem chamberReset_held (s : State) (k : Fin 6) : (chamberResetAll s).floor.held[k] = none := Vector.getElem_replicate _

/-- Outside SESSION the chair is not speaking (R111). -/
theorem chairSpeaking_outside {s : State} (h : (s.mode == .session) = false) : s.chairSpeaking = false := by
  unfold State.chairSpeaking State.chairKeyOn
  cases s.floor.chair with
  | none => rfl
  | some n => cases hn : s.roster[n] <;> simp [-Fin.getElem_fin, hn, h]

theorem gate_of_noLive {s : State} (h : ∀ k : Fin 6, s.floor.live[k] = none) (k : Fin 6) : s.gate k = false := by
  unfold State.gate Floor.liveHolder
  rw [h]; rfl

/-- A state in which only an ON source is true: no live slot, no hold, no warning and no sitting. -/
structure OnlyOnIsTrue (s : State) : Prop where
  warnings : s.engine.warnings = []
  attention : s.engine.attention = []
  cause : s.floor.cause = .none
  live : ∀ k : Fin 6, s.floor.live[k] = none
  mode : s.mode = .recess

theorem OnlyOnIsTrue.sourceState {s : State} (h : OnlyOnIsTrue s) (src : Source) : s.sourceState src = (src == .on) := by
  cases src with
  | off | on => rfl
  | warning sc cs noted => simp only [State.sourceState, State.matching, h.warnings]; rfl
  | gate k => exact gate_of_noLive h.live k
  | chairSpeaking => exact chairSpeaking_outside (by rw [h.mode]; rfl)
  | hold => simp only [State.sourceState, h.cause]; rfl
  | attention v => simp only [State.sourceState, h.attention]; rfl
  | session => simp only [State.sourceState, h.mode]; rfl

theorem chamberReset_onlyOn (s : State) : OnlyOnIsTrue (chamberResetAll s) := ⟨rfl, rfl, rfl, chamberReset_live s, rfl⟩

theorem chamberReset_line (s : State) (m : Fin 16) : (chamberResetAll s).lines.line[m] =
    s.lines.line[m].chamberReset.unheld (s.lines.line[m].live.source == .on) := by
  unfold chamberResetAll
  simp only [mapTable_get]
  exact congrArg s.lines.line[m].chamberReset.unheld
    (OnlyOnIsTrue.sourceState ⟨rfl, rfl, rfl, floorReset_live s.floor.pinHigh, rfl⟩ s.lines.line[m].chamberReset.live.source)

/-- An ON line left inactive rises at once and loads its hold timer, and any other line stays as `unheld` leaves it (R143). -/
theorem follow_unheld (l : Line) (src : Bool) : (l.chamberReset.unheld src).follow src = { l.chamberReset with
    source := src, active := src, hold := if src = true ∧ l.active = false then l.live.holdTime else 0 } := by
  unfold Line.follow Line.unheld Line.chamberReset
  cases src <;> cases l.active <;> rfl

/-- Sense times that stand at 0 stay there. -/
theorem restSense_zero {l : Line} (s : State) (hd : l.disagree = 0) (ha : l.agree = 0) : s.restSense l = l := by
  cases l; cases hd; cases ha
  unfold State.restSense
  split
  · split <;> rfl
  · rfl

theorem chamberReset_settled (s : State) (m : Fin 16) : (settleLines (chamberResetAll s)).lines.line[m] =
    { s.lines.line[m].chamberReset with
      source := s.lines.line[m].live.source == .on
      active := s.lines.line[m].live.source == .on
      hold := if (s.lines.line[m].live.source == .on) = true ∧ s.lines.line[m].active = false
        then s.lines.line[m].live.holdTime else 0 } := by
  rw [settleLines_line, chamberReset_line, State.settleLine, (chamberReset_onlyOn s).sourceState]
  show State.restSense _ ((s.lines.line[m].chamberReset.unheld (s.lines.line[m].live.source == .on)).follow
    (s.lines.line[m].live.source == .on)) = _
  rw [follow_unheld, restSense_zero _ rfl rfl]

/-- A reply fills in the command port's record of it, and takes the command in progress off unless another waits. -/
theorem complete_command (i : Instr) (r : Reply) (s : State) : (complete i r s).command = { s.command with
    inProgress := (complete i r s).command.inProgress, reply := (complete i r s).command.reply, lastReply := some r } := by
  unfold complete
  split <;> rfl

/-- Settles O9: CHAMBER_RESET posts nothing, so that what `chamberResetAll` leaves stands but for the lines that follow their sources. -/
theorem chamberResetKeepsTheConfiguration : Obligations.ChamberResetKeepsTheConfiguration := by
  intro s hs
  refine ⟨complete .chamberReset (okReply []) (settleLines (chamberResetAll s)), ?_, hs.1, rfl, rfl, fun p => ?_,
    fun i => Vector.getElem_replicate _, fun i => Vector.getElem_replicate _, rfl, fun n => ?_, rfl, rfl, rfl, rfl, rfl, rfl, rfl,
    fun k => ⟨chamberReset_live s k, chamberReset_held s k⟩, rfl, rfl, rfl, rfl, rfl, rfl, rfl, rfl, fun m => ?_, rfl, rfl, rfl,
    complete_command _ _ _, rfl⟩
  · rw [exec_chamberReset, runCommand_ready hs, Handling.conclude, finish_eq_settleLines rfl]
  · show (chamberResetAll s).ports[p] = _
    rw [chamberReset_ports]; unfold AntennaPort.chamberReset; split <;> rfl
  · exact chamberReset_roster s n
  · have h := chamberReset_settled s m
    rw [complete_lines, h]
    refine ⟨rfl, rfl, rfl, rfl, rfl, rfl, rfl, ?_, rfl⟩
    simp only [beq_iff_eq]

/-! ### The laws right after reset -/

theorem reset_roster (n : Fin 200) : State.reset.roster[n] = none := Vector.getElem_replicate _

theorem reset_no_entry {n : Fin 200} {e : Entry} : State.reset.roster[n] ≠ some e := by rw [reset_roster]; nofun

theorem reset_pool (i : Fin 12) : State.reset.combiner.pool[i] = none := Vector.getElem_replicate _

theorem reset_no_poolEntry {i : Fin 12} {e : PoolEntry} : State.reset.combiner.pool[i] ≠ some e := by rw [reset_pool]; nofun

theorem reset_strangers (i : Fin 8) : State.reset.combiner.strangers[i] = none := Vector.getElem_replicate _

theorem reset_no_stranger {i : Fin 8} {r : Stranger} : State.reset.combiner.strangers[i] ≠ some r := by rw [reset_strangers]; nofun

theorem reset_ports (p : Fin 4) : State.reset.ports[p] = .reset := Vector.getElem_replicate _

theorem reset_live (k : Fin 6) : State.reset.floor.live[k] = none := floorReset_live _ k

theorem reset_held (k : Fin 6) : State.reset.floor.held[k] = none := floorReset_held _ k

theorem reset_no_live {k : Fin 6} {x : LiveSlot} : State.reset.floor.live[k] ≠ some x := by rw [reset_live]; nofun

theorem reset_no_held {k : Fin 6} {n : Fin 200} : State.reset.floor.held[k] ≠ some n := by rw [reset_held]; nofun

theorem reset_clockLaw : ClockLaw State.reset := ⟨rfl, fun _ => rfl⟩

theorem reset_poolLaw : PoolLaw State.reset where
  once _ _ _ _ h := absurd h reset_no_poolEntry
  enrolled _ _ h := absurd h reset_no_poolEntry
  heard _ _ h := absurd h reset_no_poolEntry
  dormant _ := reset_pool

theorem reset_keyLaw : KeyLaw State.reset where
  unitOnce _ _ _ _ h := absurd h reset_no_entry
  seatOnce _ _ _ _ h := absurd h reset_no_entry
  ranges _ _ h := absurd h reset_no_entry
  strangerOnce _ _ _ _ h := absurd h reset_no_stranger
  strangerApart _ _ _ _ h := absurd h reset_no_stranger
  strangerRange _ _ h := absurd h reset_no_stranger
  inboxes p f h := by rw [reset_ports] at h; cases h

theorem defaults_profileLaw (p : Fin 4) : ProfileLaw Profile.defaults[p] := by
  match p with
  | 0 | 1 | 2 | 3 => constructor <;> decide

theorem reset_settingsLaw : SettingsLaw State.reset where
  profiles := defaults_profileLaw
  tuning := by constructor <;> decide

theorem reset_evaluatorLaw : EvaluatorLaw State.reset := fun _ _ h => absurd h reset_no_entry

theorem reset_floorLaw : FloorLaw State.reset where
  capacity := by decide
  liveBelow _ _ h := absurd h reset_no_live
  heldBelow _ _ h := absurd h reset_no_held
  liveOnce _ _ _ _ h := absurd h reset_no_live
  heldOnce _ _ _ h := absurd h reset_no_held
  heldEmpty _ := reset_held
  liveEmpty _ := reset_live
  liveEnrolled _ _ h := absurd h reset_no_live
  heldEnrolled _ _ h := absurd h reset_no_held
  chairEnrolled _ h := by cases h
  chairLive _ _ h := absurd h reset_no_live
  chairHeld _ _ h := absurd h reset_no_held
  sitting _ k := ⟨reset_live k, reset_held k⟩
  silence := ⟨nofun, nofun⟩

theorem reset_speakingLaw : SpeakingLaw State.reset := ⟨fun _ _ h => absurd h reset_no_live, fun _ _ h => absurd h reset_no_entry⟩

theorem reset_engineLaw : EngineLaw State.reset where
  taken := rfl
  laws :=
    { keys := .nil, short := by decide, once := .nil, pending := nofun, ordered := .nil, full := nofun, lowest := nofun }

theorem reset_warningLaw : WarningLaw State.reset := ⟨nofun, fun _ => nofun⟩

/-- Settles O53: after a reset every table is empty and every setting stands at its default. -/
theorem resetMeetsEveryLaw : Obligations.ResetMeetsEveryLaw :=
  ⟨reset_clockLaw, fun p => by rw [reset_ports]; exact reset_portLaw, reset_poolLaw, reset_keyLaw, reset_settingsLaw, reset_evaluatorLaw,
    reset_floorLaw, reset_speakingLaw, reset_engineLaw, reset_warningLaw⟩

end Sys2Proof.Machine
end

section
/-! PROOFS. Antenna ports: the receiver's moves (O17), the port's timers (O18), the judging of a frame (O16), and ENABLE_PORT and
READ_PORT (O19). -/

namespace Sys2Proof.Machine

/-! ### The receiver -/

theorem character_listening {x : AntennaPort} (h : x.rx = .listening) (b : Byte) :
    x.character b = { x with rx := .receiving, frame := [b] } := by
  unfold AntennaPort.character; rw [h]

theorem character_receiving {x : AntennaPort} (h : x.rx = .receiving) (b : Byte) :
    x.character b = { x with frame := x.frame ++ [b] } := by
  obtain ⟨_, _, _, _, _, _, _, _, _, _⟩ := x
  cases h; rfl

theorem character_ignored {x : AntennaPort} (h : x.rx = .resync ∨ x.rx = .answering) (b : Byte) : x.character b = x := by
  unfold AntennaPort.character
  rcases h with h | h <;> rw [h]

theorem answered_answering {x : AntennaPort} (he : x.enabled = true) (h : x.rx = .answering) :
    x.answered = { x with rx := .resync, answer := none } := if_pos (by rw [he, h]; rfl)

theorem answered_disabled {x : AntennaPort} (he : x.enabled = false) : x.answered = { x with answer := none } :=
  if_neg (by rw [he]; nofun)

theorem setPort_self (s : State) (p : Fin 4) : s.setPort p s.ports[p] = s := by
  unfold State.setPort
  rw [setAt_same]

theorem charactersBuildAFrame : Claims.CharactersBuildAFrame := by
  intro p b s hr he
  refine ⟨fun hx => ?_, fun hx hl => ?_, fun hx => ?_⟩
  · have hdue : s.ports[p].characterDue = true := by simp only [AntennaPort.characterDue, he, hx]; rfl
    rw [exec_characterComplete, occur_due hr hdue, character_listening hx]
  · have hdue : s.ports[p].characterDue = true := by
      simp only [AntennaPort.characterDue, he, Config.frameLength, Bool.true_and, Bool.not_eq_true', Bool.and_eq_false_iff,
        beq_eq_false_iff_ne]
      exact .inr hl.ne
    rw [exec_characterComplete, occur_due hr hdue, character_receiving hx]
  · have hdue : s.ports[p].characterDue = true := by
      rcases hx with hx | hx <;> simp only [AntennaPort.characterDue, he, hx] <;> rfl
    rw [exec_characterComplete, occur_due hr hdue, character_ignored hx, setPort_self]

theorem receiverMoves : Claims.ReceiverMoves := by
  intro p s hr he
  refine ⟨fun hx => ?_, fun hx hf => ?_, fun ho => ?_, fun hx ha => ?_, fun hx ho ha => ?_⟩
  · have hdue : s.ports[p].stopBitDue = true := by
      rcases hx with hx | hx <;> simp only [AntennaPort.stopBitDue, he, hx] <;> rfl
    rw [exec_stopBitMissing, occur_due hr hdue]; rfl
  · have hdue : s.ports[p].gapDue = true := by simp [-Fin.getElem_fin, AntennaPort.gapDue, he, hx, hf]
    rw [exec_byteGapTimeout, occur_due hr hdue]; rfl
  · have hdue : s.ports[p].rejectDue = true := by simp only [AntennaPort.rejectDue, he, ho, Bool.and_self]
    rw [exec_frameGapReject, occur_due hr hdue]; rfl
  · rw [exec_answerSent, occur_due hr ha, answered_answering he hx]
  · have hdue : s.ports[p].resyncDue = true := by simp only [AntennaPort.resyncDue, he, hx, ho, ha]; rfl
    rw [exec_resyncIdle, occur_due hr hdue]

theorem answerOutlivesItsPort : Claims.AnswerOutlivesItsPort := by
  intro p s hr he ha
  rw [exec_answerSent, occur_due hr ha, answered_disabled he]

/-- Settles O17, move by move: when it is due, and what the port becomes. -/
theorem receiverMovesWithItsLine : Obligations.ReceiverMovesWithItsLine :=
  ⟨charactersBuildAFrame, receiverMoves, answerOutlivesItsPort⟩

/-! ### The port's timers -/

theorem silentCond_eq (x : PortState) : x.silentCond = (x == .silent) := by cases x <;> rfl

/-- A port that was not SILENT becomes so: it reports, and the open entries are tested again (R10, R32). -/
theorem portFallsSilent_eq {p : Fin 4} {s : State} (h : s.ports[p].state ≠ .silent) : portFallsSilent p s =
    recheckCoverage ((s.setPort p { s.ports[p] with state := .silent }).post .ports (.report ⟨.port p, .receiverSilent⟩ true)) := by
  have hold : s.ports[p].state.silentCond = false := by rw [silentCond_eq]; exact beq_eq_false_iff_ne.2 h
  rw [portFallsSilent, State.portBecomes, hold]; rfl

/-- Settles O18: the two limits of a port's timers, where each is due and what it does. -/
theorem portTimersMoveThePort : Obligations.PortTimersMoveThePort := by
  rintro p s ht
  have hrun := (running_iff s).2 ⟨ht.2, ht.1⟩
  refine ⟨fun hx hw => ?_, fun hx ht' => ?_⟩
  · have hdue : (s.running && s.ports[p].warmUpDue) = true := by rw [hrun]; exact (warmUpDue_iff _).2 ⟨hx, hw⟩
    rw [exec_warmUpEnd, occur_due ht.1 hdue, endWarmUp]
    refine ⟨fun hlt => by rw [if_pos hlt], fun hle => ?_⟩
    rw [if_neg (not_lt.2 hle), portFallsSilent_eq (by rw [hx]; decide)]
  · have hdue : (s.running && s.ports[p].silenceDue s.tuning.silenceTime) = true := by rw [hrun]; exact (silenceDue_iff _ _).2 ⟨hx, ht'⟩
    rw [exec_portSilenceExpiry, occur_due ht.1 hdue, portFallsSilent_eq (by rw [hx]; decide)]

/-! ### What makes a frame valid -/

theorem frameSum_toNat (b0 b1 b2 b3 b4 b5 b6 b7 b8 b9 : Byte) : (frameSum [b0, b1, b2, b3, b4, b5, b6, b7, b8, b9]).toNat =
    (b0.toNat + b1.toNat + b2.toNat + b3.toNat + b4.toNat + b5.toNat + b6.toNat + b7.toNat + b8.toNat + b9.toNat) % 256 := by
  simp only [frameSum, List.foldl, BitVec.toNat_add, Nat.mod_add_mod, Nat.reducePow, BitVec.zero_add, BitVec.ofNat_eq_ofNat]

theorem toNat_append_byte {n : Nat} (x : BitVec n) (b : Byte) : (x ++ b).toNat = x.toNat * 256 + b.toNat := by
  rw [BitVec.toNat_append, ← Nat.shiftLeft_add_eq_or_of_lt b.isLt, Nat.shiftLeft_eq]

theorem frameUnit_toNat (f : List Byte) :
    (frameUnit f).toNat = (frameByte f 1).toNat * 65536 + (frameByte f 2).toNat * 256 + (frameByte f 3).toNat := by
  show (frameByte f 1 ++ frameByte f 2 ++ frameByte f 3 : BitVec (8 + 8 + 8)).toNat = _
  rw [toNat_append_byte, toNat_append_byte]
  omega

/-- The rule of R2 in the numbers that the bytes stand for. -/
theorem validFrame_iff (f : List Byte) : validFrame f = true ↔ (frameSum f).toNat = 0 ∧
    ((frameByte f 0).toNat = 0x6B ∨ (frameByte f 0).toNat = 0x61 ∧ (frameUnit f).toNat ≠ 0 ∧ (frameUnit f).toNat ≠ 0xFFFFFF) := by
  simp [validFrame, keepaliveKind, sightingKind, BitVec.toNat_eq, and_assoc]

theorem frameValidity : Claims.FrameValidity := by
  intro b0 b1 b2 b3 b4 b5 b6 b7 b8 b9
  rw [validFrame_iff, frameSum_toNat, frameUnit_toNat]
  rfl

/-! ### The judging of a frame -/

/-- A valid frame makes a SILENT port WARMING with its warm-up timer at 0, and leaves any other as it is (R4, R5). -/
theorem heard_eq {x : AntennaPort} {st : PortState} {w : Nat} (hs : x.state = .silent → st = .warming ∧ w = 0)
    (ho : x.state ≠ .silent → st = x.state ∧ w = x.warmUp) : x.heard = { x with state := st, warmUp := w } := by
  unfold AntennaPort.heard
  split
  · obtain ⟨rfl, rfl⟩ := hs ‹_›; rfl
  · obtain ⟨rfl, rfl⟩ := ho ‹_›; rfl

theorem heard_not_silent (x : AntennaPort) : x.heard.state.silentCond = false := by
  unfold AntennaPort.heard
  split
  · rfl
  · rw [silentCond_eq]; exact beq_eq_false_iff_ne.2 ‹_›

/-- A port that does not become SILENT reports that it was, if it was (R10). -/
theorem portBecomes_audible (s : State) (p : Fin 4) {y : AntennaPort} (hy : y.state.silentCond = false) :
    s.portBecomes p y = (s.setPort p y).postChange .ports ⟨.port p, .receiverSilent⟩ (s.ports[p].state == .silent) false := by
  rw [State.portBecomes, hy, silentCond_eq]; rfl

theorem judgeFrame_awake {s : State} {p : Fin 4} {f : List Byte} (hv : validFrame f = true) (hm : s.mode ≠ .dormant) :
    judgeFrame p f s = s.portBecomes p (s.ports[p].accept f) := by
  rw [judgeFrame, if_pos hv]
  cases h : s.mode with
  | dormant => exact absurd h hm
  | recess | session => rfl

theorem judgeFrame_dormant {s : State} {p : Fin 4} {f : List Byte} (hv : validFrame f = true) (hm : s.mode = .dormant) :
    judgeFrame p f s = (wake s).portBecomes p ((wake s).ports[p].heard.answering .wake) := by
  rw [judgeFrame, if_pos hv, hm]

theorem frameIsJudgedAndAnswered : Claims.FrameIsJudgedAndAnswered := by
  intro p b s x st w hr hx he hrx hl hs ho
  subst hx
  generalize hf : s.ports[p].frame ++ [b] = f
  have hdue : s.ports[p].tenthDue = true := by simp [-Fin.getElem_fin, AntennaPort.tenthDue, he, hrx, hl, Config.frameLength]
  have hexec : exec (.frameComplete p b) s = .next (finish (judgeFrame p f s)) := by
    rw [exec_frameComplete, occur_due hr hdue, hf]
  have hst : st.silentCond = false := by
    have h := heard_not_silent s.ports[p]
    rwa [heard_eq hs ho] at h
  rw [hexec]
  refine ⟨fun hv => ?_, fun hv hm hroom => ?_, fun hv hm hfull => ?_, fun hv hm => ?_⟩
  · rw [judgeFrame, hv]; rfl
  · rw [judgeFrame_awake hv hm, accept_of_room hroom, heard_eq hs ho, portBecomes_audible _ _ hst]
  · rw [judgeFrame_awake hv hm, accept_of_full hfull, heard_eq hs ho, portBecomes_audible _ _ hst]
  · have hw : (wake s).ports[p] = { s.ports[p] with silence := 0 } := by rw [wake_ports, AntennaPort.woken, if_pos he]
    have hh : AntennaPort.heard { s.ports[p] with silence := 0 } = { s.ports[p] with silence := 0, state := st, warmUp := w } :=
      heard_eq hs ho
    rw [judgeFrame_dormant hv hm, hw, hh, portBecomes_audible _ _ hst, hw]; rfl

/-- Settles O16: the sum and the kind decide a frame; its judging has one branch for each answer. -/
theorem framesAreJudgedAndAnswered : Obligations.FramesAreJudgedAndAnswered := ⟨frameValidity, frameIsJudgedAndAnswered⟩

/-! ### Closing the pool -/

theorem mem_positions (c : Combiner) (q : PoolEntry → Bool) (i : Fin 12) :
    i ∈ c.positions q ↔ ∃ e : PoolEntry, c.pool[i] = some e ∧ q e = true := by
  simp only [Combiner.positions, List.mem_map, List.mem_insertionSort, List.mem_filterMap, List.mem_finRange, true_and]
  constructor
  · rintro ⟨⟨n, j⟩, ⟨k, hk⟩, rfl⟩
    cases he : c.pool[k] with
    | none => rw [he] at hk; cases hk
    | some e =>
      simp only [he, Option.ite_none_right_eq_some, Option.some.injEq, Prod.mk.injEq] at hk
      obtain ⟨hq, -, rfl⟩ := hk
      exact ⟨e, he, hq⟩
  · rintro ⟨e, he, hq⟩
    exact ⟨(e.entry, i), ⟨i, by simp only [he, hq, if_true]⟩, rfl⟩

/-- Closing the entries at some positions empties these and leaves the others. -/
theorem forList_closeAt_pool (j : Fin 12) (l : List (Fin 12)) (s : State) :
    (forList closeAt l s).combiner.pool[j] = if j ∈ l then none else s.combiner.pool[j] := by
  induction l generalizing s with
  | nil => rfl
  | cons i l ih =>
    show (forList closeAt l (closeAt i s)).combiner.pool[j] = _
    rw [ih, closeAt_pool]
    by_cases hj : j ∈ l <;> simp [-Fin.getElem_fin, hj, eq_comm]

/-- With no port receiving every open entry is covered, so a re-check closes them all (R32). -/
theorem recheckCoverage_noneReceiving {s : State} (h : ∀ p : Fin 4, s.ports[p].state.receiving = false) (i : Fin 12) :
    (recheckCoverage s).combiner.pool[i] = none := by
  rw [recheckCoverage, forList_closeAt_pool]
  have hcov : ∀ e, s.covered e = true := fun e => by
    simp only [State.covered, h, Bool.not_false, Bool.true_or, List.all_eq_true, implies_true]
  cases hi : s.combiner.pool[i] with
  | none => split <;> rfl
  | some e => rw [if_pos ((mem_positions _ _ _).2 ⟨e, hi, hcov e⟩)]

/-! ### ENABLE_PORT and READ_PORT -/

theorem portNumber_some {b : Byte} {p : Fin 4} (h : b.toNat = p.1) : portNumber b = some p := by
  rw [portNumber, dif_pos (h ▸ p.2)]
  exact congrArg some (Fin.ext h)

theorem portNumber_none {b : Byte} (h : 4 ≤ b.toNat) : portNumber b = none := dif_neg (not_lt.2 h)

/-- A command that refuses or only reads is answered and nothing else. -/
theorem onlyAnswers_of {i : Instr} {s : State} {body : State → Handling} {r : Reply} (hs : Ready s)
    (he : exec i s = runCommand i body s) (hb : body s = .answered s r) : OnlyAnswers i s r := by
  rw [OnlyAnswers, he, runCommand_ready hs, hb]; rfl

theorem brings_of {i : Instr} {s s' : State} {body : State → Handling} {r : Reply} (hs : Ready s)
    (he : exec i s = runCommand i body s) (hb : body s = .acted s' r) : Brings i s s' r := by
  rw [Brings, he, runCommand_ready hs, hb]; rfl

theorem portNumbersAreChecked {b : Byte} (v : Byte) {s : State} (hs : Ready s) (h : 4 ≤ b.toNat) :
    OnlyAnswers (.enablePortOn b) s ⟨.badArg, []⟩ ∧ OnlyAnswers (.enablePortOff b v) s ⟨.badArg, []⟩ ∧
      OnlyAnswers (.readPort b) s ⟨.badArg, List.replicate 8 0⟩ := by
  have hp := portNumber_none h
  exact ⟨onlyAnswers_of hs (exec_enablePortOn b s) (by rw [enablePortOnBody, hp]; rfl),
    onlyAnswers_of hs (exec_enablePortOff b v s) (by rw [enablePortOffBody, hp]; rfl),
    onlyAnswers_of hs (exec_readPort b s) (by rw [readPortBody, hp]; rfl)⟩

/-- Turning an OFF port on changes no RECEIVER_SILENT condition (R12). -/
theorem portBecomes_turnedOn {s : State} {p : Fin 4} (h : s.ports[p].state = .off) :
    s.portBecomes p s.ports[p].turnedOn = s.setPort p s.ports[p].turnedOn := by
  rw [State.portBecomes, h]
  exact State.postChange_same _ _ _ _

/-- What turning a port off leaves of the ports: the others as they were, and the port OFF. -/
theorem portBecomes_ports (s : State) (p q : Fin 4) (x : AntennaPort) :
    (s.portBecomes p x).ports[q] = if p = q then x else s.ports[q] := by
  rw [State.portBecomes, State.postChange_ports, State.setPort_ports, setAt_get]

theorem not_receiving_iff (x : PortState) : x.receiving = false ↔ x = .off ∨ x = .silent := by
  cases x <;> decide

theorem receiving_iff (x : PortState) : x.receiving = true ↔ x = .warming ∨ x = .up := by
  cases x <;> decide

theorem enablePortOffBody_disables {b : Byte} {s : State} {p : Fin 4} (hp : portNumber b = some p) (he : s.ports[p].enabled = true) :
    enablePortOffBody b 0 s = .acted (disablePort p s) (okReply []) := by
  rw [enablePortOffBody, hp]
  simp only [ne_eq, not_true_eq_false, if_false, he, if_true]

/-- The re-check after a port has been turned off, by what the other ports are (R13, R32). -/
theorem disabledPortsAreRechecked {b : Byte} {s : State} {p : Fin 4} (hs : Ready s) (hp : portNumber b = some p)
    (he : s.ports[p].enabled = true) {s' : State} (hs' : s' = s.portBecomes p s.ports[p].turnedOff) :
    (s.ports[p].state = .warming ∨ s.ports[p].state = .up →
      ((∃ q : Fin 4, q ≠ p ∧ (s.ports[q].state = .warming ∨ s.ports[q].state = .up)) →
        Brings (.enablePortOff b 0) s (recheckCoverage s') ⟨.ok, []⟩) ∧
      ((∀ q : Fin 4, q ≠ p → s.ports[q].state = .off ∨ s.ports[q].state = .silent) →
        Brings (.enablePortOff b 0) s (if Config.lastPortLeavesWindows then s' else recheckCoverage s') ⟨.ok, []⟩ ∧
        s'.combiner.pool = s.combiner.pool ∧ ∀ i : Fin 12, (recheckCoverage s').combiner.pool[i] = none)) ∧
    (s.ports[p].state = .silent ∨ s.ports[p].state = .off → Brings (.enablePortOff b 0) s s' ⟨.ok, []⟩) := by
  have hbrings : Brings (.enablePortOff b 0) s (recheckAfterDisable s.ports[p].state s') ⟨.ok, []⟩ :=
    brings_of hs (exec_enablePortOff b 0 s) (by rw [enablePortOffBody_disables hp he, disablePort, hs']; rfl)
  have hports : ∀ q : Fin 4, s'.ports[q] = if p = q then s.ports[p].turnedOff else s.ports[q] :=
    fun q => by rw [hs', portBecomes_ports]
  obtain ⟨hstays, hone, hnone⟩ := recheckAfterDisable_eq s.ports[p].state s'
  refine ⟨fun hrec => ⟨fun ⟨q, hqp, hq⟩ => ?_, fun hothers => ?_⟩, fun hnot => ?_⟩
  · have hq' : s'.ports[q].state.receiving = true := by rw [hports, if_neg hqp.symm]; exact (receiving_iff _).2 hq
    rwa [← hone ((receiving_iff _).2 hrec) ⟨q, hq'⟩]
  · have hall : ∀ q : Fin 4, s'.ports[q].state.receiving = false := fun q => by
      rw [hports]
      split
      · rfl
      · exact (not_receiving_iff _).2 (hothers q (Ne.symm ‹_›))
    refine ⟨?_, ?_, recheckCoverage_noneReceiving hall⟩
    · rwa [← hnone ((receiving_iff _).2 hrec) hall]
    · rw [hs', State.portBecomes, State.postChange_combiner]; rfl
  · rwa [hstays ((not_receiving_iff _).2 hnot.symm)] at hbrings

/-- Settles O19, by the branches of the three commands. -/
theorem portsAreEnabledDisabledAndRead : Obligations.PortsAreEnabledDisabledAndRead := by
  intro b v s hs
  refine ⟨portNumbersAreChecked v hs, fun p hb => ?_⟩
  have hp := portNumber_some hb
  refine ⟨fun hv => ?_, fun he => ?_, fun he => ?_, fun he ho => ?_, fun he s' hs' => ?_, ?_⟩
  · exact onlyAnswers_of hs (exec_enablePortOff b v s) (by simp only [enablePortOffBody, hp, hv, ne_eq, not_false_eq_true, if_true]; rfl)
  · exact onlyAnswers_of hs (exec_enablePortOn b s) (by simp only [enablePortOnBody, hp, he, if_true]; rfl)
  · exact onlyAnswers_of hs (exec_enablePortOff b 0 s) (by
      simp only [enablePortOffBody, hp, he, ne_eq, not_true_eq_false, if_false, Bool.false_eq_true]; rfl)
  · refine brings_of hs (exec_enablePortOn b s) ?_
    simp only [enablePortOnBody, hp, he, Bool.false_eq_true, if_false]
    rw [portBecomes_turnedOn ho]; rfl
  · exact disabledPortsAreRechecked hs hp he (hs'.trans (portBecomes_audible s p rfl).symm)
  · rw [exec_readPort, runCommand_ready hs, readPortBody, hp]; rfl

end Sys2Proof.Machine
end

section
/-! PROOFS. The tuning items that act at once (O36): the port silence time, the lost time and the hot delay. -/

namespace Sys2Proof.Machine

/-! ### Stored values -/

/-- A value clamped and rounded down to a step is the clamped value's whole steps (R172). -/
theorem adjustValue_eq {lo hi : Int} (h : lo ≤ hi) (step v : Int) : adjustValue lo hi step v = max lo (min hi v) / step * step := by
  rw [adjustValue, clampInt_eq h]
  have := Int.mul_ediv_add_emod (max lo (min hi v)) step
  rw [mul_comm] at this
  omega

theorem storedValue_eq (v : BitVec 32) (x : Int) :
    storedValue v x = ⟨if x = v.toInt then .ok else .adjusted, bytesOfValue (BitVec.ofInt 32 x)⟩ := by
  unfold storedValue storedReply
  by_cases h : x = v.toInt <;> simp [h]

/-! ### The port silence time -/

theorem silenceTimeActsAtOnce : Claims.SilenceTimeActsAtOnce := by
  intro v x r s hs hx hr
  have hadj : adjustValue 500 10000 100 v.toInt = x := by rw [adjustValue_eq (by decide), hx]
  have hrep : storedValue v x = r := by rw [storedValue_eq, hr]
  refine ⟨fun hsame => ?_, fun hne due s' hdue hs' => ?_⟩
  · refine onlyAnswers_of hs (exec_setPortSilenceTime v s) ?_
    simp only [setPortSilenceTimeBody, hadj, if_pos hsame, hrep]
  · obtain ⟨t, ht, hj⟩ := judgeSilence_eq (s.setTuning { s.tuning with silenceTime := x.toNat })
    have hlist : silenceJudged (s.setTuning { s.tuning with silenceTime := x.toNat }) = due := by
      rw [hdue]
      refine List.filter_congr fun p _ => ?_
      rw [Bool.eq_iff_iff, decide_eq_true_iff]
      exact silenceDue_iff _ _
    have hts : t = s' := by rw [ht, hlist, hs']; rfl
    refine brings_of hs (exec_setPortSilenceTime v s) ?_
    simp only [setPortSilenceTimeBody, hadj, if_neg hne, hrep]
    rw [hj, hlist, hts]

/-! ### The judgement of an entry's age -/

theorem judgeAge_empty {s : State} {n : Fin 200} (h : s.roster[n] = none) : judgeAge n s = s := by
  rw [judgeAge, h]

/-- An entry as a loss leaves it (R53, R90). -/
def Entry.lost (e : Entry) : Entry := { e with presence := .lost, signal := Signal.absent }

/-- The reports of a loss: the link always, and a weak signal where it was reported (R56, R90). -/
def lossReports (n : Fin 200) (e : Entry) (s : State) : State :=
  ((s.setSlot n (some e.lost)).postChange .roster ⟨.entry n, .sigLost⟩ false (s.mode == .session)).postChange .signal
    ⟨.entry n, .sigWeak⟩ (s.mode == .session && e.signal.level == .poor) false

/-- A present entry past the lost time becomes LOST (R51, R53). -/
theorem judgeAge_lost {s : State} {n : Fin 200} {e : Entry} (he : s.roster[n] = some e) (h : lostDue s.tuning.lostTime e = true) :
    judgeAge n s = floorTakes n (lossReports n e s) := by
  have hpres : (e.presence == .lost) = false := by
    rcases ((lostDue_iff _ _).1 h).1 with hp | hp <;> rw [hp] <;> rfl
  have hold : sigLostCond s.mode e = false := by rw [sigLostCond, hpres, Bool.and_false]
  have hnew : sigLostCond s.mode e.lost = (s.mode == .session) := Bool.and_true _
  have hweak : sigWeakCond s.mode e.lost = false := Bool.and_false _
  simp only [judgeAge, he, h, if_true, loseEntry]
  show floorTakes n (State.postChange (State.postChange _ _ _ (sigLostCond s.mode e) (sigLostCond s.mode e.lost)) _ _
    (sigWeakCond (State.postChange _ _ _ _ _).mode e) (sigWeakCond (State.postChange _ _ _ _ _).mode e.lost)) = _
  rw [State.postChange_mode, State.setSlot_mode, hold, hnew, hweak]
  rfl

theorem judgeAge_fading {s : State} {n : Fin 200} {e : Entry} (he : s.roster[n] = some e) (hl : lostDue s.tuning.lostTime e = false)
    (hf : fadingDue s.tuning.lostTime e = true) : judgeAge n s = floorTakes n (s.setSlot n (some { e with presence := .fading })) := by
  simp only [judgeAge, he, hl, hf, if_true, Bool.false_eq_true, if_false, fadeEntry]

theorem judgeAge_keeps {s : State} {n : Fin 200} {e : Entry} (he : s.roster[n] = some e) (hl : lostDue s.tuning.lostTime e = false)
    (hf : fadingDue s.tuning.lostTime e = false) : judgeAge n s = s := by
  simp only [judgeAge, he, hl, hf, Bool.false_eq_true, if_false]

theorem not_lostDue {t : Nat} {e : Entry} (h : e.presence = .live ∨ e.presence = .fading → e.age ≤ t) : lostDue t e = false := by
  rw [Bool.eq_false_iff, Ne, lostDue_iff]
  rintro ⟨hp, hlt⟩
  exact absurd (h hp) (not_le.2 hlt)

theorem not_fadingDue {t : Nat} {e : Entry} (h : e.presence ≠ .live ∨ ∀ i : BeaconInterval, e.interval = some i →
    e.age ≤ 3 * (if i = .fast then 100 else 500) ∨ t ≤ 3 * (if i = .fast then 100 else 500)) : fadingDue t e = false := by
  rw [Bool.eq_false_iff, Ne, fadingDue_iff]
  rintro ⟨b, hp, hi, hage, ht⟩
  rcases h with h | h
  · exact h hp
  · have := h b hi
    omega

theorem entryIsJudged : Claims.EntryIsJudged := by
  intro s n
  refine ⟨judgeAge_empty, fun e he => ⟨fun hp hage => ?_, fun i hp hi hage h3 hlost => ?_, fun hage hno => ?_, fun hp hage => ?_,
    fun hl hf => ?_⟩⟩
  · exact judgeAge_lost he ((lostDue_iff _ _).2 ⟨hp, hage⟩)
  · exact judgeAge_fading he (not_lostDue fun _ => hage) ((fadingDue_iff _ _).2 ⟨i, hp, hi, h3, hlost⟩)
  · exact judgeAge_keeps he (not_lostDue fun _ => hage) (not_fadingDue (.inr hno))
  · exact judgeAge_keeps he (not_lostDue fun _ => hage) (not_fadingDue (.inl (by rw [hp]; decide)))
  · exact judgeAge_keeps he (not_lostDue fun h => absurd h (by simp [hl, hf])) (not_fadingDue (.inl hl))

/-! ### The hot delay -/

/-- An entry whose running hot-mic timer counts as reached once it stands at the delay (R107). -/
def Entry.heatedBy (delay : Nat) (e : Entry) : Entry :=
  { e with hot := e.hot.map fun h => ⟨h.elapsed, h.reached || decide (delay ≤ h.elapsed)⟩ }

/-- The report of a hot-mic timer that a new delay reaches (R107). -/
def heatReports (delay : Nat) (n : Fin 200) (x : Option Entry) : List Posted :=
  match x with
  | some e => (match e.hot with
    | some h => if h.reached = false ∧ delay ≤ h.elapsed then [⟨.floor, .report ⟨.entry n, .hotMic⟩ true⟩] else []
    | none => [])
  | none => []

theorem heatedBy_of_not_due {delay : Nat} {x : Option Entry} (h : hotDue delay x = false) : x.map (Entry.heatedBy delay) = x := by
  cases x with
  | none => rfl
  | some e =>
    obtain ⟨_, _, _, _, _, _, _, _, _, _, _, _, _, hot⟩ := e
    cases hot with
    | none => rfl
    | some t =>
      obtain ⟨el, re⟩ := t
      simp only [hotDue, Bool.and_eq_false_iff, decide_eq_false_iff_not, Bool.not_eq_false'] at h
      simp only [Option.map_some, Entry.heatedBy, Option.some.injEq, Entry.mk.injEq, HotTimer.mk.injEq, true_and]
      rcases h with h | h <;> simp [h]

theorem heatReports_of_not_due {delay : Nat} {x : Option Entry} (h : hotDue delay x = false) (n : Fin 200) : heatReports delay n x = [] := by
  cases x with
  | none => rfl
  | some e =>
    cases ht : e.hot with
    | none => simp only [heatReports, ht]
    | some t =>
      have hno : ¬(t.reached = false ∧ delay ≤ t.elapsed) := fun ⟨hr, hle⟩ => by
        rw [(hotDue_iff _ _).2 ⟨e, t, rfl, ht, hle, hr⟩] at h; cases h
      simp only [heatReports, ht, if_neg hno]

/-- One entry judged against a new hot delay (R107). -/
theorem judgeHot_eq (n : Fin 200) (s : State) : judgeHot n s = { s with
    roster := setAt s.roster n (s.roster[n].map (Entry.heatedBy s.tuning.hotDelay))
    engine := { s.engine with posted := s.engine.posted ++ heatReports s.tuning.hotDelay n s.roster[n] } } := by
  rw [judgeHot]
  cases hd : hotDue s.tuning.hotDelay s.roster[n] with
  | false => rw [heatedBy_of_not_due hd, heatReports_of_not_due hd, setAt_same, List.append_nil]; rfl
  | true =>
    obtain ⟨e, t, he, ht, hle, hr⟩ := (hotDue_iff _ _).1 hd
    have hrep : heatReports s.tuning.hotDelay n s.roster[n] = [⟨.floor, .report ⟨.entry n, .hotMic⟩ true⟩] := by
      simp only [heatReports, he, ht]; exact if_pos ⟨hr, hle⟩
    have hheat : s.roster[n].map (Entry.heatedBy s.tuning.hotDelay) = some { e with hot := some { t with reached := true } } := by
      rw [he]; simp [Entry.heatedBy, ht, hle]
    rw [hrep, hheat]
    simp only [if_true, hotReached, he, ht, hr]
    rfl

/-- Entries judged one after another, each once: the timers that have reached the delay count as reached, reported in their order. -/
theorem forList_judgeHot {l : List (Fin 200)} (hl : l.Nodup) (s : State) : forList judgeHot l s = { s with
    roster := mapTable s.roster fun n y => if n ∈ l then y.map (Entry.heatedBy s.tuning.hotDelay) else y
    engine := { s.engine with posted := s.engine.posted ++ l.flatMap fun n => heatReports s.tuning.hotDelay n s.roster[n] } } := by
  induction l generalizing s with
  | nil =>
    have h : (mapTable s.roster fun n y => if n ∈ ([] : List (Fin 200)) then y.map (Entry.heatedBy s.tuning.hotDelay) else y) = s.roster :=
      table_ext fun n => by simp only [mapTable_get, List.not_mem_nil, if_false]
    rw [h, List.flatMap_nil, List.append_nil]; rfl
  | cons n l ih =>
    obtain ⟨hn, hl⟩ := List.nodup_cons.1 hl
    have hroster : (mapTable (judgeHot n s).roster fun m y => if m ∈ l then y.map (Entry.heatedBy s.tuning.hotDelay) else y) =
        mapTable s.roster fun m y => if m ∈ n :: l then y.map (Entry.heatedBy s.tuning.hotDelay) else y := by
      refine table_ext fun m => ?_
      rw [judgeHot_eq, mapTable_get, mapTable_get, setAt_get]
      by_cases e : n = m
      · subst e; simp only [hn, if_false, if_true, List.mem_cons, true_or]
      · simp only [List.mem_cons, Ne.symm e, false_or, if_neg e]
    have hreports : (l.flatMap fun m => heatReports s.tuning.hotDelay m (judgeHot n s).roster[m]) =
        l.flatMap fun m => heatReports s.tuning.hotDelay m s.roster[m] := by
      refine List.flatMap_congr fun m hm => ?_
      rw [judgeHot_eq, setAt_get_ne _ fun e => hn (by rw [e]; exact hm)]
    have htuning : (judgeHot n s).tuning = s.tuning := by rw [judgeHot_eq]
    have hposted : (judgeHot n s).engine.posted = s.engine.posted ++ heatReports s.tuning.hotDelay n s.roster[n] := by rw [judgeHot_eq]
    show forList judgeHot l (judgeHot n s) = _
    rw [ih hl, htuning, hroster, hreports, hposted, List.append_assoc, List.flatMap_cons, judgeHot_eq]

theorem forEach_eq_forList {n : Nat} (f : Fin n → State → State) (s : State) : forEach f s = forList f (List.finRange n) s := rfl

theorem hotDelayActsAtOnce : Claims.HotDelayActsAtOnce := by
  intro v x r s hs hx hr
  have hadj : adjustValue 0 5000 100 v.toInt = x := by rw [adjustValue_eq (by decide), hx]
  have hrep : storedValue v x = r := by rw [storedValue_eq, hr]
  refine brings_of hs (exec_setHotDelay v s) ?_
  simp only [setHotDelayBody, hadj, hrep, forEach_eq_forList, forList_judgeHot (List.nodup_finRange 200), List.mem_finRange, if_true]
  rfl

end Sys2Proof.Machine
end

section
/-! PROOFS. The lost time (O36): what the floor arbiter leaves of an entry, what the judgement of one entry does to itself and to the
others, and the judgement of all in turn. -/

namespace Sys2Proof.Machine

/-! ### What the floor arbiter leaves of an entry -/

/-- An entry holds a slot, live or held (R94). -/
def Floor.Slotted (f : Floor) (n : Fin 200) : Prop :=
  (∃ (k : Fin 6) (x : LiveSlot), f.live[k] = some x ∧ x.holder = n) ∨ ∃ k : Fin 6, f.held[k] = some n

theorem not_slotted {f : Floor} {n : Fin 200} (hl : f.liveSlotOf n = none) (hh : f.heldSlotOf n = none) : ¬ f.Slotted n := by
  rintro (⟨k, x, hk, hx⟩ | ⟨k, hk⟩)
  · have := firstIndex_eq_none.1 hl k
    rw [Floor.liveHolder, hk, Option.map_some, hx, beq_self_eq_true] at this
    cases this
  · have := firstIndex_eq_none.1 hh k
    rw [hk, beq_self_eq_true] at this
    cases this

/-- The hot-mic timers that an entry may have after it has been derived afresh: its own, none, or one that has just started (R106). -/
def TimerAfter (delay : Nat) (old new : Option HotTimer) : Prop := new = old ∨ new = none ∨ new = some ⟨0, delay == 0⟩

theorem TimerAfter.refl (d : Nat) (h : Option HotTimer) : TimerAfter d h h := .inl rfl

theorem TimerAfter.trans {d : Nat} {a b c : Option HotTimer} (h₁ : TimerAfter d a b) (h₂ : TimerAfter d b c) : TimerAfter d a c := by
  rcases h₂ with rfl | h | h
  · exact h₁
  · exact .inr (.inl h)
  · exact .inr (.inr h)

/-- What befalls one entry beside a judgement of another: its hot-mic timer may be derived afresh, and it starts for no entry whose
talk key is off or that is absent. -/
def TimerMove (delay : Nat) (a b : Option Entry) : Prop :=
  b = a ∨ ∃ (e : Entry) (h : Option HotTimer), a = some e ∧ b = some { e with hot := h } ∧ TimerAfter delay e.hot h ∧
    (e.keyOn = false → e.hot = none → h = none)

theorem TimerMove.entry {d : Nat} {e : Entry} {b : Option Entry} (h : TimerMove d (some e) b) : ∃ x : Option HotTimer,
    b = some { e with hot := x } ∧ TimerAfter d e.hot x ∧ (e.keyOn = false → e.hot = none → x = none) := by
  rcases h with rfl | ⟨e', x, he, hb, hx, hk⟩
  · exact ⟨e.hot, rfl, .refl _ _, fun _ h => h⟩
  · cases he; exact ⟨x, hb, hx, hk⟩

theorem TimerMove.trans {d : Nat} {a b c : Option Entry} (h₁ : TimerMove d a b) (h₂ : TimerMove d b c) : TimerMove d a c := by
  rcases h₁ with rfl | ⟨e, x, rfl, rfl, hx, hk⟩
  · exact h₂
  · obtain ⟨y, rfl, hy, hk'⟩ := h₂.entry
    exact .inr ⟨e, y, rfl, rfl, hx.trans hy, fun hkey h => hk' hkey (hk hkey h)⟩

/-- All that an operation of the floor arbiter does which derives afresh only entries of a set: slots pass between holders at no time,
entries outside the set stay, and only the floor arbiter reports. -/
structure FloorActs (P : Fin 200 → Prop) (s t : State) : Prop where
  step : FloorStep s t
  slots : ∀ n, t.floor.Slotted n → s.floor.Slotted n
  apart : ∀ n : Fin 200, ¬ P n → t.roster[n] = s.roster[n]
  timer : ∀ n : Fin 200, TimerMove s.tuning.hotDelay s.roster[n] t.roster[n]
  posted : ∀ q : Posted, q.block ≠ .floor → (q ∈ t.engine.posted ↔ q ∈ s.engine.posted)

section
variable {P Q : Fin 200 → Prop} {s t u : State}

theorem FloorActs.refl (P : Fin 200 → Prop) (s : State) : FloorActs P s s :=
  ⟨.refl s, fun _ h => h, fun _ _ => rfl, fun _ => .inl rfl, fun _ _ => .rfl⟩

theorem FloorActs.trans (h₁ : FloorActs P s t) (h₂ : FloorActs P t u) : FloorActs P s u where
  step := h₁.step.trans h₂.step
  slots n h := h₁.slots n (h₂.slots n h)
  apart n h := (h₂.apart n h).trans (h₁.apart n h)
  timer n := (h₁.timer n).trans (by have := h₂.timer n; rwa [h₁.step.tuning] at this)
  posted q hq := (h₂.posted q hq).trans (h₁.posted q hq)

theorem FloorActs.mono (h : FloorActs P s t) (hPQ : ∀ n, P n → Q n) : FloorActs Q s t :=
  { h with apart := fun n hn => h.apart n fun hp => hn (hPQ n hp) }

/-- An operation on the slots and the cause alone. -/
theorem FloorActs.of_slots (h : FloorStep s t) (hslots : ∀ n, t.floor.Slotted n → s.floor.Slotted n) (hr : t.roster = s.roster)
    (he : t.engine = s.engine) : FloorActs P s t where
  step := h
  slots := hslots
  apart n _ := by rw [hr]
  timer n := by rw [hr]; exact .inl rfl
  posted q _ := by rw [he]

theorem FloorActs.forList {α : Type} {f : α → State → State} {l : List α} (hf : ∀ a ∈ l, ∀ t, FloorActs P t (f a t)) (s : State) :
    FloorActs P s (forList f l s) :=
  forList_induct (P := FloorActs P s) l s (.refl P s) fun a ha t ht => ht.trans (hf a ha t)

end

/-- A report of the floor arbiter. -/
theorem postChange_floorActs (P : Fin 200 → Prop) (s : State) (id : WarnId) (old new : Bool) :
    FloorActs P s (s.postChange .floor id old new) where
  step := .postChange _ _ _ _ _
  slots n h := by rwa [State.postChange_floor] at h
  apart n _ := by rw [State.postChange_roster]
  timer n := by rw [State.postChange_roster]; exact .inl rfl
  posted q hq := by
    unfold State.postChange
    split
    · exact .rfl
    · rw [State.post, List.mem_append, List.mem_singleton]
      exact or_iff_left fun e => hq (by rw [e])

/-- A live slot that keeps its holder. -/
theorem setLive_floorActs {P : Fin 200 → Prop} {s : State} {k : Fin 6} {x y : LiveSlot} (hx : s.floor.live[k] = some x)
    (hy : y.holder = x.holder) : FloorActs P s (s.setLive k (some y)) := by
  refine .of_slots (.setLive _ _ _) (fun n h => ?_) rfl rfl
  rcases h with ⟨j, z, hj, hz⟩ | h
  · rw [State.setLive_floor, setAt_get] at hj
    by_cases e : k = j
    · rw [if_pos e, Option.some.injEq] at hj
      exact .inl ⟨k, x, hx, by rw [← hz, ← hj, hy]⟩
    · rw [if_neg e] at hj
      exact .inl ⟨j, z, hj, hz⟩
  · exact .inr h

theorem deriveSlot_floorActs (P : Fin 200 → Prop) (n : Fin 200) (s : State) : FloorActs P s (deriveSlot n s) := by
  unfold deriveSlot
  split
  · exact .refl P s
  · split
    · exact .refl P s
    · rename_i k x hx
      split
      · exact (setLive_floorActs (y := { x with timer := s.tuning.silentTime, speaking := true, expired := false }) hx rfl).trans
          (postChange_floorActs P _ _ _ _)
      · exact setLive_floorActs hx rfl

/-- An entry whose hot-mic timer is derived afresh. -/
theorem setHot_floorActs {s : State} {n : Fin 200} {e : Entry} (he : s.roster[n] = some e) {h : Option HotTimer}
    (ha : TimerAfter s.tuning.hotDelay e.hot h) (hk : e.keyOn = false → e.hot = none → h = none) :
    FloorActs (· = n) s (s.setSlot n (some { e with hot := h })) where
  step := .setHot s he h
  slots m hm := hm
  apart m hm := by rw [State.setSlot_roster, setAt_get_ne _ (Ne.symm hm)]
  timer m := by
    by_cases hm : n = m
    · subst hm
      rw [State.setSlot_roster, setAt_get_same, he]
      exact .inr ⟨e, h, rfl, rfl, ha, hk⟩
    · rw [State.setSlot_roster, setAt_get_ne _ hm]; exact .inl rfl
  posted _ _ := .rfl

theorem hotTerms_keyOn {s : State} {n : Fin 200} {e : Entry} (h : s.hotTerms n e = true) : e.keyOn = true := by
  simp only [State.hotTerms, Bool.and_eq_true] at h
  obtain ⟨⟨⟨⟨hk, -⟩, -⟩, -⟩, -⟩ := h
  exact hk

theorem deriveHot_floorActs (n : Fin 200) (s : State) : FloorActs (· = n) s (deriveHot n s) := by
  unfold deriveHot
  split
  · exact .refl _ s
  · rename_i e he
    split
    · rename_i _ ht
      exact (setHot_floorActs he (.inr (.inr rfl)) fun hk => absurd (hotTerms_keyOn ht) (by rw [hk]; nofun)).trans
        (postChange_floorActs _ _ _ _ _)
    · exact (setHot_floorActs he (.inr (.inl rfl)) fun _ _ => rfl).trans (postChange_floorActs _ _ _ _ _)
    · exact .refl _ s
    · exact .refl _ s

theorem derive_floorActs (n : Fin 200) (s : State) : FloorActs (· = n) s (derive n s) :=
  (deriveSlot_floorActs _ n s).trans (deriveHot_floorActs n _)

theorem mem_liveByHolder {f : Floor} {x : LiveSlot} (h : x ∈ f.liveByHolder) : f.Slotted x.holder := by
  simp only [Floor.liveByHolder, List.mem_insertionSort, List.mem_filterMap] at h
  obtain ⟨k, -, hk⟩ := h
  exact .inl ⟨k, x, hk, rfl⟩

theorem mem_heldByHolder {f : Floor} {n : Fin 200} (h : n ∈ f.heldByHolder) : f.Slotted n := by
  simp only [Floor.heldByHolder, List.mem_insertionSort, List.mem_filterMap] at h
  obtain ⟨k, -, hk⟩ := h
  exact .inr ⟨k, hk⟩

theorem moveToHeld_floorActs (s : State) : FloorActs s.floor.Slotted s (moveToHeld s) := by
  refine FloorActs.trans ?_ (FloorActs.forList (fun x hx t => ?_) _)
  · refine .of_slots (.slots s _ _ s.floor.cause) (fun n h => ?_) rfl rfl
    rcases h with ⟨k, x, hk, -⟩ | ⟨k, hk⟩
    · rw [Fin.getElem_fin, Vector.getElem_replicate] at hk; cases hk
    · rw [mapTable_get] at hk
      split at hk
      · rename_i x hx
        exact .inl ⟨k, x, hx, Option.some.inj hk⟩
      · exact .inr ⟨k, hk⟩
  · exact (postChange_floorActs _ _ _ _ _).trans ((derive_floorActs _ _).mono fun n hn => hn ▸ mem_liveByHolder hx)

theorem moveBack_floorActs (s : State) : FloorActs s.floor.Slotted s (moveBack s) := by
  refine FloorActs.trans ?_ (FloorActs.forList (fun m hm t => ?_) _)
  · refine .of_slots (.slots s _ _ s.floor.cause) (fun n h => ?_) rfl rfl
    rcases h with ⟨k, x, hk, hx⟩ | ⟨k, hk⟩
    · rw [mapTable_get] at hk
      split at hk
      · rename_i m hm
        rw [← Option.some.inj hk] at hx
        exact .inr ⟨k, hx ▸ hm⟩
      · exact .inl ⟨k, x, hk, hx⟩
    · rw [Fin.getElem_fin, Vector.getElem_replicate] at hk; cases hk
  · exact (derive_floorActs _ _).mono fun n hn => hn ▸ mem_heldByHolder hm

theorem setCause_floorActs (P : Fin 200 → Prop) (s : State) (c : Cause) : FloorActs P s (s.setCause c) :=
  .of_slots (.setCause s c) (fun _ h => h) rfl rfl

theorem followClaim_floorActs (s : State) : FloorActs s.floor.Slotted s (followClaim s) := by
  unfold followClaim
  split
  · split
    · exact (moveToHeld_floorActs s).trans (setCause_floorActs _ _ _)
    · exact .refl _ s
  · split
    · exact .refl _ s
    · exact (moveBack_floorActs s).trans (setCause_floorActs _ _ _)
  · exact .refl _ s

/-- The floor arbiter's answer to an entry's new presence: that entry and holders of slots alone are derived afresh (R49, R53). -/
theorem floorTakes_floorActs (n : Fin 200) (s : State) : FloorActs (fun m => m = n ∨ s.floor.Slotted m) s (floorTakes n s) := by
  have hd := derive_floorActs n s
  have hd' : FloorActs (fun m => m = n ∨ s.floor.Slotted m) s (derive n s) := hd.mono fun _ => .inl
  unfold floorTakes
  simp only
  split
  · exact hd'.trans ((followClaim_floorActs _).mono fun m hm => .inr (hd.slots m hm))
  · exact hd'

/-- The hold is the chair's alone: no other entry's presence moves the cause (R109). -/
theorem floorTakes_cause_other {n : Fin 200} {s : State} (h : s.floor.chair ≠ some n) :
    (floorTakes n s).floor.cause = s.floor.cause := by
  have hc : (derive n s).floor.chair ≠ some n := by rwa [(derive_floorStep n s).chair]
  rw [floorTakes, if_neg hc, derive_cause]

/-- A chair whose key is off claims nothing, so a hold of it ends (R109, R111). -/
theorem floorTakes_cause_chair {n : Fin 200} {s : State} {e : Entry} (he : s.roster[n] = some e) (hk : e.keyOn = false)
    (h : s.floor.chair = some n) : (floorTakes n s).floor.cause = if s.floor.cause = .silence then .silence else .none := by
  have hc : (derive n s).floor.chair = some n := by rwa [(derive_floorStep n s).chair]
  have hclaim : (derive n s).chairClaims = false := by
    rw [State.chairClaims, State.chairSpeaking, (derive_floorStep n s).chairKeyOn n e he h, hk]; rfl
  rw [floorTakes, if_pos hc, followClaim, hclaim, derive_cause]
  cases hcause : s.floor.cause with
  | none => exact (derive_cause n s).trans hcause
  | chair => rfl
  | silence => exact (derive_cause n s).trans hcause

/-- An entry whose key is off has no hot-mic timer left once it has been derived afresh (R106). -/
theorem derive_stopsTimer {n : Fin 200} {s : State} {e : Entry} (he : s.roster[n] = some e) (hk : e.keyOn = false) :
    (derive n s).roster[n] = some { e with hot := none } := by
  have hslot : (deriveSlot n s).roster[n] = some e := by
    rw [(deriveSlot_floorActs (fun _ => False) n s).apart n id, he]
  have hterms : ∀ t : State, t.hotTerms n e = false := fun t =>
    Bool.eq_false_iff.2 fun h => by rw [hotTerms_keyOn h] at hk; cases hk
  unfold derive deriveHot
  split
  · rename_i h; rw [hslot] at h; cases h
  · rename_i e' h
    obtain rfl : e = e' := Option.some.inj (hslot.symm.trans h)
    split
    · rename_i ht; rw [hterms] at ht; cases ht
    · rw [State.postChange_roster, State.setSlot_roster, setAt_get_same]
    · rename_i hh _; rw [hslot, ← hh]
    · rename_i ht; rw [hterms] at ht; cases ht

theorem floorTakes_stopsTimer {n : Fin 200} {s : State} {e : Entry} (he : s.roster[n] = some e) (hk : e.keyOn = false) :
    (floorTakes n s).roster[n] = some { e with hot := none } := by
  have hd := derive_stopsTimer he hk
  unfold floorTakes
  simp only
  split
  · have hm := (followClaim_floorActs (derive n s)).timer n
    rw [hd] at hm
    obtain ⟨x, hx, -, hstop⟩ := hm.entry
    rw [hx, hstop hk rfl]
  · exact hd

/-! ### What the judgement of ages leaves -/

/-- All that the judgement of ages can do to a state: entries, slots and cause, posted acts; no entry comes or goes. -/
structure AgeStep (s t : State) : Prop where
  rest : t = { s with roster := t.roster, floor := t.floor, engine := t.engine }
  floor : t.floor = { s.floor with live := t.floor.live, held := t.floor.held, cause := t.floor.cause }
  engine : t.engine = { s.engine with posted := t.engine.posted }
  empty : ∀ n : Fin 200, t.roster[n] = none ↔ s.roster[n] = none

theorem AgeStep.refl (s : State) : AgeStep s s := ⟨rfl, rfl, rfl, fun _ => .rfl⟩

theorem AgeStep.trans {s t u : State} (h₁ : AgeStep s t) (h₂ : AgeStep t u) : AgeStep s u where
  rest := by rw [h₂.rest, h₁.rest]
  floor := by rw [h₂.floor, h₁.floor]
  engine := by rw [h₂.engine, h₁.engine]
  empty n := (h₂.empty n).trans (h₁.empty n)

section
variable {s t : State} (h : AgeStep s t)
include h
theorem AgeStep.tuning : t.tuning = s.tuning := by rw [h.rest]
theorem AgeStep.mode : t.mode = s.mode := by rw [h.rest]
theorem AgeStep.chair : t.floor.chair = s.floor.chair := by rw [h.floor]
end

/-- A judgement of ages with the posted acts put in another order. -/
theorem AgeStep.withPosted {s t : State} (h : AgeStep s t) (l : List Posted) : { t with engine := { t.engine with posted := l } } =
    { s with
      roster := t.roster
      floor := { s.floor with live := t.floor.live, held := t.floor.held, cause := t.floor.cause }
      engine := { s.engine with posted := l } } := by
  have hrest : { t with engine := { t.engine with posted := l } } =
      { s with roster := t.roster, floor := t.floor, engine := { t.engine with posted := l } } := by
    conv_lhs => rw [h.rest]
  rw [hrest, ← h.floor, h.engine]

theorem FloorStep.ageStep {s t : State} (h : FloorStep s t) : AgeStep s t := ⟨h.rest, h.floor, h.engine, fun _ => h.empty⟩

/-- An entry replaced by another in its place. -/
theorem AgeStep.setSlot {s : State} {n : Fin 200} {e : Entry} (he : s.roster[n] = some e) (f : Entry) :
    AgeStep s (s.setSlot n (some f)) where
  rest := rfl
  floor := rfl
  engine := rfl
  empty m := by
    rw [State.setSlot_roster, setAt_get]
    split
    · rename_i hm; subst hm; rw [he]; exact ⟨nofun, nofun⟩
    · exact .rfl

theorem lossReports_ageStep {s : State} {n : Fin 200} {e : Entry} (he : s.roster[n] = some e) : AgeStep s (lossReports n e s) :=
  (AgeStep.setSlot he _).trans ((FloorStep.postChange _ _ _ _ _).trans (.postChange _ _ _ _ _)).ageStep

theorem lossReports_roster (n : Fin 200) (e : Entry) (s : State) : (lossReports n e s).roster = setAt s.roster n (some e.lost) := by
  rw [lossReports, State.postChange_roster, State.postChange_roster, State.setSlot_roster]

theorem lossReports_floor (n : Fin 200) (e : Entry) (s : State) : (lossReports n e s).floor = s.floor := by
  rw [lossReports, State.postChange_floor, State.postChange_floor, State.setSlot_floor]

theorem mem_postChange (s : State) (b : Block) (id : WarnId) (old new : Bool) (q : Posted) :
    q ∈ (s.postChange b id old new).engine.posted ↔ q ∈ s.engine.posted ∨ old ≠ new ∧ q = ⟨b, .report id new⟩ := by
  unfold State.postChange
  split
  · rename_i h; simp [h]
  · rename_i h; simp [State.post, h]

/-- What a loss reports (R56, R90). -/
theorem mem_lossReports (n : Fin 200) (e : Entry) (s : State) (q : Posted) : q ∈ (lossReports n e s).engine.posted ↔
    q ∈ s.engine.posted ∨ (s.mode = .session ∧ q = ⟨.roster, .report ⟨.entry n, .sigLost⟩ true⟩) ∨
      (s.mode = .session ∧ e.signal.level = .poor) ∧ q = ⟨.signal, .report ⟨.entry n, .sigWeak⟩ false⟩ := by
  rw [lossReports, mem_postChange, mem_postChange, or_assoc]
  refine or_congr .rfl (or_congr ?_ (and_congr_left' ?_))
  · cases h : s.mode <;> simp
  · cases h : s.mode <;> simp

/-- The three things that the judgement of one entry may do: nothing, a loss, a fading (R51). -/
theorem judgeAge_cases (n : Fin 200) (s : State) :
    (judgeAge n s = s ∧ ∀ e : Entry, s.roster[n] = some e → lostDue s.tuning.lostTime e = false) ∨
    (∃ e : Entry, s.roster[n] = some e ∧ lostDue s.tuning.lostTime e = true ∧ judgeAge n s = floorTakes n (lossReports n e s)) ∨
    ∃ e : Entry, s.roster[n] = some e ∧ lostDue s.tuning.lostTime e = false ∧
      judgeAge n s = floorTakes n (s.setSlot n (some { e with presence := .fading })) := by
  cases he : s.roster[n] with
  | none => exact .inl ⟨judgeAge_empty he, fun _ h => by cases h⟩
  | some e =>
    cases hl : lostDue s.tuning.lostTime e with
    | true => exact .inr (.inl ⟨e, rfl, hl, judgeAge_lost he hl⟩)
    | false =>
      cases hf : fadingDue s.tuning.lostTime e with
      | true => exact .inr (.inr ⟨e, rfl, hl, judgeAge_fading he hl hf⟩)
      | false => exact .inl ⟨judgeAge_keeps he hl hf, fun _ h => by cases h; exact hl⟩

theorem judgeAge_ageStep (n : Fin 200) (s : State) : AgeStep s (judgeAge n s) := by
  rcases judgeAge_cases n s with ⟨h, -⟩ | ⟨e, he, -, h⟩ | ⟨e, he, -, h⟩ <;> rw [h]
  · exact .refl s
  · exact (lossReports_ageStep he).trans (floorTakes_floorStep n _).ageStep
  · exact (AgeStep.setSlot he _).trans (floorTakes_floorStep n _).ageStep

/-! ### The judgement of the other entries -/

/-- What the judgement of other entries does to the entry n: at most its hot-mic timer is derived afresh, and that only where it holds
a slot; the cause stays where it is the chair; nothing of it is reported but by the floor arbiter. -/
structure Beside (n : Fin 200) (s t : State) : Prop where
  step : AgeStep s t
  slots : ∀ m, t.floor.Slotted m → s.floor.Slotted m
  apart : ¬ s.floor.Slotted n → t.roster[n] = s.roster[n]
  timer : TimerMove s.tuning.hotDelay s.roster[n] t.roster[n]
  cause : s.floor.chair = some n → t.floor.cause = s.floor.cause
  posted : ∀ (b : Block) (c : WClass) (v : Bool), b ≠ .floor →
    (⟨b, .report ⟨.entry n, c⟩ v⟩ ∈ t.engine.posted ↔ ⟨b, .report ⟨.entry n, c⟩ v⟩ ∈ s.engine.posted)

theorem Beside.refl (n : Fin 200) (s : State) : Beside n s s :=
  ⟨.refl s, fun _ h => h, fun _ => rfl, .inl rfl, fun _ => rfl, fun _ _ _ _ => .rfl⟩

theorem Beside.trans {n : Fin 200} {s t u : State} (h₁ : Beside n s t) (h₂ : Beside n t u) : Beside n s u where
  step := h₁.step.trans h₂.step
  slots m h := h₁.slots m (h₂.slots m h)
  apart h := (h₂.apart fun ht => h (h₁.slots n ht)).trans (h₁.apart h)
  timer := h₁.timer.trans (by have := h₂.timer; rwa [h₁.step.tuning] at this)
  cause h := (h₂.cause (h₁.step.chair.trans h)).trans (h₁.cause h)
  posted b c v hb := (h₂.posted b c v hb).trans (h₁.posted b c v hb)

/-- The floor arbiter takes up another entry. -/
theorem floorTakes_beside {n m : Fin 200} (hm : m ≠ n) (s : State) : Beside n s (floorTakes m s) := by
  have h := floorTakes_floorActs m s
  exact {
    step := h.step.ageStep
    slots := h.slots
    apart := fun hn => h.apart n fun hp => hp.elim (fun e => hm e.symm) hn
    timer := h.timer n
    cause := fun hc => floorTakes_cause_other fun e => hm (Option.some.inj (e.symm.trans hc))
    posted := fun b c v hb => h.posted _ hb }

theorem setSlot_beside {n m : Fin 200} (hm : m ≠ n) {s : State} {e : Entry} (he : s.roster[m] = some e) (f : Entry) :
    Beside n s (s.setSlot m (some f)) where
  step := .setSlot he f
  slots _ h := h
  apart _ := by rw [State.setSlot_roster, setAt_get_ne _ hm]
  timer := by rw [State.setSlot_roster, setAt_get_ne _ hm]; exact .inl rfl
  cause _ := rfl
  posted _ _ _ _ := .rfl

theorem lossReports_beside {n m : Fin 200} (hm : m ≠ n) {s : State} {e : Entry} (he : s.roster[m] = some e) :
    Beside n s (lossReports m e s) where
  step := lossReports_ageStep he
  slots k h := by rwa [lossReports_floor] at h
  apart _ := by rw [lossReports_roster, setAt_get_ne _ hm]
  timer := by rw [lossReports_roster, setAt_get_ne _ hm]; exact .inl rfl
  cause _ := by rw [lossReports_floor]
  posted b c v _ := by
    rw [mem_lossReports]
    simp only [Posted.mk.injEq, Act.report.injEq, WarnId.mk.injEq, Subject.entry.injEq, Ne.symm hm, false_and, and_false, or_false]

theorem judgeAge_beside {n m : Fin 200} (hm : m ≠ n) (s : State) : Beside n s (judgeAge m s) := by
  rcases judgeAge_cases m s with ⟨h, -⟩ | ⟨e, he, -, h⟩ | ⟨e, he, -, h⟩ <;> rw [h]
  · exact .refl n s
  · exact (lossReports_beside hm he).trans (floorTakes_beside hm _)
  · exact (setSlot_beside hm he _).trans (floorTakes_beside hm _)

/-- In the judgement of all entries each is judged once, with others before it and others after it. -/
theorem forEach_judgeAge (n : Fin 200) (s : State) : ∃ t : State, Beside n s t ∧ Beside n (judgeAge n t) (forEach judgeAge s) := by
  obtain ⟨l, r, hlr⟩ := List.append_of_mem (List.mem_finRange n)
  have hnd := List.nodup_finRange 200
  rw [hlr, List.nodup_middle, List.nodup_cons, List.mem_append, not_or] at hnd
  obtain ⟨⟨hl, hr⟩, -⟩ := hnd
  have others : ∀ (k : List (Fin 200)), n ∉ k → ∀ t : State, Beside n t (forList judgeAge k t) := fun k hk t =>
    forList_induct (P := Beside n t) k t (.refl n t) fun m hm u hu => hu.trans (judgeAge_beside (fun e => hk (by rwa [← e])) u)
  refine ⟨forList judgeAge l s, others l hl s, ?_⟩
  have hsplit : forEach judgeAge s = forList judgeAge r (judgeAge n (forList judgeAge l s)) := by
    rw [forEach_eq_forList, hlr, forList, List.foldl_append, List.foldl_cons]; rfl
  rw [hsplit]
  exact others r hr _

/-! ### The judgement of an entry itself -/

theorem rosterBlock_ne_floor : Block.roster ≠ .floor := by decide

theorem signalBlock_ne_floor : Block.signal ≠ .floor := by decide

/-- What the judgement of an entry reports of it to others than the floor arbiter's own (R56, R90). -/
theorem judgeAge_reports (n : Fin 200) (s : State) :
    (⟨.roster, .report ⟨.entry n, .sigLost⟩ true⟩ ∈ (judgeAge n s).engine.posted ↔
      ⟨.roster, .report ⟨.entry n, .sigLost⟩ true⟩ ∈ s.engine.posted ∨
        s.mode = .session ∧ ∃ e : Entry, s.roster[n] = some e ∧ lostDue s.tuning.lostTime e = true) ∧
    (⟨.signal, .report ⟨.entry n, .sigWeak⟩ false⟩ ∈ (judgeAge n s).engine.posted ↔
      ⟨.signal, .report ⟨.entry n, .sigWeak⟩ false⟩ ∈ s.engine.posted ∨
        s.mode = .session ∧ ∃ e : Entry, s.roster[n] = some e ∧ lostDue s.tuning.lostTime e = true ∧ e.signal.level = .poor) := by
  rcases judgeAge_cases n s with ⟨h, hno⟩ | ⟨e, he, hl, h⟩ | ⟨e, he, hl, h⟩ <;> rw [h]
  · have hnot : ∀ P : Entry → Prop, ¬ ∃ e : Entry, s.roster[n] = some e ∧ lostDue s.tuning.lostTime e = true ∧ P e :=
      fun P ⟨e, he, hd, _⟩ => by rw [hno e he] at hd; cases hd
    refine ⟨(or_iff_left ?_).symm, (or_iff_left fun hp => hnot _ hp.2).symm⟩
    rintro ⟨-, e, he, hd⟩
    exact hnot (fun _ => True) ⟨e, he, hd, trivial⟩
  · have hposts := (floorTakes_floorActs n (lossReports n e s)).posted
    rw [hposts _ rosterBlock_ne_floor, hposts _ signalBlock_ne_floor, mem_lossReports, mem_lossReports]
    simp only [he, Option.some.injEq, exists_eq_left', hl, true_and, Posted.mk.injEq, reduceCtorEq, false_and, and_false, or_false,
      false_or, and_true, and_self]
  · have hposts := (floorTakes_floorActs n (s.setSlot n (some { e with presence := .fading }))).posted
    rw [hposts _ rosterBlock_ne_floor, hposts _ signalBlock_ne_floor]
    simp only [he, Option.some.injEq, exists_eq_left', hl, Bool.false_eq_true, false_and, and_false, or_false, State.setSlot_engine,
      and_self]

/-- A lost entry after its judgement: its signal and its timer gone, and a hold of it ended (R53, R90, R109). -/
theorem judgeAge_of_lost {n : Fin 200} {s : State} {e : Entry} (he : s.roster[n] = some e) (hl : lostDue s.tuning.lostTime e = true) :
    (judgeAge n s).roster[n] = some { e.lost with hot := none } ∧
    (s.floor.chair = some n → (judgeAge n s).floor.cause = if s.floor.cause = .silence then .silence else .none) := by
  have hlost : (lossReports n e s).roster[n] = some e.lost := by rw [lossReports_roster, setAt_get_same]
  have hkey : e.lost.keyOn = false := Bool.and_false _
  rw [judgeAge_lost he hl]
  refine ⟨floorTakes_stopsTimer hlost hkey, fun hc => ?_⟩
  rw [← lossReports_floor n e s] at hc ⊢
  exact floorTakes_cause_chair hlost hkey hc

/-- A fading entry after its judgement (R51). -/
theorem judgeAge_of_fading {n : Fin 200} {s : State} {e : Entry} (he : s.roster[n] = some e)
    (hl : lostDue s.tuning.lostTime e = false) (hf : fadingDue s.tuning.lostTime e = true) : ∃ h : Option HotTimer,
    (judgeAge n s).roster[n] = some { e with presence := .fading, hot := h } ∧ TimerAfter s.tuning.hotDelay e.hot h := by
  rw [judgeAge_fading he hl hf]
  have hm := (floorTakes_floorActs n (s.setSlot n (some { e with presence := .fading }))).timer n
  have hset : (s.setSlot n (some { e with presence := .fading })).roster[n] = some { e with presence := .fading } := setAt_get_same _ _ _
  rw [hset] at hm
  obtain ⟨h, hh, ha, -⟩ := hm.entry
  exact ⟨h, hh, ha⟩

/-! ### The judgement of all entries -/

theorem judgeAges_ageStep (s : State) : AgeStep s (forEach judgeAge s) :=
  forEach_induct (P := AgeStep s) s (.refl s) fun n _ h => h.trans (judgeAge_ageStep n _)

theorem judgeAges_of_lost {n : Fin 200} {s : State} {e : Entry} (he : s.roster[n] = some e) (hl : lostDue s.tuning.lostTime e = true) :
    (forEach judgeAge s).roster[n] = some { e.lost with hot := none } ∧
    (s.floor.chair = some n → (forEach judgeAge s).floor.cause = if s.floor.cause = .silence then .silence else .none) := by
  obtain ⟨t, hbefore, hafter⟩ := forEach_judgeAge n s
  have htimer := hbefore.timer
  rw [he] at htimer
  obtain ⟨h, hh, -, -⟩ := htimer.entry
  obtain ⟨hown, hcause⟩ := judgeAge_of_lost hh (by rw [hbefore.step.tuning]; exact hl)
  constructor
  · have hlast := hafter.timer
    rw [hown] at hlast
    obtain ⟨h', hh', -, hstop⟩ := hlast.entry
    rw [hh', hstop (Bool.and_false _) rfl]; rfl
  · intro hc
    have hct : t.floor.chair = some n := hbefore.step.chair.trans hc
    rw [hafter.cause ((judgeAge_ageStep n t).chair.trans hct), hcause hct, hbefore.cause hc]

theorem judgeAges_of_fading {n : Fin 200} {s : State} {e : Entry} (he : s.roster[n] = some e)
    (hl : lostDue s.tuning.lostTime e = false) (hf : fadingDue s.tuning.lostTime e = true) : ∃ h : Option HotTimer,
    (forEach judgeAge s).roster[n] = some { e with presence := .fading, hot := h } ∧ TimerAfter s.tuning.hotDelay e.hot h := by
  obtain ⟨t, hbefore, hafter⟩ := forEach_judgeAge n s
  have htimer := hbefore.timer
  rw [he] at htimer
  obtain ⟨h₁, hh₁, ha₁, -⟩ := htimer.entry
  have htun := hbefore.step.tuning
  obtain ⟨h₂, hh₂, ha₂⟩ := judgeAge_of_fading hh₁ (by rw [htun]; exact hl) (by rw [htun]; exact hf)
  have hlast := hafter.timer
  rw [hh₂, (judgeAge_ageStep n t).tuning] at hlast
  obtain ⟨h₃, hh₃, ha₃, -⟩ := hlast.entry
  rw [htun] at ha₂ ha₃
  exact ⟨h₃, hh₃, (ha₁.trans ha₂).trans ha₃⟩

theorem judgeAges_of_kept {n : Fin 200} {s : State} {e : Entry} (he : s.roster[n] = some e)
    (hl : lostDue s.tuning.lostTime e = false) (hf : fadingDue s.tuning.lostTime e = false) :
    (∃ h : Option HotTimer, (forEach judgeAge s).roster[n] = some { e with hot := h }) ∧
    (¬ s.floor.Slotted n → (forEach judgeAge s).roster[n] = some e) := by
  obtain ⟨t, hbefore, hafter⟩ := forEach_judgeAge n s
  have htimer := hbefore.timer
  rw [he] at htimer
  obtain ⟨h, hh, -, -⟩ := htimer.entry
  have htun := hbefore.step.tuning
  rw [judgeAge_keeps hh (by rw [htun]; exact hl) (by rw [htun]; exact hf)] at hafter
  have hall := hbefore.trans hafter
  constructor
  · have hmove := hall.timer
    rw [he] at hmove
    obtain ⟨h', hh', -, -⟩ := hmove.entry
    exact ⟨h', hh'⟩
  · exact fun hn => (hall.apart hn).trans he

/-- Whether an entry is past the lost time when its turn comes is what it was before, whatever befell its hot-mic timer. -/
theorem Beside.lostDue_iff {n : Fin 200} {s t : State} (h : Beside n s t) (P : Entry → Prop)
    (hP : ∀ (e : Entry) (x : Option HotTimer), P { e with hot := x } ↔ P e) :
    (∃ e : Entry, t.roster[n] = some e ∧ lostDue t.tuning.lostTime e = true ∧ P e) ↔
      ∃ e : Entry, s.roster[n] = some e ∧ lostDue s.tuning.lostTime e = true ∧ P e := by
  rw [h.step.tuning]
  rcases h.timer with ht | ⟨e, x, hs, ht, -, -⟩
  · rw [ht]
  · simp only [hs, ht, Option.some.injEq, exists_eq_left', hP]
    rfl

/-- What the judgement of all entries reports of one of them to others than the floor arbiter's own, where nothing was posted before. -/
theorem judgeAges_reports (n : Fin 200) {s : State} (hs : s.engine.posted = []) :
    (⟨.roster, .report ⟨.entry n, .sigLost⟩ true⟩ ∈ (forEach judgeAge s).engine.posted ↔
      s.mode = .session ∧ ∃ e : Entry, s.roster[n] = some e ∧ lostDue s.tuning.lostTime e = true ∧ True) ∧
    (⟨.signal, .report ⟨.entry n, .sigWeak⟩ false⟩ ∈ (forEach judgeAge s).engine.posted ↔
      s.mode = .session ∧ ∃ e : Entry, s.roster[n] = some e ∧ lostDue s.tuning.lostTime e = true ∧ e.signal.level = .poor) := by
  obtain ⟨t, hbefore, hafter⟩ := forEach_judgeAge n s
  obtain ⟨hlost, hweak⟩ := judgeAge_reports n t
  have hnone : ∀ q : Posted, q ∉ s.engine.posted := fun q => by rw [hs]; exact List.not_mem_nil
  rw [hafter.posted _ _ _ rosterBlock_ne_floor, hafter.posted _ _ _ signalBlock_ne_floor, hlost, hweak, hbefore.posted _ _ _ rosterBlock_ne_floor,
    hbefore.posted _ _ _ signalBlock_ne_floor,
    hbefore.step.mode, or_iff_right (hnone _), or_iff_right (hnone _), ← hbefore.lostDue_iff _ fun _ _ => .rfl,
    ← hbefore.lostDue_iff (fun e => e.signal.level = .poor) fun _ _ => .rfl]
  simp only [and_true, and_self]

/-! ### SET_TUNING of the lost time -/

theorem lostTimeActsAtOnce : Claims.LostTimeActsAtOnce := by
  intro v x r s hs hx hr
  have hadj : adjustValue 1000 30000 100 v.toInt = x := by rw [adjustValue_eq (by decide), hx]
  have hrep : storedValue v x = r := by rw [storedValue_eq, hr]
  refine ⟨fun hsame => ?_, fun hne w u hw hu => ?_⟩
  · refine onlyAnswers_of hs (exec_setLostTime v s) ?_
    simp only [setLostTimeBody, hadj, if_pos hsame, hrep]
  generalize hs₁ : s.setTuning { s.tuning with lostTime := x.toNat } = s₁
  have hw₁ : w = forEach judgeAge s₁ := by rw [hw, ← hs₁]; unfold forEach State.setTuning; rfl
  have hroster : s₁.roster = s.roster := by rw [← hs₁]; rfl
  have hlost : s₁.tuning.lostTime = x.toNat := by rw [← hs₁]; rfl
  have hhot : s₁.tuning.hotDelay = s.tuning.hotDelay := by rw [← hs₁]; rfl
  have hfloor : s₁.floor = s.floor := by rw [← hs₁]; rfl
  have hengine : s₁.engine = s.engine := by rw [← hs₁]; rfl
  have hmode : s₁.mode = s.mode := by rw [← hs₁]; rfl
  have hur : u.roster = w.roster := by rw [hu]
  have huf : u.floor = w.floor := by rw [hu]
  have hup : ∀ q : Posted, q ∈ u.engine.posted ↔ q ∈ w.engine.posted := fun q => by rw [hu]; exact List.mem_insertionSort _
  have hstep := judgeAges_ageStep s₁
  rw [← hw₁] at hstep
  rw [hur, huf]
  refine ⟨?_, ?_, fun n he => ?_, fun n e he => ⟨fun hp hage => ?_, fun i hp hi hage h3 hx3 => ?_, fun hnf hnl => ?_⟩, fun hposted n => ?_⟩
  · refine brings_of hs (exec_setLostTime v s) ?_
    simp only [setLostTimeBody, hadj, if_neg hne, hrep]
    rw [hs₁, ← hw₁, hu]; rfl
  · rw [hu, hstep.withPosted, ← hs₁]; rfl
  · rw [hstep.empty n, hroster, he]
  · rw [← hroster] at he
    obtain ⟨hent, hcause⟩ := judgeAges_of_lost he (by rw [hlost]; exact (lostDue_iff _ _).2 ⟨hp, hage⟩)
    rw [← hw₁] at hent hcause
    rw [← hfloor]
    exact ⟨hent, hcause⟩
  · rw [← hroster] at he
    obtain ⟨h, hh, ha⟩ := judgeAges_of_fading he (by rw [hlost]; exact not_lostDue fun _ => hage)
      (by rw [hlost]; exact (fadingDue_iff _ _).2 ⟨i, hp, hi, h3, hx3⟩)
    rw [← hw₁] at hh
    rw [hhot] at ha
    exact ⟨h, hh, ha⟩
  · rw [← hroster] at he
    obtain ⟨hent, hsame⟩ := judgeAges_of_kept he (by rw [hlost]; exact not_lostDue hnl) (by rw [hlost]; exact not_fadingDue hnf)
    rw [← hw₁] at hent hsame
    rw [hfloor] at hsame
    exact ⟨hent, fun hl hh => hsame (not_slotted hl hh)⟩
  · obtain ⟨hlostRep, hweakRep⟩ := judgeAges_reports n (hengine ▸ hposted : s₁.engine.posted = [])
    rw [hup, hup, hw₁, hlostRep, hweakRep, hmode, hroster, hlost]
    simp only [lostDue_iff, and_true, and_assoc, and_self]

/-- Settles O36: each of the three items by what its new value does at once. -/
theorem timeLimitsActAtOnce : Obligations.TimeLimitsActAtOnce :=
  ⟨silenceTimeActsAtOnce, entryIsJudged, lostTimeActsAtOnce, hotDelayActsAtOnce⟩

end Sys2Proof.Machine
end

section
/-! PROOFS. The clock and the pool: what a step can do to the open pool entries, to the slots they belong to and to the mode; and that
every step keeps the laws of both (O55). -/

namespace Sys2Proof.Machine

/-! ### Pool entries that are open already -/

/-- A position of the pool opens nothing: it holds the roster entry that it held, with no strength lost, or is empty. -/
def NoNewOpen (a b : Option PoolEntry) : Prop :=
  ∀ f, b = some f → ∃ e, a = some e ∧ f.entry = e.entry ∧ ∀ p : Fin 4, e.strengths[p].isSome → f.strengths[p].isSome

theorem NoNewOpen.refl (a : Option PoolEntry) : NoNewOpen a a := fun f h => ⟨f, h, rfl, fun _ h => h⟩

theorem NoNewOpen.none (a : Option PoolEntry) : NoNewOpen a none := fun _ h => nomatch h

theorem NoNewOpen.trans {a b c : Option PoolEntry} (h₁ : NoNewOpen a b) (h₂ : NoNewOpen b c) : NoNewOpen a c := by
  intro g hg
  obtain ⟨f, hf, hfg, hsf⟩ := h₂ g hg
  obtain ⟨e, he, hef, hse⟩ := h₁ f hf
  exact ⟨e, he, hfg.trans hef, fun p hp => hsf p (hse p hp)⟩

theorem occupied_congr {s : State} {n m : Fin 200} (h : n = m) (hn : s.roster[n].isSome) : s.roster[m].isSome := by
  subst h; exact hn

/-- The laws of the pool go on where nothing opens, no entry with an open pool entry leaves, and the mode does not become DORMANT. -/
theorem PoolLaw.carry {s t : State} (hs : PoolLaw s) (pool : ∀ i : Fin 12, NoNewOpen s.combiner.pool[i] t.combiner.pool[i])
    (roster : ∀ (i : Fin 12) (f : PoolEntry), t.combiner.pool[i] = some f → s.roster[f.entry].isSome → t.roster[f.entry].isSome)
    (mode : t.mode = .dormant → s.mode = .dormant) : PoolLaw t where
  once i j e f he hf h := by
    obtain ⟨e', he', hee, -⟩ := pool i e he
    obtain ⟨f', hf', hff, -⟩ := pool j f hf
    exact hs.once i j e' f' he' hf' (by rw [← hee, ← hff, h])
  enrolled i f hf := by
    obtain ⟨e, he, hfe, -⟩ := pool i f hf
    exact roster i f hf (occupied_congr hfe.symm (hs.enrolled i e he))
  heard i f hf := by
    obtain ⟨e, he, -, hse⟩ := pool i f hf
    exact (hs.heard i e he).imp hse
  dormant hm i := by
    have hi := pool i
    rw [hs.dormant (mode hm) i] at hi
    cases hf : t.combiner.pool[i] with
    | none => rfl
    | some f => obtain ⟨e, he, -⟩ := hi f hf; cases he

/-- An empty pool keeps its laws. -/
theorem PoolLaw.of_empty {t : State} (h : ∀ i : Fin 12, t.combiner.pool[i] = none) : PoolLaw t where
  once i _ e _ he := by rw [h i] at he; cases he
  enrolled i e he := by rw [h i] at he; cases he
  heard i e he := by rw [h i] at he; cases he
  dormant _ := h

/-- The laws of the clock and of the pool together, as steps keep them (O55). -/
def ClockAndPool (s : State) : Prop := ClockLaw s ∧ PoolLaw s

/-- A step that opens no pool entry, empties no slot, and leaves the mode and the clock. -/
structure NoneOpens (s t : State) : Prop where
  mode : t.mode = s.mode
  inReset : t.inReset = s.inReset
  clockRunning : t.clockRunning = s.clockRunning
  pool : ∀ i : Fin 12, NoNewOpen s.combiner.pool[i] t.combiner.pool[i]
  roster : ∀ n : Fin 200, s.roster[n].isSome → t.roster[n].isSome

namespace NoneOpens

theorem laws {s t : State} (h : NoneOpens s t) (hs : ClockAndPool s) : ClockAndPool t :=
  ⟨⟨by rw [h.clockRunning, h.mode, h.inReset, hs.1.runs], fun hr => h.mode.trans (hs.1.reset (h.inReset.symm.trans hr))⟩,
    hs.2.carry h.pool (fun _ f _ => h.roster f.entry) fun hm => h.mode.symm.trans hm⟩

/-- What leaves all of these alone is such a step. -/
theorem keep {s t : State} (hm : t.mode = s.mode) (hr : t.inReset = s.inReset) (hc : t.clockRunning = s.clockRunning)
    (hp : t.combiner.pool = s.combiner.pool) (hro : t.roster = s.roster) : NoneOpens s t :=
  ⟨hm, hr, hc, fun i => by rw [hp]; exact .refl _, fun n h => by rw [hro]; exact h⟩

/-- The laws go on where all of these stay. -/
theorem keep_laws {s : State} (hs : ClockAndPool s) (t : State) (hm : t.mode = s.mode) (hr : t.inReset = s.inReset)
    (hc : t.clockRunning = s.clockRunning) (hp : t.combiner.pool = s.combiner.pool) (hro : t.roster = s.roster) : ClockAndPool t :=
  (NoneOpens.keep hm hr hc hp hro).laws hs

theorem refl (s : State) : NoneOpens s s := .keep rfl rfl rfl rfl rfl

theorem trans {s t u : State} (h₁ : NoneOpens s t) (h₂ : NoneOpens t u) : NoneOpens s u :=
  ⟨h₂.mode.trans h₁.mode, h₂.inReset.trans h₁.inReset, h₂.clockRunning.trans h₁.clockRunning, fun i => (h₁.pool i).trans (h₂.pool i),
    fun n h => h₂.roster n (h₁.roster n h)⟩

theorem of_entryStep {s t : State} (h : EntryStep s t) (hp : ∀ i : Fin 12, NoNewOpen s.combiner.pool[i] t.combiner.pool[i]) :
    NoneOpens s t :=
  ⟨h.mode, h.inReset, h.clockRunning, hp, fun n hn => by
    rw [Option.isSome_iff_ne_none] at hn ⊢; exact fun e => hn (h.empty.1 e)⟩

theorem of_floorStep {s t : State} (h : FloorStep s t) : NoneOpens s t :=
  .of_entryStep h.entryStep fun i => by rw [h.combiner]; exact .refl _

theorem setSlot (s : State) (n : Fin 200) (e : Entry) : NoneOpens s (s.setSlot n (some e)) :=
  ⟨rfl, rfl, rfl, fun _ => .refl _, fun m hm => by
    rw [State.setSlot_roster, setAt_get]
    split
    · rfl
    · exact hm⟩

theorem postChange (s : State) (b : Block) (id : WarnId) (old new : Bool) : NoneOpens s (s.postChange b id old new) :=
  .of_floorStep (.postChange s b id old new)

theorem portBecomes (s : State) (p : Fin 4) (x : AntennaPort) : NoneOpens s (s.portBecomes p x) :=
  (NoneOpens.keep (s := s) (t := s.setPort p x) rfl rfl rfl rfl rfl).trans (.postChange _ _ _ _ _)

theorem strangersBecome (s : State) (v : Vector (Option Stranger) 8) : NoneOpens s (s.strangersBecome v) :=
  (NoneOpens.keep (s := s) (t := { s with combiner := { s.combiner with strangers := v } }) rfl rfl rfl rfl rfl).trans
    (.postChange _ _ _ _ _)

theorem setPool {s : State} {i : Fin 12} {x : Option PoolEntry} (h : NoNewOpen s.combiner.pool[i] x) : NoneOpens s (s.setPool i x) :=
  ⟨rfl, rfl, rfl, fun j => by
    rw [State.setPool_combiner, setAt_get]
    split
    · rename_i e; rw [← e]; exact h
    · exact .refl _, fun _ h => h⟩

theorem takeReports (s : State) : NoneOpens s s.takeReports :=
  .keep (takeReports_mode s) (takeReports_inReset s) (takeReports_clockRunning s) (by rw [takeReports_combiner]) (takeReports_roster s)

theorem finish (s : State) : NoneOpens s (finish s) :=
  .keep (finish_mode s) (finish_inReset s) (finish_clockRunning s) (by rw [finish_combiner]) (finish_roster s)

theorem complete (i : Instr) (r : Reply) (s : State) : NoneOpens s (complete i r s) := .keep rfl rfl rfl rfl rfl

theorem forList {α : Type} {f : α → State → State} (hf : ∀ a t, NoneOpens t (f a t)) (l : List α) (s : State) :
    NoneOpens s (forList f l s) :=
  forList_induct (P := NoneOpens s) l s (.refl s) fun a _ t ht => ht.trans (hf a t)

theorem forEach {n : Nat} {f : Fin n → State → State} (hf : ∀ a t, NoneOpens t (f a t)) (s : State) : NoneOpens s (forEach f s) :=
  .forList hf (List.finRange n) s

end NoneOpens

/-! ### Closing -/

theorem closeAt_noneOpens (i : Fin 12) (s : State) : NoneOpens s (closeAt i s) :=
  .of_entryStep (closeAt_entryStep i s) fun j => by
    rw [closeAt_pool]
    split
    · exact .none _
    · exact .refl _

theorem coverageTest_noneOpens (i : Fin 12) (s : State) : NoneOpens s (coverageTest i s) := by
  unfold coverageTest
  split
  · split
    · exact closeAt_noneOpens i s
    · exact .refl s
  · exact .refl s

theorem makeRoom_noneOpens (s : State) : NoneOpens s (makeRoom s) := by
  unfold makeRoom
  split
  · exact .refl s
  · split
    · exact closeAt_noneOpens _ s
    · exact .refl s

theorem recheckCoverage_noneOpens (s : State) : NoneOpens s (recheckCoverage s) := .forList closeAt_noneOpens _ s

theorem closeAll_noneOpens (s : State) : NoneOpens s (closeAll s) := .forList closeAt_noneOpens _ s

/-- The change to DORMANT leaves no entry open (R34). -/
theorem closeAll_pool (s : State) (i : Fin 12) : (closeAll s).combiner.pool[i] = none := by
  rw [closeAll, forList_closeAt_pool]
  cases hi : s.combiner.pool[i] with
  | none => split <;> rfl
  | some e => rw [if_pos ((mem_positions _ _ _).2 ⟨e, hi, rfl⟩)]

theorem recheckAfterDisable_noneOpens (was : PortState) (s : State) : NoneOpens s (recheckAfterDisable was s) := by
  unfold recheckAfterDisable
  split
  · exact recheckCoverage_noneOpens s
  · exact .refl s

theorem portFallsSilent_noneOpens (p : Fin 4) (s : State) : NoneOpens s (portFallsSilent p s) :=
  (NoneOpens.portBecomes s _ _).trans (recheckCoverage_noneOpens _)

theorem endWarmUp_noneOpens (p : Fin 4) (s : State) : NoneOpens s (endWarmUp p s) := by
  unfold endWarmUp
  split
  · exact .keep rfl rfl rfl rfl rfl
  · exact portFallsSilent_noneOpens p s

theorem judgeSilence_noneOpens (s : State) : NoneOpens s (judgeSilence s) := by
  unfold judgeSilence
  simp only
  split
  · exact .forList (fun _ _ => .portBecomes _ _ _) _ s
  · exact (NoneOpens.forList (fun _ _ => .portBecomes _ _ _) _ s).trans (recheckCoverage_noneOpens _)

/-! ### Opening and joining -/

/-- A new pool entry, of an enrolled entry that has none open, in a part that is awake (R28). -/
theorem setPool_opened_laws {s : State} {n : Fin 200} (i : Fin 12) (w : Nat) (x : Sighting) (awake : s.mode ≠ .dormant)
    (enrolled : s.roster[n].isSome) (apart : ∀ (j : Fin 12) (e : PoolEntry), s.combiner.pool[j] = some e → e.entry ≠ n)
    (hs : ClockAndPool s) : ClockAndPool (s.setPool i (some (PoolEntry.opened n w x))) := by
  have hpos : ∀ (j : Fin 12) (f : PoolEntry), (s.setPool i (some (PoolEntry.opened n w x))).combiner.pool[j] = some f →
      j = i ∧ f = PoolEntry.opened n w x ∨ j ≠ i ∧ s.combiner.pool[j] = some f := by
    intro j f hf
    rw [State.setPool_combiner, setAt_get] at hf
    split at hf
    · rename_i e; exact .inl ⟨e.symm, (Option.some.inj hf).symm⟩
    · rename_i e; exact .inr ⟨Ne.symm e, hf⟩
  refine ⟨⟨hs.1.runs, hs.1.reset⟩, ⟨fun j k e f he hf h => ?_, fun j f hf => ?_, fun j f hf => ?_, fun hm => absurd hm awake⟩⟩
  · rcases hpos j e he with ⟨rfl, rfl⟩ | ⟨_, he'⟩ <;> rcases hpos k f hf with ⟨rfl, rfl⟩ | ⟨_, hf'⟩
    · rfl
    · exact absurd h.symm (apart k f hf')
    · exact absurd h (apart j e he')
    · exact hs.2.once j k e f he' hf' h
  · rcases hpos j f hf with ⟨-, rfl⟩ | ⟨-, hf'⟩
    · exact enrolled
    · exact hs.2.enrolled j f hf'
  · rcases hpos j f hf with ⟨-, rfl⟩ | ⟨-, hf'⟩
    · exact ⟨x.port, by simp only [PoolEntry.opened, setAt_get_same, Option.isSome_some]⟩
    · exact hs.2.heard j f hf'

theorem openPool_laws {s : State} {n : Fin 200} (x : Sighting) (awake : s.mode ≠ .dormant) (enrolled : s.roster[n].isSome)
    (apart : ∀ (j : Fin 12) (e : PoolEntry), s.combiner.pool[j] = some e → e.entry ≠ n) (hs : ClockAndPool s) :
    ClockAndPool (openPool n x s) := by
  have hroom := makeRoom_noneOpens s
  unfold openPool
  simp only
  split
  · refine (coverageTest_noneOpens _ _).laws (setPool_opened_laws _ _ x (hroom.mode ▸ awake) (hroom.roster n enrolled) (fun j f hf => ?_)
      (hroom.laws hs))
    obtain ⟨e, he, hfe, -⟩ := hroom.pool j f hf
    exact hfe ▸ apart j e he
  · exact hroom.laws hs

theorem joinPool_noneOpens {s : State} {i : Fin 12} {e : PoolEntry} (he : s.combiner.pool[i] = some e) (x : Sighting) :
    NoneOpens s (joinPool i e x s) := by
  refine (NoneOpens.setPool (s := s) ?_).trans (coverageTest_noneOpens i _)
  rw [he]
  rintro f hf
  cases hf
  refine ⟨e, rfl, rfl, fun p hp => ?_⟩
  simp only [PoolEntry.joined, setAt_get]
  split
  · rfl
  · exact hp

theorem positionOf_none {c : Combiner} {n : Fin 200} (h : c.positionOf n = none) {j : Fin 12} {e : PoolEntry} (he : c.pool[j] = some e) :
    e.entry ≠ n := by
  have := firstIndex_eq_none.1 h j
  rw [he] at this
  simpa using this

theorem positionOf_some {c : Combiner} {n : Fin 200} {i : Fin 12} (h : c.positionOf n = some i) :
    ∃ e, c.pool[i] = some e ∧ e.entry = n := by
  have := (firstIndex_eq_some.1 h).1
  split at this
  · exact ⟨_, ‹_›, by simpa using this⟩
  · cases this

/-- A superseded pool entry was the only one of its roster entry, so the new one is again (R26). -/
theorem takeEnrolled_laws {s : State} {n : Fin 200} (x : Sighting) (awake : s.mode ≠ .dormant) (hs : ClockAndPool s) :
    ClockAndPool (takeEnrolled n x s) := by
  unfold takeEnrolled
  split
  · rename_i i hi
    obtain ⟨e, he, rfl⟩ := positionOf_some hi
    simp only [he]
    split
    · exact (joinPool_noneOpens he x).laws hs
    · split
      · have hclose := closeAt_noneOpens i s
        refine openPool_laws x (hclose.mode ▸ awake) (hclose.roster _ (hs.2.enrolled i e he)) (fun j f hf h => ?_) (hclose.laws hs)
        rw [closeAt_pool] at hf
        split at hf
        · cases hf
        · rename_i hij; exact hij (hs.2.once i j e f he hf h.symm)
      · exact hs
  · rename_i hnone
    split
    · rename_i e he
      split
      · exact openPool_laws x awake (by rw [he]; rfl) (fun _ _ => positionOf_none hnone) hs
      · exact hs
    · exact hs

theorem takeFrame_laws {s : State} (awake : s.mode ≠ .dormant) (hs : ClockAndPool s) : ClockAndPool (takeFrame s) := by
  unfold takeFrame
  split
  · exact hs
  · rename_i p _
    split
    · exact hs
    · rename_i f rest _
      have htaken : ∀ k : Fin 4, ClockAndPool { s.setPort p { s.ports[p] with inbox := rest } with
          combiner := { s.combiner with nextPort := k } } :=
        fun _ => NoneOpens.keep_laws hs _ rfl rfl rfl rfl rfl
      simp only
      split
      · unfold takeSighting
        split
        · exact takeEnrolled_laws _ awake (htaken _)
        · exact (NoneOpens.strangersBecome _ _).laws (htaken _)
      · exact htaken _

/-! ### The roster -/

theorem postBattery_floorStep (n : Fin 200) (a b : BattLevel) (s : State) : FloorStep s (postBattery n a b s) := by
  unfold postBattery
  split
  · exact .post s _ _
  · exact (FloorStep.postChange s _ _ _ _).trans (.postChange _ _ _ _ _)

theorem reclassifyEntry_noneOpens (n : Fin 200) (s : State) : NoneOpens s (reclassifyEntry n s) := by
  unfold reclassifyEntry
  split
  · exact .refl s
  · exact (NoneOpens.setSlot s n _).trans (.of_floorStep (postBattery_floorStep _ _ _ _))

theorem fadeEntry_noneOpens (n : Fin 200) (s : State) : NoneOpens s (fadeEntry n s) := by
  unfold fadeEntry
  split
  · exact .refl s
  · exact (NoneOpens.setSlot s n _).trans (.of_floorStep (floorTakes_floorStep n _))

theorem loseEntry_noneOpens (n : Fin 200) (s : State) : NoneOpens s (loseEntry n s) := by
  unfold loseEntry
  split
  · exact .refl s
  · exact (((NoneOpens.setSlot s n _).trans (.postChange _ _ _ _ _)).trans (.postChange _ _ _ _ _)).trans
      (.of_floorStep (floorTakes_floorStep n _))

theorem judgeAge_noneOpens (n : Fin 200) (s : State) : NoneOpens s (judgeAge n s) := by
  unfold judgeAge
  split
  · exact .refl s
  · split
    · exact loseEntry_noneOpens n s
    · split
      · exact fadeEntry_noneOpens n s
      · exact .refl s

theorem sweepStep_noneOpens (s : State) : NoneOpens s (sweepStep s) := by
  unfold sweepStep
  split
  · exact .keep rfl rfl rfl rfl rfl
  · rename_i w _
    refine NoneOpens.trans (t := { s with sweep := w.advanced, sweepDue := false }) (.keep rfl rfl rfl rfl rfl) ?_
    unfold visitSlot
    split
    · split
      · exact reclassifyEntry_noneOpens _ _
      · exact .refl _
    · exact .refl _

theorem enrolAt_noneOpens (n : Fin 200) (unit : UnitId) (seat : Nat) (group : Fin 8) (profile : Fin 4) (s : State) :
    NoneOpens s (enrolAt n unit seat group profile s) := by
  unfold enrolAt State.forgetStranger
  split
  · exact (NoneOpens.setSlot s n _).trans (.strangersBecome _ _)
  · exact .setSlot s n _

theorem amend_noneOpens (n : Fin 200) (e : Entry) (seat : Nat) (group : Fin 8) (profile : Fin 4) (s : State) :
    NoneOpens s (amend n e seat group profile s) := by
  unfold amend
  simp only
  split
  · exact .setSlot s n _
  · exact (NoneOpens.setSlot s n _).trans (reclassifyEntry_noneOpens _ _)

/-- A retirement leaves the open entries of the others as they are, and none of its own (R33). -/
theorem dropPool_pool (n : Fin 200) (s : State) (i : Fin 12) (x : PoolEntry) :
    (dropPool n s).combiner.pool[i] = some x ↔ s.combiner.pool[i] = some x ∧ x.entry ≠ n := by
  unfold dropPool
  rw [mapTable_get]
  cases s.combiner.pool[i] with
  | none => simp
  | some e =>
    by_cases h : e.entry = n
    · simp only [h, if_true, Option.some.injEq, reduceCtorEq, false_iff, not_and, not_not]
      rintro rfl; exact h
    · simp only [h, if_false, Option.some.injEq, iff_self_and]
      rintro rfl; exact h

/-- A slot emptied, with no open pool entry left of it (R33, R46). -/
theorem setSlot_none_laws {s : State} {n : Fin 200} (apart : ∀ (j : Fin 12) (e : PoolEntry), s.combiner.pool[j] = some e → e.entry ≠ n)
    (hs : ClockAndPool s) : ClockAndPool (s.setSlot n none) :=
  ⟨⟨hs.1.runs, hs.1.reset⟩, hs.2.carry (fun _ => .refl _) (fun i f hf hsome => by
    rw [State.setSlot_roster, setAt_get_ne _ (apart i f hf).symm]; exact hsome) id⟩

theorem retireEntry_laws (n : Fin 200) {s : State} (hs : ClockAndPool s) : ClockAndPool (retireEntry n s) := by
  have hdrop : ClockAndPool (dropPool n s) :=
    ⟨⟨hs.1.runs, hs.1.reset⟩, hs.2.carry (fun i f hf => ⟨f, ((dropPool_pool n s i f).1 hf).1, rfl, fun _ h => h⟩) (fun _ _ _ h => h) id⟩
  have hfree := freeSlot_floorStep n (dropPool n s)
  have hslot : ClockAndPool ((freeSlot n (dropPool n s)).setSlot n none) :=
    setSlot_none_laws (fun j e he => ((dropPool_pool n s j e).1 (hfree.combiner ▸ he)).2) ((NoneOpens.of_floorStep hfree).laws hdrop)
  have hchair : ∀ (b : Bool) {t : State}, ClockAndPool t →
      ClockAndPool (if b then { t with floor := { t.floor with chair := none } } else t) := by
    intro b t ht; cases b
    · exact ht
    · exact ⟨⟨ht.1.runs, ht.1.reset⟩, ht.2.carry (fun _ => .refl _) (fun _ _ _ h => h) id⟩
  have hhold : ∀ (b : Bool) {t : State}, ClockAndPool t → ClockAndPool (if b then endHold t else t) := by
    intro b t ht; cases b
    · exact ht
    · exact (NoneOpens.of_floorStep (endHold_floorStep t)).laws ht
  exact (NoneOpens.of_floorStep (.post _ _ _)).laws (hhold _ (hchair _ hslot))

/-! ### The floor -/

theorem setMuted_noneOpens (v : Bool) (n : Fin 200) (s : State) : NoneOpens s (setMuted v n s) := by
  unfold setMuted
  split
  · exact .refl s
  · split
    · exact .refl s
    · exact (NoneOpens.setSlot s n _).trans (.of_floorStep (derive_floorStep _ _))

theorem setAllMuted_noneOpens (v : Bool) (s : State) : NoneOpens s (setAllMuted v s) := by
  refine .forEach (fun n t => ?_) s
  split
  · exact .refl t
  · exact setMuted_noneOpens v n t

theorem silentExpires_floorStep (k : Fin 6) (s : State) : FloorStep s (silentExpires k s) := by
  unfold silentExpires
  split
  · exact .refl s
  · simp only
    split
    · exact (((FloorStep.setLive s _ _).trans (.postChange _ _ _ _ _)).trans (freeSlot_floorStep _ _)).trans (derive_floorStep _ _)
    · exact (FloorStep.setLive s _ _).trans (.postChange _ _ _ _ _)

theorem debounceExpires_noneOpens (s : State) : NoneOpens s (debounceExpires s) := by
  unfold debounceExpires
  simp only
  refine NoneOpens.trans (t := { s with floor := { s.floor with asserted := !s.floor.asserted, stability := 0 } })
    (.keep rfl rfl rfl rfl rfl) ?_
  split
  · exact .of_floorStep (silenceAsserted_floorStep _)
  · exact .of_floorStep (silenceReleased_floorStep _)

theorem grantBody_noneOpens (n : Fin 200) (s : State) : NoneOpens s (grantBody n s).state := by
  unfold grantBody
  split
  · exact .refl s
  · split
    · exact .refl s
    · split
      · exact .refl s
      · split
        · exact .refl s
        · split
          · exact .refl s
          · exact .of_floorStep ((FloorStep.setLive s _ _).trans (derive_floorStep _ _))

theorem prepareChair_noneOpens (n : Fin 200) (s : State) : NoneOpens s (prepareChair n s) := by
  have hmute : ∀ t : State, NoneOpens t (clearMute n t) := by
    intro t
    unfold clearMute
    split
    · exact .refl t
    · exact .setSlot t n _
  exact ((NoneOpens.of_floorStep (freeSlot_floorStep n s)).trans (hmute _)).trans (.of_floorStep (stopHot_floorStep n _))

theorem designate_noneOpens (chair : Option (Fin 200)) (s : State) : NoneOpens s (designate chair s) := by
  refine NoneOpens.trans (t := { s with floor := { s.floor with chair := chair } }) (.keep rfl rfl rfl rfl rfl) ?_
  unfold designate
  simp only
  split
  · exact .of_floorStep (derive_floorStep _ _)
  · exact .refl _

theorem changeChair_noneOpens (chair : Option (Fin 200)) (s : State) : NoneOpens s (changeChair chair s) := by
  have hprep : NoneOpens s (match chair with | some n => prepareChair n s | none => s) := by
    split
    · exact prepareChair_noneOpens _ s
    · exact .refl s
  have hhold : ∀ t, NoneOpens t (match t.floor.cause with | .chair => endHold t | .none => t | .silence => t) := by
    intro t; split
    · exact .of_floorStep (endHold_floorStep t)
    · exact .refl t
    · exact .refl t
  have hclaim : ∀ t, NoneOpens t (match t.floor.cause with
      | .none => if t.chairClaims then beginHold t else t
      | .chair => t
      | .silence => t) := by
    intro t; split
    · split
      · exact .of_floorStep (beginHold_floorStep t)
      · exact .refl t
    · exact .refl t
    · exact .refl t
  exact ((hprep.trans (designate_noneOpens chair _)).trans (hhold _)).trans (hclaim _)

theorem setChairTo_noneOpens (chair : Option (Fin 200)) (s : State) : NoneOpens s (setChairTo chair s).state := by
  unfold setChairTo
  split
  · exact .refl s
  · exact changeChair_noneOpens chair s

theorem onEntry_noneOpens {entry : Byte} {len : Nat} {f : Fin 200 → Entry → Handling} {s : State}
    (hf : ∀ n e, NoneOpens s (f n e).state) : NoneOpens s (onEntry entry len f s).state := by
  unfold onEntry
  split
  · exact .refl s
  · split
    · exact .refl s
    · exact hf _ _

/-! ### Modes and resets -/

theorem wake_laws {s : State} (hr : s.inReset = false) (hs : ClockAndPool s) : ClockAndPool (wake s) := by
  refine ⟨⟨?_, fun _ => rfl⟩, hs.2.carry (fun _ => .refl _) (fun i f _ h => ?_) fun h => nomatch h⟩
  · show true = (_ && !s.inReset)
    rw [hr]; rfl
  · rw [wake_roster, Option.isSome_map]; exact h

theorem wakeIfDormant_laws {s : State} (hr : s.inReset = false) (hs : ClockAndPool s) : ClockAndPool (wakeIfDormant s) := by
  unfold wakeIfDormant
  split
  · exact wake_laws hr hs
  · exact hs
  · exact hs

/-- A part that is awake stays so, with its clock as it was, where it takes another mode but DORMANT (R156, R157). -/
theorem setMode_laws {s : State} (h : Ready s) {m : Mode} (hm : m ≠ .dormant) (hs : ClockAndPool s) : ClockAndPool (s.setMode m) := by
  refine ⟨⟨?_, fun hr => ?_⟩, hs.2.carry (fun _ => .refl _) (fun _ _ _ h => h) fun h => absurd h hm⟩
  · rw [State.setMode_clockRunning, hs.1.runs, State.setMode_mode, State.setMode_inReset, bne_iff_ne.2 hm, bne_iff_ne.2 h.2]
  · rw [State.setMode_inReset, h.1] at hr; cases hr

theorem enterSession_laws {s : State} (h : Ready s) (hs : ClockAndPool s) : ClockAndPool (enterSession s) :=
  (NoneOpens.of_floorStep (enterSession_floorStep s)).laws (setMode_laws h (by decide) hs)

theorem leaveSession_laws {s : State} (h : Ready s) (hs : ClockAndPool s) : ClockAndPool (leaveSession s) :=
  (NoneOpens.of_floorStep (leaveSession_floorStep s)).laws (setMode_laws h (by decide) hs)

theorem recessEffects_inReset (s : State) : (recessEffects s).inReset = s.inReset := by
  unfold recessEffects
  split
  · rw [takeReports_inReset, (leaveSession_floorStep s).inReset]; rfl
  · rfl
  · rfl

/-- The entry into DORMANT closes the pool, so the laws hold of it whatever stood before (R34, R160). -/
theorem enterDormant_laws {s : State} (hr : s.inReset = false) : ClockAndPool (enterDormant s) := by
  have hreset : (enterDormant s).inReset = false := by
    show (closeAll (recessEffects s)).takeReports.inReset = false
    rw [takeReports_inReset, (closeAll_noneOpens _).inReset, recessEffects_inReset, hr]
  refine ⟨⟨rfl, fun h => by rw [hreset] at h; cases h⟩, .of_empty fun i => ?_⟩
  show (closeAll (recessEffects s)).takeReports.combiner.pool[i] = none
  rw [takeReports_combiner, closeAll_pool]

theorem deviceReset_laws (s : State) : ClockAndPool (deviceReset s) :=
  ⟨⟨rfl, fun _ => rfl⟩, .of_empty reset_pool⟩

theorem endReset_laws {s : State} (hs : ClockAndPool s) : ClockAndPool (endReset s) :=
  ⟨⟨rfl, fun _ => rfl⟩, hs.2.carry (fun _ => .refl _) (fun _ _ _ h => h) fun h => nomatch h⟩

theorem chamberResetAll_laws {s : State} (hr : s.inReset = false) : ClockAndPool (chamberResetAll s) := by
  refine ⟨⟨?_, fun _ => rfl⟩, .of_empty reset_pool⟩
  show true = (_ && !s.inReset)
  rw [hr]; rfl

theorem judgeFrame_laws {s : State} (p : Fin 4) (f : List Byte) (hr : s.inReset = false) (hs : ClockAndPool s) :
    ClockAndPool (judgeFrame p f s) := by
  unfold judgeFrame
  split
  · split
    · exact (NoneOpens.portBecomes _ _ _).laws (wake_laws hr hs)
    · exact (NoneOpens.portBecomes _ _ _).laws hs
    · exact (NoneOpens.portBecomes _ _ _).laws hs
  · exact NoneOpens.keep_laws hs _ rfl rfl rfl rfl rfl

theorem tick_noneOpens (s : State) : NoneOpens s (tick s) := by
  refine ⟨rfl, rfl, rfl, fun i => ?_, fun n h => ?_⟩
  · show NoNewOpen s.combiner.pool[i] (mapTable s.combiner.pool fun _ e => e.map PoolEntry.tick)[i]
    rw [mapTable_get]
    intro f hf
    obtain ⟨e, he, rfl⟩ := Option.map_eq_some_iff.1 hf
    exact ⟨e, he, rfl, fun _ h => h⟩
  · show ((mapTable s.roster fun _ e => e.map Entry.tick)[n]).isSome
    rw [mapTable_get, Option.isSome_map]; exact h

theorem autonomous_noneOpens (s : State) : NoneOpens s (autonomous s) := by
  unfold autonomous
  split
  · exact .refl s
  · split
    · split
      · exact tick_noneOpens s
      · exact .refl s
    · exact .keep rfl rfl rfl rfl rfl

theorem blinkBoundary_noneOpens (s : State) : NoneOpens s (blinkBoundary s) := by
  unfold blinkBoundary
  simp only
  split
  · rw [commit_rest]; exact .keep rfl rfl rfl rfl rfl
  · exact .keep rfl rfl rfl rfl rfl

theorem setHotDelay_noneOpens (t : Tuning) (s : State) : NoneOpens s (forEach judgeHot (s.setTuning t)) := by
  refine (NoneOpens.keep (s := s) (t := s.setTuning t) rfl rfl rfl rfl rfl).trans (.forEach (fun n u => ?_) _)
  unfold judgeHot
  split
  · exact .of_floorStep (hotReached_floorStep n u)
  · exact .refl u

theorem inSubjectOrder_noneOpens (s : State) : NoneOpens s (inSubjectOrder s) := .keep rfl rfl rfl rfl rfl

theorem setLostTime_noneOpens (t : Tuning) (s : State) : NoneOpens s (inSubjectOrder (forEach judgeAge (s.setTuning t))) :=
  ((NoneOpens.keep (s := s) (t := s.setTuning t) rfl rfl rfl rfl rfl).trans (.forEach judgeAge_noneOpens _)).trans
    (inSubjectOrder_noneOpens _)

/-! ### Handlings -/

theorem next_laws {u t : State} (hu : ClockAndPool u) (h : (.next u : Host.Outcome State Fault Refusal) = .next t) : ClockAndPool t := by
  cases h; exact hu

theorem occur_laws {s t : State} {due : Bool} {f : State → State} (hs : ClockAndPool s) (h : occur due f s = .next t)
    (hf : due = true → s.inReset = false → ClockAndPool (f s)) : ClockAndPool t := by
  refine next_laws ?_ h
  split
  · exact hs
  · rename_i hc
    simp only [Bool.or_eq_true, Bool.not_eq_true', not_or, Bool.not_eq_false, Bool.not_eq_true] at hc
    exact (NoneOpens.finish _).laws (hf hc.2 hc.1)

theorem occur_noneOpens {s t : State} {due : Bool} {f : State → State} (hs : ClockAndPool s) (h : occur due f s = .next t)
    (hf : NoneOpens s (f s)) : ClockAndPool t := occur_laws hs h fun _ _ => hf.laws hs

theorem conclude_laws {h : Handling} (hs : ClockAndPool h.state) (i : Instr) : ClockAndPool (h.conclude i) := by
  cases h with
  | answered t r => exact (NoneOpens.complete i r t).laws hs
  | acted t r => exact ((NoneOpens.finish t).trans (.complete i r _)).laws hs

theorem wakeIfDormant_ready {s : State} (h : s.inReset = false) : Ready (wakeIfDormant s) := by
  unfold wakeIfDormant
  split
  · exact ⟨h, nofun⟩
  · rename_i hm; exact ⟨h, by rw [hm]; nofun⟩
  · rename_i hm; exact ⟨h, by rw [hm]; nofun⟩

theorem runCommand_laws {i : Instr} {body : State → Handling} {s t : State} (hs : ClockAndPool s) (h : runCommand i body s = .next t)
    (hb : ∀ u, Ready u → ClockAndPool u → ClockAndPool (body u).state) : ClockAndPool t := by
  refine next_laws ?_ h
  split
  · exact hs
  · rename_i hr
    have hr : s.inReset = false := by simpa using hr
    exact conclude_laws (hb _ (wakeIfDormant_ready hr) (wakeIfDormant_laws hr hs)) i

theorem runCommand_noneOpens {i : Instr} {body : State → Handling} {s t : State} (hs : ClockAndPool s)
    (h : runCommand i body s = .next t) (hb : ∀ u, NoneOpens u (body u).state) : ClockAndPool t :=
  runCommand_laws hs h fun u _ hu => (hb u).laws hu

/-! ### Commands -/

theorem acted_noneOpens {s t : State} (h : NoneOpens s t) (r : Reply) : NoneOpens s (Handling.acted t r).state := h

theorem acted_laws {t : State} (h : ClockAndPool t) (r : Reply) : ClockAndPool (Handling.acted t r).state := h

theorem setTuning_noneOpens (s : State) (t : Tuning) : NoneOpens s (s.setTuning t) := .keep rfl rfl rfl rfl rfl

theorem lineFault_noneOpens (m : Fin 16) (v : Bool) (s : State) : NoneOpens s (lineFault m v s) :=
  (NoneOpens.keep (s := s) (t := s.setLine m { s.lines.line[m] with fault := v }) rfl rfl rfl rfl rfl).trans (.postChange _ _ _ _ _)

theorem changePendingType_noneOpens (c : WClass) (t : PendingType) (s : State) : NoneOpens s (changePendingType c t s) := by
  unfold changePendingType
  simp only
  split <;> exact .keep rfl rfl rfl rfl rfl

theorem found_noneOpens (s : State) (n : Option (Fin 200)) : NoneOpens s (found s n).state := by
  unfold found
  split <;> exact .refl s

theorem muteBody_noneOpens (v : Bool) (n : Fin 200) (s : State) : NoneOpens s (muteBody v n s).state := by
  unfold muteBody
  split
  · exact .refl s
  · exact setMuted_noneOpens v n s

theorem enrolBody_noneOpens (unit : UnitId) (seat group profile : Byte) (s : State) :
    NoneOpens s (enrolBody unit seat group profile s).state := by
  unfold enrolBody
  split
  · exact .refl s
  · split
    · exact .refl s
    · split
      · exact .refl s
      · split
        · exact .refl s
        · split
          · exact .refl s
          · exact enrolAt_noneOpens _ _ _ _ _ s

theorem enrolStrangerBody_noneOpens (position seat group profile : Byte) (s : State) :
    NoneOpens s (enrolStrangerBody position seat group profile s).state := by
  unfold enrolStrangerBody
  split
  · split
    · exact .refl s
    · split
      · exact .refl s
      · split
        · exact .refl s
        · exact enrolAt_noneOpens _ _ _ _ _ s
  · exact .refl s

theorem enablePortOffBody_noneOpens (port value : Byte) (s : State) : NoneOpens s (enablePortOffBody port value s).state := by
  unfold enablePortOffBody
  split
  · exact .refl s
  · split
    · exact .refl s
    · split
      · exact (NoneOpens.portBecomes s _ _).trans (recheckAfterDisable_noneOpens _ _)
      · exact .refl s

/-! ### Each row -/

/-- Every row keeps the laws of the clock and of the pool. -/
theorem exec_laws (i : Instr) {s t : State} (hs : ClockAndPool s) (h : exec i s = .next t) : ClockAndPool t := by
  cases i with
  | deviceReset =>
    rw [exec_deviceReset] at h
    exact next_laws (deviceReset_laws s) h
  | resetEnd =>
    rw [exec_resetEnd] at h
    refine next_laws ?_ h
    split
    · exact endReset_laws hs
    · exact hs
  | frameComplete p b =>
    rw [exec_frameComplete] at h
    exact occur_laws hs h fun _ hr => judgeFrame_laws p _ hr hs
  | stopBitMissing p =>
    rw [exec_stopBitMissing] at h
    exact occur_noneOpens hs h (.keep rfl rfl rfl rfl rfl)
  | byteGapTimeout p =>
    rw [exec_byteGapTimeout] at h
    exact occur_noneOpens hs h (.keep rfl rfl rfl rfl rfl)
  | frameGapReject p =>
    rw [exec_frameGapReject] at h
    exact occur_noneOpens hs h (.keep rfl rfl rfl rfl rfl)
  | answerSent p =>
    rw [exec_answerSent] at h
    exact occur_noneOpens hs h (.keep rfl rfl rfl rfl rfl)
  | resyncIdle p =>
    rw [exec_resyncIdle] at h
    exact occur_noneOpens hs h (.keep rfl rfl rfl rfl rfl)
  | warmUpEnd p =>
    rw [exec_warmUpEnd] at h
    exact occur_noneOpens hs h (endWarmUp_noneOpens p s)
  | portSilenceExpiry p =>
    rw [exec_portSilenceExpiry] at h
    exact occur_noneOpens hs h (portFallsSilent_noneOpens p s)
  | frameTake =>
    rw [exec_frameTake] at h
    exact occur_laws hs h fun hd _ => takeFrame_laws ((frameOffered_iff s).1 hd).1 hs
  | strangerAgeExpiry i =>
    rw [exec_strangerAgeExpiry] at h
    exact occur_noneOpens hs h (.strangersBecome _ _)
  | poolWindowExpiry i =>
    rw [exec_poolWindowExpiry] at h
    exact occur_noneOpens hs h (closeAt_noneOpens i s)
  | entryFading n =>
    rw [exec_entryFading] at h
    exact occur_noneOpens hs h (fadeEntry_noneOpens n s)
  | entryLost n =>
    rw [exec_entryLost] at h
    exact occur_noneOpens hs h (loseEntry_noneOpens n s)
  | sweepVisit =>
    rw [exec_sweepVisit] at h
    exact occur_noneOpens hs h (sweepStep_noneOpens s)
  | silentExpiry k =>
    rw [exec_silentExpiry] at h
    exact occur_noneOpens hs h (.of_floorStep (silentExpires_floorStep k s))
  | hotDelayReached n =>
    rw [exec_hotDelayReached] at h
    exact occur_noneOpens hs h (.of_floorStep (hotReached_floorStep n s))
  | silenceInputChange high =>
    rw [exec_silenceInputChange] at h
    refine next_laws ?_ h
    split <;> exact NoneOpens.keep_laws hs _ rfl rfl rfl rfl rfl
  | silenceDebounceExpiry =>
    rw [exec_silenceDebounceExpiry] at h
    exact occur_noneOpens hs h (debounceExpires_noneOpens s)
  | blinkBoundary =>
    rw [exec_blinkBoundary] at h
    exact occur_noneOpens hs h (blinkBoundary_noneOpens s)
  | holdExpiry m =>
    rw [exec_holdExpiry] at h
    exact occur_noneOpens hs h (.keep rfl rfl rfl rfl rfl)
  | senseInputChange m high =>
    rw [exec_senseInputChange] at h
    refine next_laws ?_ h
    exact NoneOpens.keep_laws hs _ rfl rfl rfl rfl rfl
  | lampFaultDetected m =>
    rw [exec_lampFaultDetected] at h
    exact occur_noneOpens hs h (lineFault_noneOpens m true s)
  | lampFaultCleared m =>
    rw [exec_lampFaultCleared] at h
    exact occur_noneOpens hs h (lineFault_noneOpens m false s)
  | csNFall =>
    rw [exec_csNFall] at h
    refine next_laws ?_ h
    split
    · exact hs
    · split <;> exact NoneOpens.keep_laws hs _ rfl rfl rfl rfl rfl
  | csNRise =>
    rw [exec_csNRise] at h
    refine next_laws ?_ h
    split
    · exact NoneOpens.keep_laws hs _ rfl rfl rfl rfl rfl
    · split
      · exact NoneOpens.keep_laws hs _ rfl rfl rfl rfl rfl
      · exact hs
  | waitingCommandStart =>
    rw [exec_waitingCommandStart] at h
    refine next_laws ?_ h
    split
    · exact hs
    · exact NoneOpens.keep_laws hs _ rfl rfl rfl rfl rfl
  | commandRefusedBusy b =>
    rw [exec_commandRefusedBusy] at h
    refine next_laws ?_ h
    split
    · exact hs
    · exact NoneOpens.keep_laws hs _ rfl rfl rfl rfl rfl
  | enrol unit seat group profile =>
    rw [exec_enrol] at h
    exact runCommand_noneOpens hs h (enrolBody_noneOpens _ _ _ _)
  | enrolStranger position seat group profile =>
    rw [exec_enrolStranger] at h
    exact runCommand_noneOpens hs h (enrolStrangerBody_noneOpens _ _ _ _)
  | retire entry =>
    rw [exec_retire] at h
    refine runCommand_laws hs h fun u _ hu => ?_
    unfold onEntry
    split
    · exact hu
    · split
      · exact hu
      · exact acted_laws (retireEntry_laws _ hu) _
  | findUnit unit =>
    rw [exec_findUnit] at h
    exact runCommand_noneOpens hs h fun u => found_noneOpens u _
  | findSeat seat =>
    rw [exec_findSeat] at h
    refine runCommand_noneOpens hs h fun u => ?_
    unfold findSeatBody
    split
    · exact .refl u
    · exact found_noneOpens u _
  | readEntry entry =>
    rw [exec_readEntry] at h
    exact runCommand_noneOpens hs h fun u => onEntry_noneOpens fun _ _ => .refl u
  | amendEntry entry seat group profile =>
    rw [exec_amendEntry] at h
    refine runCommand_noneOpens hs h fun u => ?_
    unfold amendEntryBody
    split
    · exact .refl u
    · refine onEntry_noneOpens fun n e => ?_
      split
      · exact .refl u
      · exact amend_noneOpens n e _ _ _ u
  | grantFloor entry =>
    rw [exec_grantFloor] at h
    exact runCommand_noneOpens hs h fun u => onEntry_noneOpens fun n _ => grantBody_noneOpens n u
  | revokeFloor entry =>
    rw [exec_revokeFloor] at h
    refine runCommand_noneOpens hs h fun u => onEntry_noneOpens fun n _ => ?_
    unfold revokeBody
    split
    · exact .refl u
    · exact .of_floorStep ((freeSlot_floorStep n u).trans (derive_floorStep n _))
  | setFloorCapacity capacity =>
    rw [exec_setFloorCapacity] at h
    refine runCommand_noneOpens hs h fun u => ?_
    unfold setFloorCapacityBody
    simp only
    split <;> exact .keep rfl rfl rfl rfl rfl
  | mute entry =>
    rw [exec_mute] at h
    exact runCommand_noneOpens hs h fun u => onEntry_noneOpens fun n _ => muteBody_noneOpens true n u
  | unmute entry =>
    rw [exec_unmute] at h
    exact runCommand_noneOpens hs h fun u => onEntry_noneOpens fun n _ => muteBody_noneOpens false n u
  | muteAll =>
    rw [exec_muteAll] at h
    exact runCommand_noneOpens hs h fun u => acted_noneOpens (setAllMuted_noneOpens true u) _
  | unmuteAll =>
    rw [exec_unmuteAll] at h
    exact runCommand_noneOpens hs h fun u => acted_noneOpens (setAllMuted_noneOpens false u) _
  | setChair entry =>
    rw [exec_setChair] at h
    refine runCommand_noneOpens hs h fun u => ?_
    unfold setChairBody
    split
    · exact setChairTo_noneOpens none u
    · exact onEntry_noneOpens fun n _ => setChairTo_noneOpens (some n) u
  | readAttention position =>
    rw [exec_readAttention] at h
    refine runCommand_noneOpens hs h fun u => ?_
    unfold readAttentionBody
    split <;> exact .refl u
  | acknowledge kind index cls stamp =>
    rw [exec_acknowledge] at h
    refine runCommand_noneOpens hs h fun u => ?_
    unfold acknowledgeBody
    repeat' split
    all_goals exact .keep rfl rfl rfl rfl rfl
  | ackListed =>
    rw [exec_ackListed] at h
    exact runCommand_noneOpens hs h fun _ => .keep rfl rfl rfl rfl rfl
  | readStrangers =>
    rw [exec_readStrangers] at h
    exact runCommand_noneOpens hs h .refl
  | readPort port =>
    rw [exec_readPort] at h
    refine runCommand_noneOpens hs h fun u => ?_
    unfold readPortBody
    split <;> exact .keep rfl rfl rfl rfl rfl
  | enablePortOn port =>
    rw [exec_enablePortOn] at h
    refine runCommand_noneOpens hs h fun u => ?_
    unfold enablePortOnBody
    split
    · exact .refl u
    · split
      · exact .refl u
      · exact .portBecomes u _ _
  | enablePortOff port value =>
    rw [exec_enablePortOff] at h
    exact runCommand_noneOpens hs h (enablePortOffBody_noneOpens port value)
  | setProfile profile fields =>
    rw [exec_setProfile] at h
    refine runCommand_noneOpens hs h fun u => ?_
    unfold setProfileBody
    repeat' split
    all_goals exact .keep rfl rfl rfl rfl rfl
  | readProfile profile =>
    rw [exec_readProfile] at h
    refine runCommand_noneOpens hs h fun u => ?_
    unfold readProfileBody
    split <;> exact .refl u
  | setPortSilenceTime v =>
    rw [exec_setPortSilenceTime] at h
    refine runCommand_noneOpens hs h fun u => ?_
    unfold setPortSilenceTimeBody
    simp only
    split
    · exact .refl u
    · exact (setTuning_noneOpens u _).trans (judgeSilence_noneOpens _)
  | setCombiningWindow v =>
    rw [exec_setCombiningWindow] at h
    exact runCommand_noneOpens hs h fun u => setTuning_noneOpens u _
  | setLostTime v =>
    rw [exec_setLostTime] at h
    refine runCommand_noneOpens hs h fun u => ?_
    unfold setLostTimeBody
    simp only
    split
    · exact .refl u
    · exact setLostTime_noneOpens _ u
  | setSignalFloor v =>
    rw [exec_setSignalFloor] at h
    exact runCommand_noneOpens hs h fun u => setTuning_noneOpens u _
  | setSmoothingShift v =>
    rw [exec_setSmoothingShift] at h
    exact runCommand_noneOpens hs h fun u => setTuning_noneOpens u _
  | setWeakThreshold v =>
    rw [exec_setWeakThreshold] at h
    refine runCommand_noneOpens hs h fun u => ?_
    unfold setWeakThresholdBody
    simp only
    split <;> exact .keep rfl rfl rfl rfl rfl
  | setPoorThreshold v =>
    rw [exec_setPoorThreshold] at h
    refine runCommand_noneOpens hs h fun u => ?_
    unfold setPoorThresholdBody
    simp only
    split <;> exact .keep rfl rfl rfl rfl rfl
  | setSilentTime v =>
    rw [exec_setSilentTime] at h
    exact runCommand_noneOpens hs h fun u => setTuning_noneOpens u _
  | setAutoRevoke v =>
    rw [exec_setAutoRevoke] at h
    refine runCommand_noneOpens hs h fun u => ?_
    unfold setAutoRevokeBody
    split <;> exact .keep rfl rfl rfl rfl rfl
  | setHotDelay v =>
    rw [exec_setHotDelay] at h
    exact runCommand_noneOpens hs h fun u => acted_noneOpens (setHotDelay_noneOpens _ u) _
  | setPriorityFunction v =>
    rw [exec_setPriorityFunction] at h
    refine runCommand_noneOpens hs h fun u => ?_
    unfold setPriorityFunctionBody
    split
    · exact (setTuning_noneOpens u _).trans (.of_floorStep (followClaim_floorStep _))
    · exact .refl u
  | setPendingType item v =>
    rw [exec_setPendingType] at h
    refine runCommand_noneOpens hs h fun u => ?_
    unfold setPendingTypeBody
    split
    · exact changePendingType_noneOpens _ _ u
    · exact .refl u
  | setIrqMask v =>
    rw [exec_setIrqMask] at h
    exact runCommand_noneOpens hs h fun u => setTuning_noneOpens u _
  | readTuning item =>
    rw [exec_readTuning] at h
    refine runCommand_noneOpens hs h fun u => ?_
    unfold readTuningBody
    split <;> exact .refl u
  | stageLine line config =>
    rw [exec_stageLine] at h
    refine runCommand_noneOpens hs h fun u => ?_
    unfold stageLineBody
    split <;> exact .keep rfl rfl rfl rfl rfl
  | applyLines =>
    rw [exec_applyLines] at h
    exact runCommand_noneOpens hs h fun _ => .keep rfl rfl rfl rfl rfl
  | readLine line =>
    rw [exec_readLine] at h
    refine runCommand_noneOpens hs h fun u => ?_
    unfold readLineBody
    split <;> exact .refl u
  | setModeRecess value =>
    rw [exec_setModeRecess] at h
    refine runCommand_laws hs h fun u hr hu => ?_
    unfold setModeRecessBody
    split
    · exact hu
    · split
      · exact acted_laws (leaveSession_laws hr hu) _
      · exact hu
      · exact hu
  | setModeSession =>
    rw [exec_setModeSession] at h
    refine runCommand_laws hs h fun u hr hu => ?_
    unfold setModeSessionBody
    split
    · exact acted_laws (enterSession_laws hr hu) _
    · exact hu
    · exact acted_laws (enterSession_laws hr hu) _
  | setModeDormant =>
    rw [exec_setModeDormant] at h
    refine next_laws ?_ h
    split
    · exact hs
    · rename_i hr
      have hr : s.inReset = false := by simpa using hr
      refine conclude_laws ?_ _
      unfold setModeDormantBody
      split
      · exact acted_laws (enterDormant_laws hr) _
      · exact acted_laws (enterDormant_laws hr) _
      · exact hs
  | readStatus =>
    rw [exec_readStatus] at h
    exact runCommand_noneOpens hs h .refl
  | chamberReset =>
    rw [exec_chamberReset] at h
    exact runCommand_laws hs h fun _ hr _ => acted_laws (chamberResetAll_laws hr.1) _
  | unknownCommand code =>
    rw [exec_unknownCommand] at h
    exact runCommand_noneOpens hs h .refl
  | characterComplete p b =>
    rw [exec_characterComplete] at h
    exact occur_noneOpens hs h (.keep rfl rfl rfl rfl rfl)
  | byteComplete b =>
    rw [exec_byteComplete] at h
    refine next_laws ?_ h
    split
    · exact hs
    · exact NoneOpens.keep_laws hs _ rfl rfl rfl rfl rfl

/-- Settles O55: only a frame taken in a part that is awake opens a pool entry, for an enrolled unit that has none open; only RETIRE and
the resets empty a slot, and the pool entry goes with it; and DORMANT is entered with the pool closed. -/
theorem stepsKeepThePoolLaw : Obligations.StepsKeepThePoolLaw := by
  intro s t hs h
  unfold step at h
  split at h
  · exact next_laws ((autonomous_noneOpens s).laws hs) h
  · rename_i rest _
    exact exec_laws _ (NoneOpens.keep_laws hs { s with pending := rest } rfl rfl rfl rfl rfl) h

end Sys2Proof.Machine
end

section
/-! PROOFS. Sightings: the choice of the greatest among the places of a table; the strength of a sighting and the best counted strength
(O22), the newness of a beacon (O21), and the taking of frames with the stranger table (O20). -/

namespace Sys2Proof.Machine

/-! ### The greatest of a table, at the lowest place among equals -/

section
variable {κ : Type} [LinearOrder κ] {n : Nat}

/-- One more place looked at: it is taken over where it is strictly greater than what was found before it. -/
def takeGreater (score : Fin n → Option κ) (best : Option (κ × Fin n)) (i : Fin n) : Option (κ × Fin n) :=
  match score i, best with
  | some x, some (y, j) => if y < x then some (x, i) else some (y, j)
  | some x, none => some (x, i)
  | none, b => b

/-- The greatest score of a table, with its place. -/
def greatest (score : Fin n → Option κ) : Option (κ × Fin n) := (List.finRange n).foldl (takeGreater score) none

/-- What has been found once the places of a list have been looked at. -/
def GreatestOf (score : Fin n → Option κ) (l : List (Fin n)) : Option (κ × Fin n) → Prop
  | none => ∀ q ∈ l, score q = none
  | some (x, p) => p ∈ l ∧ score p = some x ∧ ∀ q ∈ l, ∀ y, score q = some y → y ≤ x ∧ (y = x → p ≤ q)

theorem greatestOf_append {score : Fin n → Option κ} {l : List (Fin n)} {i : Fin n} (hi : ∀ q ∈ l, q < i) {b : Option (κ × Fin n)}
    (hb : GreatestOf score l b) : GreatestOf score (l ++ [i]) (takeGreater score b i) := by
  have hmem : ∀ q, q ∈ l ++ [i] ↔ q ∈ l ∨ q = i := fun q => by rw [List.mem_append, List.mem_singleton]
  unfold takeGreater
  cases hs : score i with
  | none =>
    match b, hb with
    | none, hb =>
      rintro q hq
      rcases (hmem q).1 hq with h | rfl
      · exact hb q h
      · exact hs
    | some (x, p), ⟨hp, hx, hle⟩ =>
      refine ⟨(hmem p).2 (.inl hp), hx, fun q hq y hy => ?_⟩
      rcases (hmem q).1 hq with h | rfl
      · exact hle q h y hy
      · rw [hs] at hy; cases hy
  | some x =>
    match b, hb with
    | none, hb =>
      refine ⟨(hmem i).2 (.inr rfl), hs, fun q hq y hy => ?_⟩
      rcases (hmem q).1 hq with h | rfl
      · rw [hb q h] at hy; cases hy
      · cases hs.symm.trans hy; exact ⟨le_rfl, fun _ => le_rfl⟩
    | some (z, p), ⟨hp, hz, hle⟩ =>
      simp only
      split
      · rename_i hlt
        refine ⟨(hmem i).2 (.inr rfl), hs, fun q hq y hy => ?_⟩
        rcases (hmem q).1 hq with h | rfl
        · have hyx := ((hle q h y hy).1).trans_lt hlt
          exact ⟨hyx.le, fun e => absurd e hyx.ne⟩
        · cases hs.symm.trans hy; exact ⟨le_rfl, fun _ => le_rfl⟩
      · rename_i hlt
        refine ⟨(hmem p).2 (.inl hp), hz, fun q hq y hy => ?_⟩
        rcases (hmem q).1 hq with h | rfl
        · exact hle q h y hy
        · cases hs.symm.trans hy; exact ⟨not_lt.1 hlt, fun _ => (hi p hp).le⟩

theorem greatestOf_finRange (score : Fin n → Option κ) : GreatestOf score (List.finRange n) (greatest score) := by
  have hall : ∀ l : List (Fin n), l.Pairwise (· < ·) → GreatestOf score l (l.foldl (takeGreater score) none) := by
    intro l
    induction l using List.reverseRecOn with
    | nil => exact fun _ q hq => absurd hq List.not_mem_nil
    | append_singleton l i ih =>
      intro hl
      obtain ⟨hl, -, hli⟩ := List.pairwise_append.1 hl
      rw [List.foldl_append]
      exact greatestOf_append (fun q hq => hli q hq i (List.mem_singleton_self i)) (ih hl)
  exact hall _ (List.pairwise_lt_finRange n)

theorem greatest_eq_none (score : Fin n → Option κ) : greatest score = none ↔ ∀ q, score q = none := by
  have h := greatestOf_finRange score
  cases hg : greatest score with
  | none => rw [hg] at h; exact ⟨fun _ q => h q (List.mem_finRange q), fun _ => rfl⟩
  | some b =>
    obtain ⟨x, p⟩ := b
    rw [hg] at h
    obtain ⟨-, hp, -⟩ := h
    exact ⟨nofun, fun hn => by rw [hn p] at hp; cases hp⟩

theorem greatest_eq_some (score : Fin n → Option κ) (x : κ) (p : Fin n) : greatest score = some (x, p) ↔
    score p = some x ∧ ∀ q y, score q = some y → y ≤ x ∧ (y = x → p ≤ q) := by
  have h := greatestOf_finRange score
  cases hg : greatest score with
  | none =>
    rw [hg] at h
    exact ⟨nofun, fun ⟨hp, _⟩ => by rw [h p (List.mem_finRange p)] at hp; cases hp⟩
  | some b =>
    obtain ⟨z, k⟩ := b
    rw [hg] at h
    obtain ⟨-, hk, hle⟩ := h
    have hle : ∀ q y, score q = some y → y ≤ z ∧ (y = z → k ≤ q) := fun q => hle q (List.mem_finRange q)
    constructor
    · rintro h; cases h; exact ⟨hk, hle⟩
    · rintro ⟨hp, hmax⟩
      obtain rfl : z = x := le_antisymm (hmax k z hk).1 (hle p x hp).1
      obtain rfl : k = p := le_antisymm ((hle p z hp).2 rfl) ((hmax k z hk).2 rfl)
      rfl

end

/-! ### Strengths -/

theorem effectiveStrengthIsBounded : Claims.EffectiveStrengthIsBounded := by
  intro r e he
  unfold effectiveStrength
  refine ⟨fun h1 h2 h3 => ?_, fun h1 h2 h3 => ?_, fun h => ?_, fun h => ?_, ?_, ?_⟩ <;> omega

theorem sightingsCarryTheirStrength : Claims.SightingsCarryTheirStrength := fun _ _ _ _ _ _ _ _ _ _ _ _ => rfl

/-- The strength at a port that counts for the comparison: one that is present and not warming (R31). -/
def countedAt (v : Strengths) (p : Fin 4) : Option Int :=
  match v[p] with
  | some ⟨x, false⟩ => some x
  | some ⟨_, true⟩ => none
  | none => none

theorem countedAt_eq_some (v : Strengths) (p : Fin 4) (x : Int) : countedAt v p = some x ↔ v[p] = some ⟨x, false⟩ := by
  unfold countedAt
  rcases v[p] with _ | ⟨y, _ | _⟩ <;> simp

theorem countedAt_eq_none (v : Strengths) (p : Fin 4) :
    countedAt v p = none ↔ ∀ y : PortStrength, v[p] = some y → y.warming = true := by
  unfold countedAt
  rcases v[p] with _ | ⟨y, _ | _⟩ <;> simp

theorem bestCounted_eq_greatest (v : Strengths) : bestCounted v = greatest (countedAt v) := by
  unfold bestCounted greatest
  congr 1
  funext b p
  unfold takeGreater countedAt
  rcases v[p] with _ | ⟨y, _ | _⟩ <;> rcases b with _ | ⟨z, q⟩ <;> rfl

theorem bestCountedStrength : Claims.BestCountedStrength := by
  intro v
  refine ⟨fun x p => ?_, ?_⟩
  · rw [bestCounted_eq_greatest, greatest_eq_some]
    simp only [countedAt_eq_some]
  · rw [bestCounted_eq_greatest, greatest_eq_none]
    exact forall_congr' (countedAt_eq_none v)

/-- Settles O22: the arithmetic of the effective strength, and the best counted strength as the greatest of the counted ones. -/
theorem strengthsAreMeasuredAndCompared : Obligations.StrengthsAreMeasuredAndCompared :=
  ⟨effectiveStrengthIsBounded, sightingsCarryTheirStrength, bestCountedStrength⟩

/-! ### Beacon numbers -/

theorem beacon_distance (b r : Byte) : (b - r).toNat = (b.toNat + 256 - r.toNat) % 256 := by
  rw [BitVec.toNat_sub]
  congr 1
  have := r.isLt
  omega

theorem beaconAhead_iff (b r : Byte) : beaconAhead b r = true ↔
    1 ≤ (b.toNat + 256 - r.toNat) % 256 ∧ (b.toNat + 256 - r.toNat) % 256 ≤ 127 := by
  rw [beaconAhead, beacon_distance, Bool.and_eq_true, decide_eq_true_iff, decide_eq_true_iff]

theorem beacon_eq_iff (b r : Byte) : b = r ↔ (b.toNat + 256 - r.toNat) % 256 = 0 := by
  have := b.isLt
  have := r.isLt
  rw [BitVec.toNat_eq]
  omega

/-- Settles O21: the distance of the two beacon numbers decides. -/
theorem beaconNewnessIsTested : Obligations.BeaconNewnessIsTested := by
  refine fun s n x => ⟨fun i e hi he => ?_, fun e hn he => ?_⟩
  · have htake : takeEnrolled n x s = if x.beacon = e.beacon then joinPool i e x s
        else if beaconAhead x.beacon e.beacon then openPool n x (closeAt i s) else s := by
      simp only [takeEnrolled, hi, he]
    rw [htake]
    simp only [beacon_eq_iff, beaconAhead_iff]
    generalize (x.beacon.toNat + 256 - e.beacon.toNat) % 256 = d
    exact ⟨fun h => if_pos h, fun h1 h2 => by rw [if_neg (by omega), if_pos ⟨h1, h2⟩],
      fun h => by rw [if_neg (by omega), if_neg (by omega)]⟩
  · have htake : takeEnrolled n x s = if e.accepts x.beacon then openPool n x s else s := by
      simp only [takeEnrolled, hn, he]
    rw [htake]
    refine ⟨fun h => if_pos ?_, fun l hl hlost hoff => ?_⟩
    · unfold Entry.accepts
      split
      · rfl
      · rename_i l hl
        rcases h with h | h | h
        · rw [hl] at h; cases h
        · rw [h]; rfl
        · rw [h]; rfl
    · have hacc : e.accepts x.beacon = beaconAhead x.beacon l := by
        simp only [Entry.accepts, hl, beq_eq_false_iff_ne.2 hlost, beq_eq_false_iff_ne.2 hoff, Bool.false_or]
      rw [hacc]
      simp only [beaconAhead_iff]
      generalize (x.beacon.toNat + 256 - l.toNat) % 256 = d
      exact ⟨fun h1 h2 => if_pos ⟨h1, h2⟩, fun h => if_neg (by omega)⟩

/-! ### The stranger table -/

theorem strangerCond_iff (c : Combiner) : c.strangerCond = true ↔ ∃ (i : Fin 8) (r : Stranger), c.strangers[i] = some r := by
  rw [Combiner.strangerCond, Option.isSome_iff_ne_none, Ne, firstIndex_eq_none]
  simp only [Bool.not_eq_false, not_forall, Option.isSome_iff_exists]

theorem strangerCond_eq_false {c : Combiner} (h : ∀ i : Fin 8, c.strangers[i] = none) : c.strangerCond = false := by
  rw [Bool.eq_false_iff, Ne, strangerCond_iff]
  rintro ⟨i, r, hr⟩
  rw [h i] at hr; cases hr

/-- The first record of a unit is the one that a search finds. -/
theorem strangerOf_eq_some {c : Combiner} {u : UnitId} {i : Fin 8} {r : Stranger} (hr : c.strangers[i] = some r) (hu : r.unit = u)
    (hno : ∀ j : Fin 8, j < i → ∀ q, c.strangers[j] = some q → q.unit ≠ u) : c.strangerOf u = some i := by
  rw [Combiner.strangerOf, firstIndex_eq_some]
  constructor
  · simp only [hr, hu, beq_self_eq_true]
  · intro j hj
    cases hq : c.strangers[j] with
    | none => rfl
    | some q => exact beq_eq_false_iff_ne.2 (hno j hj q hq)

theorem strangerOf_eq_none {c : Combiner} {u : UnitId} (hno : ∀ (j : Fin 8) (q : Stranger), c.strangers[j] = some q → q.unit ≠ u) :
    c.strangerOf u = none := by
  rw [Combiner.strangerOf, firstIndex_eq_none]
  intro j
  cases hq : c.strangers[j] with
  | none => rfl
  | some q => exact beq_eq_false_iff_ne.2 (hno j q hq)

/-- The age of the record at a position. -/
def strangerAge (v : Vector (Option Stranger) 8) (i : Fin 8) : Option Nat := v[i].map (·.age)

theorem oldestStranger_eq_greatest (v : Vector (Option Stranger) 8) :
    oldestStranger v = (greatest (strangerAge v)).map fun b => (b.2, b.1) := by
  unfold oldestStranger greatest
  refine List.foldl_hom (Option.map fun b : Nat × Fin 8 => (b.2, b.1)) (init := none) fun b i => ?_
  unfold takeGreater strangerAge
  rcases v[i] with _ | r <;> rcases b with _ | ⟨a, j⟩
  · rfl
  · rfl
  · rfl
  · show (if a < r.age then _ else _) = Option.map _ (if a < r.age then _ else _)
    split <;> rfl

/-- The oldest record, the lowest among equals, as a search finds it (R21). -/
theorem oldestStranger_eq_some {v : Vector (Option Stranger) 8} {i : Fin 8} {r : Stranger} (hr : v[i] = some r)
    (hmax : ∀ (j : Fin 8) (q : Stranger), v[j] = some q → q.age ≤ r.age ∧ (q.age = r.age → i ≤ j)) :
    oldestStranger v = some (i, r.age) := by
  have h : greatest (strangerAge v) = some (r.age, i) := by
    rw [greatest_eq_some]
    refine ⟨by rw [strangerAge, hr]; rfl, fun j y hy => ?_⟩
    obtain ⟨q, hq, rfl⟩ := Option.map_eq_some_iff.1 hy
    exact hmax j q hq
  rw [oldestStranger_eq_greatest, h]; rfl

theorem strangerIsEntered : Claims.StrangerIsEntered := by
  refine fun c x i => ⟨fun r hr hu hno => ?_, fun hno => ⟨fun hi hfull => ?_, fun hfull r hr hmax => ?_⟩⟩
  · simp only [strangersAfter, strangerOf_eq_some hr hu hno, hr]; rfl
  · have hfree : firstIndex (fun i : Fin 8 => c.strangers[i].isNone) = some i :=
      firstIndex_eq_some.2 ⟨by rw [hi]; rfl, fun j hj => by rw [Option.isNone_eq_false_iff, Option.isSome_iff_ne_none]; exact hfull j hj⟩
    rw [strangersAfter, strangerOf_eq_none hno, hfree]; rfl
  · have hfree : firstIndex (fun i : Fin 8 => c.strangers[i].isNone) = none :=
      firstIndex_eq_none.2 fun j => by rw [Option.isNone_eq_false_iff, Option.isSome_iff_ne_none]; exact hfull j
    rw [strangersAfter, strangerOf_eq_none hno, hfree, oldestStranger_eq_some hr hmax]; rfl

/-- After a stranger sighting the table holds a record (R21, R24). -/
theorem strangerCond_after (c : Combiner) (x : Sighting) : ({ c with strangers := strangersAfter c x } : Combiner).strangerCond = true := by
  rw [strangerCond_iff]
  have hset : ∀ (i : Fin 8) (r : Stranger), ∃ (j : Fin 8) (q : Stranger), (setAt c.strangers i (some r))[j] = some q :=
    fun i r => ⟨i, r, setAt_get_same _ _ _⟩
  unfold strangersAfter
  split
  · rename_i i hi
    obtain ⟨r, hr, -⟩ := strangerOf_some hi
    rw [hr]
    exact hset i _
  · split
    · exact hset _ _
    · rename_i hfull
      split
      · exact hset _ _
      · have h0 := firstIndex_eq_none.1 hfull 0
        rw [Option.isNone_eq_false_iff, Option.isSome_iff_exists] at h0
        exact ⟨0, h0⟩

theorem strangerIsReported : Claims.StrangerIsReported := by
  rintro x s s' rfl
  constructor
  · intro hempty
    rw [takeStranger, State.strangersBecome, strangerCond_after, strangerCond_eq_false hempty]; rfl
  · intro i r hr
    rw [takeStranger, State.strangersBecome, strangerCond_after, (strangerCond_iff _).2 ⟨i, r, hr⟩, State.postChange_same]

/-! ### The rotation -/

/-- The port served is the first that offers, counted from the one after the last served (R18). -/
theorem offeringPort_eq {s : State} {d : Nat} (hd : d < 4) (hne : s.ports[s.combiner.nextPort + Fin.ofNat 4 d].inbox ≠ [])
    (hno : ∀ d' < d, s.ports[s.combiner.nextPort + Fin.ofNat 4 d'].inbox = []) :
    s.offeringPort = some (s.combiner.nextPort + Fin.ofNat 4 d) := by
  have hof : ∀ i : Fin 4, Fin.ofNat 4 i.1 = i := fun i => Fin.ext (Nat.mod_eq_of_lt i.2)
  have hfirst : firstIndex (fun i : Fin 4 => s.ports[s.combiner.nextPort + i].offers) = some (Fin.ofNat 4 d) := by
    refine firstIndex_eq_some.2 ⟨?_, fun j hj => ?_⟩
    · simpa only [AntennaPort.offers, Bool.not_eq_true', List.isEmpty_eq_false_iff] using hne
    · have hj' : j.1 < d := by rw [Fin.lt_def] at hj; exact hj.trans_eq (Nat.mod_eq_of_lt hd)
      have hempty := hno j.1 hj'
      simp only [hof] at hempty
      simp only [AntennaPort.offers, hempty, List.isEmpty_nil, Bool.not_true]
  rw [State.offeringPort, List.find?_map]
  exact congrArg (Option.map _) hfirst

theorem entryOfUnit_eq_none {s : State} {u : UnitId} (h : ∀ (n : Fin 200) (e : Entry), s.roster[n] = some e → e.unit ≠ u) :
    s.entryOfUnit u = none := by
  rw [State.entryOfUnit, firstIndex_eq_none]
  intro n
  cases he : s.roster[n] with
  | none => rfl
  | some e => exact beq_eq_false_iff_ne.2 (h n e he)

theorem frameByte_zero {f : List Byte} {b : Byte} (h : f.head? = some b) : frameByte f 0 = b := by
  cases f with
  | nil => cases h
  | cons a l => cases h; rfl

theorem takeSighting_unknown {x : Sighting} {s : State} (h : s.entryOfUnit x.unit = none) : takeSighting x s = takeStranger x s := by
  rw [takeSighting, h]

theorem takeSighting_enrolled {x : Sighting} {s : State} {n : Fin 200} (h : s.entryOfUnit x.unit = some n) :
    takeSighting x s = takeEnrolled n x s := by
  rw [takeSighting, h]

/-- The state after the oldest frame of a port has been taken out of its inbox, and before it is handled (R18). -/
def State.afterTaking (s : State) (p : Fin 4) (rest : List InboxFrame) : State :=
  { s with ports := setAt s.ports p { s.ports[p] with inbox := rest }, combiner := { s.combiner with nextPort := p + 1 } }

theorem frameTake_eq {s : State} {p : Fin 4} {f : InboxFrame} {rest : List InboxFrame} (hs : Ready s) (hp : s.offeringPort = some p)
    (hf : s.ports[p].inbox = f :: rest) : exec .frameTake s = .next (finish (if frameByte f.bytes 0 = sightingKind
      then takeSighting (sightingOf p f) (s.afterTaking p rest) else s.afterTaking p rest)) := by
  have hdue : s.frameOffered = true := by rw [State.frameOffered, hp, bne_iff_ne.2 hs.2]; rfl
  rw [exec_frameTake, occur_due hs.1 hdue]
  simp only [takeFrame, hp, hf]
  rfl

theorem frameIsTakenInRotation : Claims.FrameIsTakenInRotation := by
  intro s d f rest hs hd hf hno
  have hport := offeringPort_eq hd (by rw [hf]; exact List.cons_ne_nil _ _) hno
  have hunit : ∀ (p : Fin 4) (u : UnitId), (s.afterTaking p rest).entryOfUnit u = s.entryOfUnit u := fun _ _ => rfl
  refine ⟨_, _, rfl, rfl, ?_⟩
  rw [frameTake_eq hs hport hf]
  refine ⟨fun hk hne => ?_, fun hk hunknown => ?_, fun n hk hn => ?_⟩
  · rw [if_neg]
    · rfl
    · intro hkind
      obtain ⟨b, l, hbl⟩ := List.exists_cons_of_ne_nil hne
      refine hk ?_
      rw [hbl] at hkind ⊢
      exact congrArg some hkind
  · have hkind : frameByte f.bytes 0 = sightingKind := frameByte_zero hk
    rw [if_pos hkind, takeSighting_unknown ((hunit _ _).trans (entryOfUnit_eq_none hunknown))]
    rfl
  · have hkind : frameByte f.bytes 0 = sightingKind := frameByte_zero hk
    rw [if_pos hkind, takeSighting_enrolled ((hunit _ _).trans hn)]
    rfl

/-- Settles O20: the rotation as a search from the port after the last served, and the three cases of the stranger table. -/
theorem framesAreTakenAndStrangersEntered : Obligations.FramesAreTakenAndStrangersEntered :=
  ⟨frameIsTakenInRotation, strangerIsEntered, strangerIsReported⟩

end Sys2Proof.Machine
end

section
/-! PROOFS. The pool: entries opened, joined, covered and closed (O23); and the limits of windows and ages (O31). -/

namespace Sys2Proof.Machine

/-! ### Coverage -/

theorem covered_iff (s : State) (e : PoolEntry) : s.covered e = true ↔
    ∀ p : Fin 4, s.ports[p].state = .warming ∨ s.ports[p].state = .up → e.strengths[p].isSome := by
  simp only [State.covered, List.all_eq_true, List.mem_finRange, true_implies, Bool.or_eq_true, Bool.not_eq_true', or_iff_not_imp_left,
    Bool.not_eq_false, receiving_iff]

theorem not_covered {s : State} {e : PoolEntry} {p : Fin 4} (hp : s.ports[p].state = .warming ∨ s.ports[p].state = .up)
    (h : e.strengths[p] = none) : s.covered e = false := by
  rw [Bool.eq_false_iff, Ne, covered_iff]
  intro hc
  have := hc p hp
  rw [h] at this; cases this

theorem coverageTest_covered {s : State} {i : Fin 12} {e : PoolEntry} (he : s.combiner.pool[i] = some e) (h : s.covered e = true) :
    coverageTest i s = closeAt i s := by
  simp only [coverageTest, he, h, if_true]

theorem coverageTest_not_covered {s : State} {i : Fin 12} {e : PoolEntry} (he : s.combiner.pool[i] = some e)
    (h : s.covered e = false) : coverageTest i s = s := by
  simp only [coverageTest, he, h, Bool.false_eq_true, if_false]

/-! ### Opening and joining -/

theorem opened_eq (n : Fin 200) (w : Nat) (x : Sighting) : PoolEntry.opened n w x =
    ⟨n, x.beacon, w, setAt #v[none, none, none, none] x.port (some ⟨x.s, x.warming⟩), x.s, x.payload, false⟩ := rfl

theorem joined_eq (e : PoolEntry) (x : Sighting) : e.joined x = { e with
    disagree := e.disagree || !(x.payload == e.payload)
    strengths := setAt e.strengths x.port (some ⟨x.s, x.warming⟩)
    best := max e.best x.s
    payload := if e.best < x.s then x.payload else e.payload } := by
  have hbest : (if e.best < x.s then x.s else e.best) = max e.best x.s := by split <;> omega
  rw [PoolEntry.joined, hbest]; rfl

/-- The lowest free position of a pool, as a search finds it. -/
theorem freePosition {c : Combiner} {i : Fin 12} (hi : c.pool[i] = none) (hno : ∀ j : Fin 12, j < i → c.pool[j] ≠ none) :
    firstIndex (fun i : Fin 12 => c.pool[i].isNone) = some i :=
  firstIndex_eq_some.2 ⟨by rw [hi]; rfl, fun j hj => by rw [Option.isNone_eq_false_iff, Option.isSome_iff_ne_none]; exact hno j hj⟩

/-- A pool entry opens at the lowest position that is free once room has been made (R28). -/
theorem openPool_eq {n : Fin 200} {x : Sighting} {s t : State} {i : Fin 12} (hroom : makeRoom s = t) (hi : t.combiner.pool[i] = none)
    (hno : ∀ j : Fin 12, j < i → t.combiner.pool[j] ≠ none) :
    openPool n x s = coverageTest i (t.setPool i (some (PoolEntry.opened n t.tuning.window x))) := by
  simp only [openPool, hroom, freePosition hi hno]

theorem makeRoom_of_free {s : State} {i : Fin 12} (hi : s.combiner.pool[i] = none)
    (hno : ∀ j : Fin 12, j < i → s.combiner.pool[j] ≠ none) : makeRoom s = s := by
  simp only [makeRoom, freePosition hi hno]

theorem sightingsOpenAndJoinPoolEntries : Claims.SightingsOpenAndJoinPoolEntries := by
  refine fun s n x i => ⟨fun hi hno => ?_, fun e => ?_, fun e he => ⟨fun hc => ?_, fun p hp hs => ?_⟩⟩
  · rw [openPool_eq (makeRoom_of_free hi hno) hi hno, opened_eq]
  · rw [joinPool, joined_eq]
  · exact coverageTest_covered he ((covered_iff s e).2 hc)
  · exact coverageTest_not_covered he (not_covered hp hs)

/-! ### Making room -/

/-- The window of the entry at a position, the least the greatest. -/
def windowRank (v : Vector (Option PoolEntry) 12) (i : Fin 12) : Option ℕᵒᵈ := v[i].map fun e => OrderDual.toDual e.window

theorem leastWindow_eq_greatest (v : Vector (Option PoolEntry) 12) :
    leastWindow v = (greatest (windowRank v)).map fun b => (b.2, OrderDual.ofDual b.1) := by
  unfold leastWindow greatest
  refine List.foldl_hom (Option.map fun b : ℕᵒᵈ × Fin 12 => (b.2, OrderDual.ofDual b.1)) (init := none) fun b i => ?_
  unfold takeGreater windowRank
  rcases v[i] with _ | e <;> rcases b with _ | ⟨w, j⟩
  · rfl
  · rfl
  · rfl
  · show (if e.window < OrderDual.ofDual w then _ else _) = Option.map _ (if w < OrderDual.toDual e.window then _ else _)
    by_cases h : e.window < OrderDual.ofDual w
    · rw [if_pos h, if_pos (OrderDual.lt_toDual.2 h)]; rfl
    · rw [if_neg h, if_neg fun h' => h (OrderDual.lt_toDual.1 h')]; rfl

/-- The entry with the least window, the lowest among equals, as a search finds it (R28). -/
theorem leastWindow_eq_some {v : Vector (Option PoolEntry) 12} {i : Fin 12} {e : PoolEntry} (he : v[i] = some e)
    (hmin : ∀ (j : Fin 12) (f : PoolEntry), v[j] = some f → e.window ≤ f.window ∧ (f.window = e.window → i ≤ j)) :
    leastWindow v = some (i, e.window) := by
  have h : greatest (windowRank v) = some (OrderDual.toDual e.window, i) := by
    rw [greatest_eq_some]
    refine ⟨by rw [windowRank, he]; rfl, fun j y hy => ?_⟩
    obtain ⟨f, hf, rfl⟩ := Option.map_eq_some_iff.1 hy
    exact hmin j f hf
  rw [leastWindow_eq_greatest, h]; rfl

theorem makeRoom_of_full {s : State} {i : Fin 12} {e : PoolEntry} (hfull : ∀ j : Fin 12, s.combiner.pool[j] ≠ none)
    (he : s.combiner.pool[i] = some e)
    (hmin : ∀ (j : Fin 12) (f : PoolEntry), s.combiner.pool[j] = some f → e.window ≤ f.window ∧ (f.window = e.window → i ≤ j)) :
    makeRoom s = closeAt i s := by
  have hfree : firstIndex (fun i : Fin 12 => s.combiner.pool[i].isNone) = none :=
    firstIndex_eq_none.2 fun j => by rw [Option.isNone_eq_false_iff, Option.isSome_iff_ne_none]; exact hfull j
  simp only [makeRoom, hfree, leastWindow_eq_some he hmin]

theorem fullPoolMakesRoom : Claims.FullPoolMakesRoom := by
  intro s n x i e hfull he hmin
  have hi : (closeAt i s).combiner.pool[i] = none := by rw [closeAt_pool, if_pos rfl]
  have hno : ∀ j : Fin 12, j < i → (closeAt i s).combiner.pool[j] ≠ none := fun j hj => by
    rw [closeAt_pool, if_neg (ne_of_gt hj)]; exact hfull j
  rw [openPool_eq (makeRoom_of_full hfull he hmin) hi hno, (closeAt_entryStep i s).tuning, opened_eq]

/-! ### Closing -/

theorem closeAt_eq {s : State} {i : Fin 12} {e : PoolEntry} (he : s.combiner.pool[i] = some e) :
    closeAt i s = applyObservation e.entry ⟨e.beacon, e.payload, e.disagree, e.strengths, bestCounted e.strengths⟩ (s.setPool i none) := by
  rw [closeAt, he]; rfl

theorem recheckClosesCoveredEntries : Claims.RecheckClosesCoveredEntries := by
  intro s i
  have hpool : (recheckCoverage s).combiner.pool[i] = if i ∈ s.combiner.positions s.covered then none else s.combiner.pool[i] :=
    forList_closeAt_pool i _ s
  rw [hpool]
  refine ⟨fun hi => by rw [hi, ite_self], fun e he => ⟨fun hc => ?_, fun p hp hs => ?_⟩⟩
  · rw [if_pos ((mem_positions _ _ _).2 ⟨e, he, (covered_iff s e).2 hc⟩)]
  · rw [if_neg, he]
    rintro hm
    obtain ⟨f, hf, hc⟩ := (mem_positions _ _ _).1 hm
    cases he.symm.trans hf
    rw [not_covered hp hs] at hc; cases hc

/-- The positions that have a property, each beside its roster entry, as they stand in the pool. -/
def Combiner.holders (c : Combiner) (q : PoolEntry → Bool) : List (Fin 200 × Fin 12) :=
  (List.finRange 12).filterMap fun i => match c.pool[i] with
    | some e => if q e then some (e.entry, i) else none
    | none => none

theorem positions_eq (c : Combiner) (q : PoolEntry → Bool) :
    c.positions q = ((c.holders q).insertionSort fun a b => a.1 ≤ b.1).map (·.2) := rfl

theorem mem_holders {c : Combiner} {q : PoolEntry → Bool} {a : Fin 200 × Fin 12} (h : a ∈ c.holders q) :
    ∃ e : PoolEntry, c.pool[a.2] = some e ∧ e.entry = a.1 := by
  obtain ⟨i, -, hi⟩ := List.mem_filterMap.1 h
  cases he : c.pool[i] with
  | none => rw [he] at hi; cases hi
  | some e =>
    simp only [he, Option.ite_none_right_eq_some, Option.some.injEq] at hi
    obtain ⟨-, rfl⟩ := hi
    exact ⟨e, he, rfl⟩

theorem holders_positions (c : Combiner) (q : PoolEntry → Bool) :
    (c.holders q).map (·.2) = (List.finRange 12).filter fun i => match c.pool[i] with
      | some e => q e
      | none => false := by
  unfold Combiner.holders
  rw [List.map_filterMap, ← List.filterMap_eq_filter]
  congr 1
  funext i
  cases he : c.pool[i] with
  | none => simp only [Option.guard, he]; rfl
  | some e => cases h : q e <;> simp only [Option.guard, he, h] <;> rfl

/-- Entries that close together close each once (assumption log 11). -/
theorem positions_nodup (c : Combiner) (q : PoolEntry → Bool) : (c.positions q).Nodup := by
  rw [positions_eq, ((List.perm_insertionSort _ _).map _).nodup_iff, holders_positions]
  exact (List.nodup_finRange 12).filter _

/-- Entries that close together close in the order of their roster entries (assumption log 11). -/
theorem positions_ordered (c : Combiner) (q : PoolEntry → Bool) :
    ((c.positions q).filterMap fun i => c.pool[i].map fun e => e.entry.1).Pairwise (· ≤ ·) := by
  have hsorted : ((c.holders q).insertionSort fun a b => a.1 ≤ b.1).Pairwise fun a b => a.1 ≤ b.1 :=
    List.pairwise_insertionSort _ _
  have hentries : ∀ l : List (Fin 200 × Fin 12), (∀ a ∈ l, a ∈ c.holders q) →
      (l.map (·.2)).filterMap (fun i => c.pool[i].map fun e => e.entry.1) = l.map fun a => a.1.1 := by
    intro l hl
    rw [List.filterMap_map, ← List.filterMap_eq_map]
    refine List.filterMap_congr fun a ha => ?_
    obtain ⟨e, he, hea⟩ := mem_holders (hl a ha)
    simp only [Function.comp_apply, he, Option.map_some, hea]
  rw [positions_eq, hentries _ fun a ha => (List.mem_insertionSort _).1 ha, List.pairwise_map]
  exact hsorted

theorem closedEntriesHandOver : Claims.ClosedEntriesHandOver := by
  refine fun s => ⟨fun i e he => closeAt_eq he, _, rfl, positions_nodup _ _, fun i => ?_, positions_ordered _ _⟩
  rw [mem_positions]
  simp only [covered_iff]

/-- Settles O23, by the search for a free position, the least window, and the list of the positions that close. -/
theorem poolEntriesOpenJoinAndClose : Obligations.PoolEntriesOpenJoinAndClose :=
  ⟨sightingsOpenAndJoinPoolEntries, recheckClosesCoveredEntries, closedEntriesHandOver, fullPoolMakesRoom⟩

/-! ### Windows and ages -/

theorem running_of_ticking {s : State} (h : Ticking s) : s.running = true := (running_iff s).2 ⟨h.2, h.1⟩

/-- The stranger table without the record of a position reports that it is empty exactly where this was the last (R24). -/
theorem strangersBecome_without {s : State} {i : Fin 8} {r : Stranger} (hr : s.combiner.strangers[i] = some r) :
    ((∀ j : Fin 8, j ≠ i → s.combiner.strangers[j] = none) → s.strangersBecome (setAt s.combiner.strangers i none) =
      (s.setStranger i none).post .combiner (.report ⟨.chamber, .stranger⟩ false)) ∧
    (∀ (j : Fin 8) (q : Stranger), j ≠ i → s.combiner.strangers[j] = some q →
      s.strangersBecome (setAt s.combiner.strangers i none) = s.setStranger i none) := by
  have hold : s.combiner.strangerCond = true := (strangerCond_iff _).2 ⟨i, r, hr⟩
  constructor
  · intro hlast
    have hnew : ({ s.combiner with strangers := setAt s.combiner.strangers i none } : Combiner).strangerCond = false :=
      strangerCond_eq_false fun j => by
        rw [setAt_get]
        split
        · rfl
        · rename_i hij; exact hlast j (Ne.symm hij)
    rw [State.strangersBecome, hold, hnew]; rfl
  · intro j q hj hq
    have hnew : ({ s.combiner with strangers := setAt s.combiner.strangers i none } : Combiner).strangerCond = true :=
      (strangerCond_iff _).2 ⟨j, q, by rw [setAt_get_ne _ hj.symm]; exact hq⟩
    rw [State.strangersBecome, hold, hnew, State.postChange_same]; rfl

theorem windowsAndStrangersExpire : Claims.WindowsAndStrangersExpire := by
  intro s hs
  have hrun := running_of_ticking hs
  refine ⟨fun i e he hw => ?_, fun i r hr hage => ?_⟩
  · have hdue : (s.running && windowDue s.combiner.pool[i]) = true := by
      rw [hrun, (windowDue_iff _).2 ⟨e, he, hw⟩]; rfl
    rw [exec_poolWindowExpiry, occur_due hs.1 hdue, closeAt_eq he]
  · have hdue : (s.running && strangerDue s.combiner.strangers[i]) = true := by
      rw [hrun, (strangerDue_iff _).2 ⟨r, hr, hage⟩]; rfl
    obtain ⟨hlast, hother⟩ := strangersBecome_without hr
    rw [exec_strangerAgeExpiry, occur_due hs.1 hdue]
    exact ⟨fun h => by rw [hlast h], fun j q hj hq => by rw [hother j q hj hq]⟩

/-- An entry past the lost time becomes LOST, whether its limit or a new lost time is judged (R51 to R53). -/
theorem loseEntry_eq {s : State} {n : Fin 200} {e : Entry} (he : s.roster[n] = some e) (h : lostDue s.tuning.lostTime e = true) :
    loseEntry n s = floorTakes n (lossReports n e s) := by
  rw [← judgeAge_lost he h]
  simp only [judgeAge, he, h, if_true]

theorem entriesFadeAndAreLost : Claims.EntriesFadeAndAreLost := by
  intro s n e hs he
  have hrun := running_of_ticking hs
  refine ⟨fun i hp hi hage hlost => ?_, fun hp hage => ?_⟩
  · have hdue : (s.running && s.fadingDueAt n) = true := by
      rw [hrun, (fadingDueAt_iff s n).2 ⟨e, i, he, hp, hi, hage, hlost⟩]; rfl
    rw [exec_entryFading, occur_due hs.1 hdue]
    simp only [fadeEntry, he]
  · have hdue : (s.running && s.lostDueAt n) = true := by
      rw [hrun, (lostDueAt_iff s n).2 ⟨e, he, hp, hage⟩]; rfl
    rw [exec_entryLost, occur_due hs.1 hdue, loseEntry_eq he ((lostDue_iff _ _).2 ⟨hp, hage⟩)]
    rfl

/-- Settles O31: each limit's row is due where the limit is reached, and what its event does. -/
theorem agesAndWindowsRunOut : Obligations.AgesAndWindowsRunOut := ⟨windowsAndStrangersExpire, entriesFadeAndAreLost⟩

end Sys2Proof.Machine
end

section
/-! PROOFS. Enrolment: ENROL (O24) and ENROL_STRANGER (O25), their checks in order, and what becomes of the unit's stranger record. -/

namespace Sys2Proof.Machine

/-! ### Seat, group and profile -/

theorem seatNumber_some {b : Byte} (h1 : 1 ≤ b.toNat) (h2 : b.toNat ≤ 250) : seatNumber b = some b.toNat := if_pos ⟨h1, h2⟩

theorem seatNumber_none {b : Byte} (h : b.toNat = 0 ∨ 250 < b.toNat) : seatNumber b = none := if_neg (by omega)

theorem groupNumber_some {b : Byte} {g : Fin 8} (h : b.toNat = g.1) : groupNumber b = some g := by
  rw [groupNumber, dif_pos (h ▸ g.2)]
  exact congrArg some (Fin.ext h)

theorem groupNumber_none {b : Byte} (h : 7 < b.toNat) : groupNumber b = none := dif_neg (by omega)

theorem strangerPosition_some {b : Byte} {i : Fin 8} (h : b.toNat = i.1) : strangerPosition b = some i := groupNumber_some h

theorem strangerPosition_none {b : Byte} (h : 7 < b.toNat) : strangerPosition b = none := groupNumber_none h

theorem placeOf_some {seat group profile : Byte} {g : Fin 8} {p : Fin 4} (h1 : 1 ≤ seat.toNat) (h2 : seat.toNat ≤ 250)
    (hg : group.toNat = g.1) (hp : profile.toNat = p.1) : placeOf seat group profile = some (seat.toNat, g, p) := by
  simp only [placeOf, seatNumber_some h1 h2, groupNumber_some hg, profileNumber, portNumber_some hp]

theorem placeOf_none {seat group profile : Byte} (h : seat.toNat = 0 ∨ 250 < seat.toNat ∨ 7 < group.toNat ∨ 3 < profile.toNat) :
    placeOf seat group profile = none := by
  unfold placeOf
  split
  · rename_i _ _ _ hs hg hp
    rcases h with h | h | h | h
    · rw [seatNumber_none (.inl h)] at hs; cases hs
    · rw [seatNumber_none (.inr h)] at hs; cases hs
    · rw [groupNumber_none h] at hg; cases hg
    · rw [profileNumber, portNumber_none h] at hp; cases hp
  · rfl

/-! ### Searches of the roster -/

theorem entryOfUnit_isSome {s : State} {u : UnitId} {n : Fin 200} {e : Entry} (he : s.roster[n] = some e) (hu : e.unit = u) :
    (s.entryOfUnit u).isSome = true := by
  rw [Option.isSome_iff_ne_none]
  exact fun h => entryOfUnit_none h he hu

theorem entryOfSeat_isSome {s : State} {seat : Nat} {n : Fin 200} {e : Entry} (he : s.roster[n] = some e) (hs : e.seat = seat) :
    (s.entryOfSeat seat).isSome = true := by
  rw [Option.isSome_iff_ne_none]
  exact fun h => entryOfSeat_none h he hs

theorem entryOfSeat_eq_none {s : State} {seat : Nat} (h : ∀ (n : Fin 200) (e : Entry), s.roster[n] = some e → e.seat ≠ seat) :
    s.entryOfSeat seat = none := by
  rw [State.entryOfSeat, firstIndex_eq_none]
  intro n
  cases he : s.roster[n] with
  | none => rfl
  | some e => exact beq_eq_false_iff_ne.2 (h n e he)

theorem freeEntry_eq_some {s : State} {n : Fin 200} (hn : s.roster[n] = none) (hno : ∀ m : Fin 200, m < n → s.roster[m] ≠ none) :
    s.freeEntry = some n :=
  firstIndex_eq_some.2 ⟨by rw [hn]; rfl, fun m hm => by rw [Option.isNone_eq_false_iff, Option.isSome_iff_ne_none]; exact hno m hm⟩

theorem freeEntry_eq_none {s : State} (h : ∀ n : Fin 200, s.roster[n] ≠ none) : s.freeEntry = none :=
  firstIndex_eq_none.2 fun n => by rw [Option.isNone_eq_false_iff, Option.isSome_iff_ne_none]; exact h n

/-! ### The stranger record -/

theorem forgetStranger_unknown {s : State} {u : UnitId}
    (hno : ∀ (j : Fin 8) (q : Stranger), s.combiner.strangers[j] = some q → q.unit ≠ u) : s.forgetStranger u = s := by
  rw [State.forgetStranger, strangerOf_eq_none hno]

/-- The only record of a unit is the one forgotten (R23). -/
theorem forgetStranger_eq {s : State} {u : UnitId} {i : Fin 8} {r : Stranger} (hr : s.combiner.strangers[i] = some r) (hu : r.unit = u)
    (honly : ∀ (j : Fin 8) (q : Stranger), s.combiner.strangers[j] = some q → q.unit = u → j = i) :
    s.forgetStranger u = s.strangersBecome (setAt s.combiner.strangers i none) := by
  rw [State.forgetStranger, strangerOf_eq_some hr hu fun j hj q hq hqu => absurd (honly j q hq hqu) (ne_of_lt hj)]

theorem strangerIsForgotten : Claims.StrangerIsForgotten := by
  refine fun s u => ⟨forgetStranger_unknown, fun i r hr hu honly s' hs' => ?_⟩
  obtain ⟨hlast, hother⟩ := strangersBecome_without hr
  rw [forgetStranger_eq hr hu honly]
  exact ⟨fun h => by rw [hlast h, hs']; rfl, fun j q hj hq => by rw [hother j q hj hq, hs']; rfl⟩

/-! ### ENROL -/

theorem badUnit_iff (u : UnitId) : badUnit u = true ↔ u = 0 ∨ u = 0xFFFFFF := by
  rw [badUnit, Bool.or_eq_true, beq_iff_eq, beq_iff_eq]

/-- ENROL once seat, group and profile are in range: the checks of R38 that are left, in their order. -/
theorem enrolBody_inRange {seat group profile : Byte} {g : Fin 8} {p : Fin 4} (h : placeOf seat group profile = some (seat.toNat, g, p))
    {u : UnitId} (hu : badUnit u = false) (s : State) : enrolBody u seat group profile s =
      if (s.entryOfUnit u).isSome then refuse s .duplicateUnit 1
      else if (s.entryOfSeat seat.toNat).isSome then refuse s .seatTaken 1
      else match s.freeEntry with
        | none => refuse s .rosterFull 1
        | some n => .acted (enrolAt n u seat.toNat g p s) (okReply [natByte n.1]) := by
  simp only [enrolBody, h, hu, Bool.false_eq_true, if_false] <;> rfl

theorem enrolBody_badArg {u : UnitId} {seat group profile : Byte} (h : u = 0 ∨ u = 0xFFFFFF ∨ seat.toNat = 0 ∨ 250 < seat.toNat ∨
    7 < group.toNat ∨ 3 < profile.toNat) (s : State) : enrolBody u seat group profile s = .answered s ⟨.badArg, [0]⟩ := by
  unfold enrolBody
  split
  · rfl
  · rename_i hplace
    split
    · rfl
    · rename_i hunit
      rw [badUnit_iff, not_or] at hunit
      rw [placeOf_none ((h.resolve_left hunit.1).resolve_left hunit.2)] at hplace
      cases hplace

theorem enrolIsChecked : Claims.EnrolIsChecked := by
  intro u seat group profile s hs
  have hexec := exec_enrol u seat group profile s
  refine ⟨fun h => onlyAnswers_of hs hexec (enrolBody_badArg h s), fun hu0 hu1 h1 h2 g p hg hp => ?_⟩
  have hunit : badUnit u = false := by
    rw [Bool.eq_false_iff, Ne, badUnit_iff]
    exact fun h => h.elim hu0 hu1
  have hbody := enrolBody_inRange (placeOf_some h1 h2 hg hp) hunit s
  refine ⟨fun ⟨n, e, he, heu⟩ => onlyAnswers_of hs hexec ?_, fun hnew => ⟨fun ⟨n, e, he, hes⟩ => onlyAnswers_of hs hexec ?_,
    fun hfree => ⟨fun hfull => onlyAnswers_of hs hexec ?_, fun n hn hno => brings_of hs hexec ?_⟩⟩⟩
  · rw [hbody, entryOfUnit_isSome he heu]; rfl
  · rw [hbody, entryOfUnit_eq_none hnew, entryOfSeat_isSome he hes]; rfl
  · rw [hbody, entryOfUnit_eq_none hnew, entryOfSeat_eq_none hfree, freeEntry_eq_none hfull]; rfl
  · rw [hbody, entryOfUnit_eq_none hnew, entryOfSeat_eq_none hfree, freeEntry_eq_some hn hno]; rfl

/-- Settles O24, by the branches of ENROL and the search for the unit's stranger record. -/
theorem enrolChecksAndCreates : Obligations.EnrolChecksAndCreates := ⟨enrolIsChecked, strangerIsForgotten⟩

/-! ### ENROL_STRANGER -/

/-- ENROL_STRANGER once position, seat, group and profile are in range: the checks of R40 that are left, in their order. -/
theorem enrolStrangerBody_inRange {b seat group profile : Byte} {i g : Fin 8} {p : Fin 4} (hi : strangerPosition b = some i)
    (h : placeOf seat group profile = some (seat.toNat, g, p)) (s : State) : enrolStrangerBody b seat group profile s =
      match s.combiner.strangers[i] with
      | none => refuse s .noEntry 4
      | some r =>
        if (s.entryOfSeat seat.toNat).isSome then refuse s .seatTaken 4
        else match s.freeEntry with
          | none => refuse s .rosterFull 4
          | some n => .acted (enrolAt n r.unit seat.toNat g p s) (okReply (natByte n.1 :: bytesOfUnit r.unit)) := by
  simp only [enrolStrangerBody, hi, h] <;> rfl

theorem enrolStrangerBody_badArg {b seat group profile : Byte} (h : 7 < b.toNat ∨ seat.toNat = 0 ∨ 250 < seat.toNat ∨ 7 < group.toNat ∨
    3 < profile.toNat) (s : State) : enrolStrangerBody b seat group profile s = .answered s ⟨.badArg, [0, 0, 0, 0]⟩ := by
  unfold enrolStrangerBody
  split
  · rename_i hpos hplace
    rcases h with h | h
    · rw [strangerPosition_none h] at hpos; cases hpos
    · rw [placeOf_none h] at hplace; cases hplace
  · rfl

theorem enrolStrangerIsChecked : Claims.EnrolStrangerIsChecked := by
  intro b seat group profile s hs
  have hexec := exec_enrolStranger b seat group profile s
  refine ⟨fun h => onlyAnswers_of hs hexec (enrolStrangerBody_badArg h s), fun h1 h2 i g p hi hg hp => ?_⟩
  have hbody := enrolStrangerBody_inRange (strangerPosition_some hi) (placeOf_some h1 h2 hg hp) s
  refine ⟨fun hnone => onlyAnswers_of hs hexec ?_, fun r hr => ⟨fun ⟨n, e, he, hes⟩ => onlyAnswers_of hs hexec ?_,
    fun hfree => ⟨fun hfull => onlyAnswers_of hs hexec ?_, fun n hn hno => brings_of hs hexec ?_⟩⟩⟩
  · rw [hbody, hnone]; rfl
  · rw [hbody, hr, entryOfSeat_isSome he hes]; rfl
  · rw [hbody, hr, entryOfSeat_eq_none hfree, freeEntry_eq_none hfull]; rfl
  · rw [hbody, hr, entryOfSeat_eq_none hfree, freeEntry_eq_some hn hno]; rfl

theorem enrolledRecordIsRemoved : Claims.EnrolledRecordIsRemoved := by
  intro b seat group profile i g p n r s s' hs hkey hi h1 h2 hg hp hr hfree hn hno hs'
  obtain ⟨-, hchecks⟩ := enrolStrangerIsChecked b seat group profile s hs
  obtain ⟨-, hrecord⟩ := hchecks h1 h2 i g p hi hg hp
  obtain ⟨-, hseat⟩ := hrecord r hr
  have hbrings := (hseat hfree).2 n hn hno
  rw [forgetStranger_setSlot, forgetStranger_eq hr rfl fun j q hq hu => hkey.strangerOnce j i q r hq hr hu] at hbrings
  obtain ⟨hlast, hother⟩ := strangersBecome_without hr
  constructor
  · intro hothers
    rw [hlast hothers] at hbrings
    rw [hs']; exact hbrings
  · intro j q hj hq
    rw [hother j q hj hq] at hbrings
    rw [hs']; exact hbrings

/-- Settles O25, by the branches of ENROL_STRANGER; the law of the keys makes the record named the unit's only one. -/
theorem enrolStrangerChecksAndCreates : Obligations.EnrolStrangerChecksAndCreates := ⟨enrolStrangerIsChecked, enrolledRecordIsRemoved⟩

end Sys2Proof.Machine
end


section
/-! PROOFS. The tuning items that store a value (O37). -/

namespace Sys2Proof.Machine

/-! ### Numeric items -/

/-- A numeric item whose body stores the value is carried out and answered with it. -/
theorem stored_of {i : Instr} {s t : State} {body : State → Handling} {v : BitVec 32} {x : Int} (hs : Ready s)
    (he : exec i s = runCommand i body s) (hb : body s = .answered t (storedValue v x)) :
    exec i s = .next (complete i ⟨if x = v.toInt then .ok else .adjusted, bytesOfValue (BitVec.ofInt 32 x)⟩ t) := by
  rw [he, runCommand_ready hs, hb, storedValue_eq]; rfl

/-- A value that only its range limits (R172). -/
theorem adjustValue_unit {lo hi : Int} (h : lo ≤ hi) (v : Int) : adjustValue lo hi 1 v = max lo (min hi v) := by
  rw [adjustValue_eq h, Int.ediv_one, mul_one]

theorem numericItemsAreStored : Claims.NumericItemsAreStored := by
  intro v s hs
  refine ⟨⟨_, rfl, stored_of hs (exec_setCombiningWindow v s) ?_⟩, ⟨_, rfl, stored_of hs (exec_setSignalFloor v s) ?_⟩,
    ⟨_, rfl, stored_of hs (exec_setSmoothingShift v s) ?_⟩, ⟨_, rfl, stored_of hs (exec_setSilentTime v s) ?_⟩⟩
  · simp only [setCombiningWindowBody, adjustValue_unit (show (2 : Int) ≤ 40 by decide)]; rfl
  · simp only [setSignalFloorBody, adjustValue_unit (show (-110 : Int) ≤ -60 by decide)]; rfl
  · simp only [setSmoothingShiftBody, adjustValue_unit (show (1 : Int) ≤ 3 by decide)]; rfl
  · simp only [setSilentTimeBody, adjustValue_eq (show (1000 : Int) ≤ 120000 by decide)]; rfl

/-! ### The signal thresholds -/

theorem signalThresholdsStayApart : Claims.SignalThresholdsStayApart := by
  intro v s hs
  have hweak := adjustValue_unit (show (0 : Int) ≤ 40 by decide) v.toInt
  have hpoor := adjustValue_unit (show (-10 : Int) ≤ 39 by decide) v.toInt
  refine ⟨⟨_, rfl, fun h => onlyAnswers_of hs (exec_setWeakThreshold v s) ?_, fun h => stored_of hs (exec_setWeakThreshold v s) ?_⟩,
    ⟨_, rfl, fun h => onlyAnswers_of hs (exec_setPoorThreshold v s) ?_, fun h => stored_of hs (exec_setPoorThreshold v s) ?_⟩⟩
  · simp only [setWeakThresholdBody, hweak, if_neg (not_lt.2 h)]; rfl
  · simp only [setWeakThresholdBody, hweak, if_pos h]; rfl
  · simp only [setPoorThresholdBody, hpoor, if_neg (not_lt.2 h)]; rfl
  · simp only [setPoorThresholdBody, hpoor, if_pos h]; rfl

/-! ### The on/off items and the IRQ mask -/

theorem onOffValue_none {v : BitVec 32} (h : 2 ≤ v.toNat) : onOffValue v = none := by
  unfold onOffValue
  split
  · omega
  · omega
  · rfl

theorem onOffValue_some {v : BitVec 32} {on : Bool} (h : v.toNat = on.toNat) : onOffValue v = some on := by
  cases on with
  | false => simp only [onOffValue, h, Bool.toNat_false]
  | true => simp only [onOffValue, h, Bool.toNat_true]

/-- How the hold follows the chair's claim (R109). -/
theorem followClaim_eq (s : State) : followClaim s = match s.floor.cause, s.chairClaims with
    | .none, true => beginHold s
    | .chair, false => endHold s
    | _, _ => s := by
  unfold followClaim
  cases s.floor.cause <;> cases s.chairClaims <;> rfl

/-- With the priority function switched, the chair claims where the function is on and the chair speaks (R108, R112). -/
theorem chairClaims_withPriority (s : State) (on : Bool) :
    (s.setTuning { s.tuning with priority := on }).chairClaims = (on && s.chairSpeaking) := by
  exact Bool.and_comm _ _

/-- The nine class bits of the mask read back as a value (R133). -/
theorem maskValue_eq (v : BitVec 32) : (v.setWidth 9).setWidth 32 = v &&& 0x1FF := by
  apply BitVec.eq_of_toNat_eq
  have hmask : v.toNat &&& (2 ^ 9 - 1) = v.toNat % 2 ^ 9 := Nat.and_two_pow_sub_one_eq_mod _ _
  have hand : (v &&& 0x1FF).toNat = v.toNat &&& (2 ^ 9 - 1) := rfl
  rw [hand, hmask, BitVec.toNat_setWidth, BitVec.toNat_setWidth]
  omega

theorem switchesAndMaskAreStored : Claims.SwitchesAndMaskAreStored := by
  intro v s hs
  refine ⟨fun h => ⟨onlyAnswers_of hs (exec_setAutoRevoke v s) ?_, onlyAnswers_of hs (exec_setPriorityFunction v s) ?_⟩,
    fun on h => ⟨?_, brings_of hs (exec_setPriorityFunction v s) ?_⟩, ?_⟩
  · rw [setAutoRevokeBody, onOffValue_none h]; rfl
  · rw [setPriorityFunctionBody, onOffValue_none h]; rfl
  · rw [exec_setAutoRevoke, runCommand_ready hs, setAutoRevokeBody, onOffValue_some h]; rfl
  · rw [setPriorityFunctionBody, onOffValue_some h]
    simp only [followClaim_eq, chairClaims_withPriority]
    rfl
  · rw [exec_setIrqMask, runCommand_ready hs, setIrqMaskBody, maskValue_eq]; rfl

/-- Settles O37, by the bodies of the items; each stored value is the clamped one. -/
theorem settingsAreStored : Obligations.SettingsAreStored :=
  ⟨numericItemsAreStored, signalThresholdsStayApart, switchesAndMaskAreStored⟩

end Sys2Proof.Machine
end


section
/-! PROOFS. The attention list acknowledged and read, the strangers read, readmission after several warnings, and IRQ_N (O48). -/

namespace Sys2Proof.Machine

/-! ### Several readmissions -/

/-- Readmission for several freed places is readmission of one place, repeated (R126). -/
theorem readmitMany_eq_iterate (k : Nat) (g : Engine) : Engine.readmitMany k g = Engine.readmit^[k] g := by
  induction k generalizing g with
  | zero => rfl
  | succ k ih => rw [Engine.readmitMany, ih, Function.iterate_succ_apply]

/-- What a filter leaves out has the length that the list loses. -/
theorem length_sub_filter_not {α : Type} (p : α → Bool) (l : List α) :
    l.length - (l.filter fun a => !p a).length = (l.filter p).length := by
  have := List.length_eq_length_filter_add (l := l) p
  omega

/-- A name among those of the selected records belongs to a selected record. -/
theorem contains_selected (l : List WarnRecord) (sel : WarnRecord → Bool) (id : WarnId) :
    ((l.filter sel).map (·.id)).contains id = l.any fun r => r.id = id ∧ sel r := by
  rw [Bool.eq_iff_iff]
  simp only [List.contains_iff_mem, List.mem_map, List.mem_filter, List.any_eq_true, decide_eq_true_eq]
  exact exists_congr fun r => by tauto

theorem quietAll_eq (g : Engine) (sel : WarnRecord → Bool) : g.quietAll sel =
    Engine.readmit^[(g.attention.filter fun id => g.warnings.any fun r => r.id = id ∧ sel r).length]
      { g with
        warnings := g.warnings.filter fun r => !sel r
        attention := g.attention.filter fun id => !(g.warnings.any fun r => r.id = id ∧ sel r) } := by
  unfold Engine.quietAll
  simp only [readmitMany_eq_iterate, contains_selected, length_sub_filter_not]

/-- Two selections that agree are one. -/
theorem selection_eq {p q : WarnRecord → Bool} (h : ∀ r, p r = true ↔ q r = true) : p = q :=
  funext fun r => Bool.eq_iff_iff.2 (h r)

theorem quietingActs (s : State) (n : Fin 200) (sel : WarnRecord → Bool) :
    ((∀ r, sel r = true ↔ r.id.subject = .entry n ∧ (r.id.cls = .battLow ∨ r.id.cls = .battCritical) ∧ r.state = .standing) →
      applyAct s (.quietCells n) = { s with engine := s.engine.quietAll sel }) ∧
    ((∀ r, sel r = true ↔ r.id.subject = .entry n) → applyAct s (.quietEntry n) = { s with engine := s.engine.quietAll sel }) ∧
    ((∀ r, sel r = true ↔ r.id.cls = .sigLost ∨ r.id.cls = .sigWeak ∨ r.id.cls = .hotMic ∨ r.id.cls = .silentFloor) →
      applyAct s .quietSitting = { s with engine := s.engine.quietAll sel }) := by
  refine ⟨fun h => ?_, fun h => ?_, fun h => ?_⟩
  · rw [selection_eq (q := standingCells n) fun r => (h r).trans (by simp [standingCells, and_assoc])]; rfl
  · rw [selection_eq (q := fun r => r.id.subject == .entry n) fun r => (h r).trans (by simp)]; rfl
  · rw [selection_eq (q := fun r => r.id.cls.sitting) fun r => (h r).trans (by cases r.id.cls <;> simp [WClass.sitting])]; rfl

/-! ### ACK_LISTED -/

/-- What ACK_LISTED leaves of one record (R130). -/
def Engine.listTaken (g : Engine) (r : WarnRecord) : Option WarnRecord := if g.listed r.id then acknowledgedRecord r else some r

theorem acknowledgeListed_eq (g : Engine) : g.acknowledgeListed =
    Engine.readmit^[g.attention.length] { g with warnings := g.warnings.filterMap g.listTaken, attention := [] } :=
  readmitMany_eq_iterate _ _

theorem listTaken_id {g : Engine} {r q : WarnRecord} (h : g.listTaken r = some q) : q.id = r.id := by
  unfold Engine.listTaken at h
  split at h
  · exact (acknowledgedRecord_id h).1
  · cases h; rfl

theorem listed_iff (g : Engine) (id : WarnId) : g.listed id = true ↔ id ∈ g.attention := by simp [Engine.listed]

/-- A warning after ACK_LISTED: what becomes of the record it had. -/
theorem acknowledgeListed_find {g : Engine} (h : AttentionLaw g) (id : WarnId) :
    g.acknowledgeListed.find id = (g.find id).bind g.listTaken := by
  have hwarn : g.acknowledgeListed.warnings = g.warnings.filterMap g.listTaken := Engine.readmitMany_warnings _ _
  cases hf : g.find id with
  | none =>
    refine List.find?_eq_none.2 fun q hq => ?_
    obtain ⟨r, hr, hrq⟩ := List.mem_filterMap.1 (hwarn ▸ hq)
    have : q.id ≠ id := by rw [listTaken_id hrq]; exact Engine.find_none hf r hr
    simpa using this
  | some r =>
    obtain ⟨hr, rfl⟩ := Engine.find_some hf
    cases ht : g.listTaken r with
    | none =>
      refine Eq.trans (List.find?_eq_none.2 fun q hq => ?_) ht.symm
      obtain ⟨p, hp, hpq⟩ := List.mem_filterMap.1 (hwarn ▸ hq)
      have : q.id ≠ r.id := fun e => by
        rw [listTaken_id hpq] at e
        have hp' := find_of_mem h.keys hp
        rw [e, find_of_mem h.keys hr] at hp'
        cases hp'
        rw [ht] at hpq; cases hpq
      simpa using this
    | some q =>
      rw [Option.bind_some, ht, ← listTaken_id ht]
      refine find_of_mem (l := g.acknowledgeListed.warnings) ?_ ?_
      · rw [hwarn]; exact filterMap_keys (fun _ _ => listTaken_id) h.keys
      · rw [hwarn]; exact List.mem_filterMap.2 ⟨r, hr, ht⟩

/-- What ACK_LISTED lists was not listed before (R130). -/
theorem acknowledgeListed_attention {g : Engine} {id : WarnId} (hid : id ∈ g.acknowledgeListed.attention) : id ∉ g.attention := by
  rcases Engine.mem_readmitMany hid with hnil | ⟨q, hq, hp, rfl⟩
  · cases hnil
  · obtain ⟨r, -, hrq⟩ := List.mem_filterMap.1 hq
    intro hmem
    rw [listTaken_id (g := g) hrq] at hmem
    rw [if_pos ((listed_iff g r.id).2 hmem)] at hrq
    rw [(acknowledgedRecord_id hrq).2] at hp
    cases hp

theorem ackListed_brings {s : State} (hs : Ready s) :
    Brings .ackListed s { s with engine := s.engine.acknowledgeListed } ⟨.ok, [natByte s.engine.attention.length]⟩ :=
  brings_of hs (exec_ackListed s) rfl

theorem listIsTaken {s : State} (hs : Ready s) (hp : s.engine.posted = []) (hlaw : AttentionLaw s.engine) :
    ∃ t : State, exec .ackListed s = .next t ∧
      t = complete .ackListed ⟨.ok, [natByte s.engine.attention.length]⟩ { s with engine := t.engine, lines := t.lines } ∧
      t.engine.counter = s.engine.counter ∧
      (∀ id ∈ s.engine.attention, ∀ st x, s.engine.find id = some ⟨id, st, x⟩ →
        t.engine.find id = (if st = .raised then some ⟨id, .noted, x⟩ else none)) ∧
      (∀ id, id ∉ s.engine.attention → t.engine.find id = s.engine.find id) ∧
      (∀ id ∈ t.engine.attention, id ∉ s.engine.attention) := by
  have hposted : s.engine.acknowledgeListed.posted = [] := (Engine.acknowledgeListed_posted _).trans hp
  have hfinish := finish_eq_settleLines (s := { s with engine := s.engine.acknowledgeListed }) hposted
  have hbrings := ackListed_brings hs
  rw [Brings, hfinish] at hbrings
  refine ⟨_, hbrings, rfl, Engine.readmitMany_counter _ _, fun id hid st x hf => ?_, fun id hid => ?_,
    fun id hid => acknowledgeListed_attention hid⟩
  · refine (acknowledgeListed_find hlaw id).trans ?_
    obtain ⟨r, hr, hpend⟩ := hlaw.find_listed hid
    rw [hf] at hr; cases hr
    rw [hf, Option.bind_some, Engine.listTaken, if_pos ((listed_iff _ _).2 hid)]
    cases st with
    | raised => rfl
    | noted => cases hpend
    | standing => rfl
  · refine (acknowledgeListed_find hlaw id).trans ?_
    cases hf : s.engine.find id with
    | none => rfl
    | some r =>
      obtain ⟨-, rfl⟩ := Engine.find_some hf
      rw [Option.bind_some, Engine.listTaken, if_neg fun h => hid ((listed_iff _ _).1 h)]

/-! ### READ_ATTENTION and READ_STRANGERS -/

theorem listIsTakenAndRead : Claims.ListIsTakenAndRead := by
  intro s hs
  have hread : ∀ b : Byte, b.toNat < 32 →
      readAttentionBody b s = .answered s (okReply (s.engine.attentionRecord b.toNat)) := fun b hb => if_pos hb
  refine ⟨listIsTaken hs, fun b hb => onlyAnswers_of hs (exec_readAttention b s) ?_,
    fun b hb hlen => onlyAnswers_of hs (exec_readAttention b s) ?_,
    fun b id st x hb hid hf => onlyAnswers_of hs (exec_readAttention b s) ?_, onlyAnswers_of hs (exec_readStrangers s) ?_⟩
  · exact if_neg (not_lt.2 hb)
  · rw [hread b hb, Engine.attentionRecord, Engine.attentionEntry, List.getElem?_eq_none hlen]; rfl
  · rw [hread b hb, Engine.attentionRecord]
    simp only [Engine.attentionEntry, hid, hf]; rfl
  · rfl

/-! ### Readmission after several warnings -/

theorem placesAreFreedThenReadmitted : Claims.PlacesAreFreedThenReadmitted := by
  refine ⟨quietAll_eq, quietingActs, fun s hs hp => ?_⟩
  have hbrings := ackListed_brings hs
  have htaken : s.engine.listTaken = fun r => if r.id ∈ s.engine.attention then (match r.state with
      | .raised => some ⟨r.id, .noted, r.stamp⟩
      | .noted => some r
      | .standing => none) else some r := by
    funext r
    unfold Engine.listTaken acknowledgedRecord
    simp only [listed_iff] <;> rfl
  rwa [acknowledgeListed_eq, htaken] at hbrings

/-! ### IRQ_N -/

theorem interruptFollowsTheList : Claims.InterruptFollowsTheList := by
  intro s
  have hbit : ∀ c : WClass, inClassSet s.tuning.irqMask c = s.tuning.irqMask.getLsbD (match c with
      | .sigLost => 0
      | .battCritical => 1
      | .receiverSilent => 2
      | .sigWeak => 3
      | .hotMic => 4
      | .battLow => 5
      | .silentFloor => 6
      | .lampFault => 7
      | .stranger => 8) := fun c => by cases c <;> rfl
  simp only [State.irqAsserted, Bool.and_eq_true, Bool.not_eq_true', List.any_eq_true, hbit] <;> rfl

/-- Settles O48: ACK_LISTED by what it leaves of each record, a quieting as a filter and repeated readmission. -/
theorem listIsAcknowledgedAndRead : Obligations.ListIsAcknowledgedAndRead :=
  ⟨listIsTakenAndRead, placesAreFreedThenReadmitted, interruptFollowsTheList⟩

end Sys2Proof.Machine
end


section
/-! PROOFS. What a taking of acts leaves: the acts in some order (R118), reports without a subject, and forced quiet. -/

namespace Sys2Proof.Machine

/-! ### The acts are those posted, in an open order -/

/-- The blocks of a listing bring exactly what was posted, where the listing names the block of the newest act once. -/
theorem flatMap_actsOf_cons {bs : List Block} (hb : bs.Nodup) (p : Posted) (hp : p.block ∈ bs) (l : List Posted) :
    (bs.flatMap (actsOf (p :: l))).Perm (p.act :: bs.flatMap (actsOf l)) := by
  obtain ⟨as, cs, rfl⟩ := List.append_of_mem hp
  rw [List.nodup_middle, List.nodup_cons, List.mem_append, not_or] at hb
  obtain ⟨⟨ha, hc⟩, -⟩ := hb
  have hother : ∀ ds : List Block, p.block ∉ ds → ds.flatMap (actsOf (p :: l)) = ds.flatMap (actsOf l) := fun ds hd =>
    List.flatMap_congr fun b hbs => by
      have : (p.block == b) = false := beq_eq_false_iff_ne.2 fun e => hd (by rwa [e])
      simp only [actsOf, List.filter_cons, this, Bool.false_eq_true, if_false]
  have hown : actsOf (p :: l) p.block = p.act :: actsOf l p.block := by simp [actsOf]
  rw [List.flatMap_append, List.flatMap_append, List.flatMap_cons, List.flatMap_cons, hother as ha, hother cs hc, hown]
  exact List.perm_middle

theorem mem_allBlocks (b : Block) : b ∈ allBlocks := by cases b <;> decide

/-- Every act posted belongs to one block. -/
theorem flatMap_actsOf_perm (l : List Posted) : (allBlocks.flatMap (actsOf l)).Perm (l.map (·.act)) := by
  induction l with
  | nil => exact List.Perm.refl _
  | cons p l ih => exact (flatMap_actsOf_cons (by decide) p (mem_allBlocks _) l).trans (ih.cons _)

/-- The engine takes exactly the acts posted, in some order (R118). -/
theorem takeReports_order (s : State) : ∃ l : List Act, l.Perm (s.engine.posted.map (·.act)) ∧
    s.takeReports = l.foldl applyAct
      { s with engine := { s.engine with posted := [] }, choice := s.choice + s.engine.posted.length } := by
  have hperm : (allBlocks.map (actsOf s.engine.posted)).flatten.Perm (s.engine.posted.map (·.act)) :=
    flatMap_actsOf_perm s.engine.posted
  have hfuel : (allBlocks.map (actsOf s.engine.posted)).flatten.length ≤ s.engine.posted.length :=
    le_of_eq (hperm.length_eq.trans (List.length_map _))
  exact ⟨_, (shuffle_spec s.choice _ _ hfuel).1.trans hperm, rfl⟩

/-- A property that every posted act keeps is kept by the taking of all. -/
theorem takeReports_induct {P : State → Prop} {s : State}
    (h0 : P { s with engine := { s.engine with posted := [] }, choice := s.choice + s.engine.posted.length })
    (hs : ∀ q ∈ s.engine.posted, ∀ u, P u → P (applyAct u q.act)) : P s.takeReports := by
  obtain ⟨l, hl, ht⟩ := takeReports_order s
  rw [ht]
  refine forList_induct (f := fun a u => applyAct u a) l _ h0 fun a ha u hu => ?_
  obtain ⟨q, hq, rfl⟩ := List.mem_map.1 (hl.subset ha)
  exact hs q hq u hu

/-- A property that one posted act brings about, and that every act keeps, holds when all have been taken. -/
theorem takeReports_reach {I P : State → Prop} {s : State} {q : Posted} (hq : q ∈ s.engine.posted)
    (h0 : I { s with engine := { s.engine with posted := [] }, choice := s.choice + s.engine.posted.length })
    (hI : ∀ a u, I u → I (applyAct u a)) (hP : ∀ p ∈ s.engine.posted, ∀ u, I u → P u → P (applyAct u p.act))
    (hact : ∀ u, I u → P (applyAct u q.act)) : P s.takeReports := by
  obtain ⟨l, hl, ht⟩ := takeReports_order s
  obtain ⟨a, b, rfl⟩ := List.append_of_mem (hl.symm.subset (List.mem_map_of_mem hq))
  have hb : ∀ c ∈ b, ∃ p ∈ s.engine.posted, p.act = c := fun c hc => by
    have : c ∈ s.engine.posted.map (·.act) := hl.subset (List.mem_append_right _ (List.mem_cons_of_mem _ hc))
    exact List.mem_map.1 this
  have hbefore := forList_induct (P := I) (f := fun c u => applyAct u c) a _ h0 fun c _ u hu => hI c u hu
  rw [ht, List.foldl_append, List.foldl_cons]
  refine (forList_induct (P := fun u => I u ∧ P u) (f := fun c u => applyAct u c) b _ ⟨hI _ _ hbefore, hact _ hbefore⟩
    fun c hc u hu => ?_).2
  obtain ⟨p, hp, rfl⟩ := hb c hc
  exact ⟨hI _ _ hu.1, hP p hp u hu.1 hu.2⟩

/-! ### Warnings in the table -/

theorem mem_putRecord_sub {r x : WarnRecord} {l : List WarnRecord} (h : x ∈ putRecord r l) : x = r ∨ x ∈ l := by
  induction l with
  | nil => exact .inl (List.mem_singleton.1 h)
  | cons y ys ih =>
    unfold putRecord at h
    split at h
    · exact (List.mem_cons.1 h).imp_right (List.mem_cons_of_mem _)
    · split at h
      · exact List.mem_cons.1 h
      · rcases List.mem_cons.1 h with rfl | h
        · exact .inr (List.mem_cons_self ..)
        · exact (ih h).imp_right (List.mem_cons_of_mem _)

/-- A raise brings a record of the warning raised and no other. -/
theorem raise_warnings_sub {g : Engine} {id : WarnId} {r : WarnRecord} (h : r ∈ (g.raise id).warnings) : r.id = id ∨ r ∈ g.warnings := by
  unfold Engine.raise at h
  split at h
  · exact (mem_putRecord_sub h).imp_left fun e => by rw [e]
  · exact (mem_putRecord_sub h).imp_left fun e => by rw [e]
  · exact .inr h
  · exact .inr h

/-- A clear leaves no record but of warnings that had one. -/
theorem clear_warnings_sub {g : Engine} {t : PendingType} {id : WarnId} {r : WarnRecord} (h : r ∈ (g.clear t id).warnings) :
    ∃ q ∈ g.warnings, q.id = r.id := by
  unfold Engine.clear at h
  split at h
  · rename_i x hx
    split at h
    · rw [Engine.leave_warnings] at h
      exact ⟨r, (List.mem_filter.1 h).1, rfl⟩
    · rcases mem_putRecord_sub h with rfl | h
      · obtain ⟨hmem, hid⟩ := Engine.find_some hx
        exact ⟨_, hmem, hid⟩
      · exact ⟨r, h, rfl⟩
  · exact ⟨r, (List.mem_filter.1 h).1, rfl⟩
  · exact ⟨r, h, rfl⟩
  · exact ⟨r, h, rfl⟩

theorem quietAll_warnings (g : Engine) (sel : WarnRecord → Bool) : (g.quietAll sel).warnings = g.warnings.filter fun r => !sel r :=
  Engine.readmitMany_warnings _ _

/-- No warning of a set is in the table. -/
def Engine.lacks (g : Engine) (W : WarnId → Prop) : Prop := ∀ r ∈ g.warnings, ¬ W r.id

theorem quietAll_lacks {g : Engine} {W : WarnId → Prop} (h : g.lacks W) (sel : WarnRecord → Bool) : (g.quietAll sel).lacks W := by
  intro r hr
  rw [quietAll_warnings] at hr
  exact h r (List.mem_filter.1 hr).1

/-- A report brings a warning of the set only where it raises one of a subject that there is. -/
theorem takeReport_lacks {s : State} {W : WarnId → Prop} (h : s.engine.lacks W) {id : WarnId} {v : Bool}
    (hv : v = true → s.hasSubject id.subject = true → ¬ W id) : (s.takeReport id v).engine.lacks W := by
  unfold State.takeReport
  split
  · rename_i hsub
    intro r hr
    cases v with
    | true =>
      rcases raise_warnings_sub hr with e | hr
      · rw [e]; exact hv rfl hsub
      · exact h r hr
    | false =>
      obtain ⟨q, hq, e⟩ := clear_warnings_sub hr
      rw [← e]; exact h q hq
  · exact h

/-- The warnings that an act reports true. -/
def Act.raises : Act → WarnId → Prop
  | .report id v, w => w = id ∧ v = true
  | .both id₁ v₁ id₂ v₂, w => w = id₁ ∧ v₁ = true ∨ w = id₂ ∧ v₂ = true
  | .quietCells _, _ => False
  | .quietEntry _, _ => False
  | .quietSitting, _ => False

theorem takeReport_hasSubject (s : State) (id : WarnId) (v : Bool) (x : Subject) : (s.takeReport id v).hasSubject x = s.hasSubject x := by
  rw [(takeReport_engineStep s id v).rest]; rfl

theorem applyAct_hasSubject (s : State) (a : Act) (x : Subject) : (applyAct s a).hasSubject x = s.hasSubject x := by
  rw [(applyAct_engineStep s a).rest]; rfl

theorem applyAct_lacks {s : State} {W : WarnId → Prop} (h : s.engine.lacks W) (a : Act)
    (ha : ∀ w, a.raises w → s.hasSubject w.subject = true → ¬ W w) : (applyAct s a).engine.lacks W := by
  cases a with
  | report id v => exact takeReport_lacks h fun hv => ha id ⟨rfl, hv⟩
  | both id₁ v₁ id₂ v₂ =>
    have h1 : ∀ u : State, (∀ x, u.hasSubject x = s.hasSubject x) → u.engine.lacks W → (u.takeReport id₁ v₁).engine.lacks W :=
      fun u hu hl => takeReport_lacks hl fun hv hsub => ha id₁ (.inl ⟨rfl, hv⟩) (by rwa [← hu])
    have h2 : ∀ u : State, (∀ x, u.hasSubject x = s.hasSubject x) → u.engine.lacks W → (u.takeReport id₂ v₂).engine.lacks W :=
      fun u hu hl => takeReport_lacks hl fun hv hsub => ha id₂ (.inr ⟨rfl, hv⟩) (by rwa [← hu])
    unfold applyAct; simp only; split
    · exact h2 _ (takeReport_hasSubject _ _ _) (h1 _ (fun _ => rfl) h)
    · exact h1 _ (takeReport_hasSubject _ _ _) (h2 _ (fun _ => rfl) h)
  | quietCells n => exact quietAll_lacks h _
  | quietEntry n => exact quietAll_lacks h _
  | quietSitting => exact quietAll_lacks h _

/-- A forced quiet leaves none of the warnings it selects. -/
theorem quietAll_lacks_selected (g : Engine) {sel : WarnRecord → Bool} {W : WarnId → Prop} (h : ∀ r, W r.id → sel r = true) :
    (g.quietAll sel).lacks W := by
  intro r hr hW
  rw [quietAll_warnings] at hr
  have := (List.mem_filter.1 hr).2
  rw [h r hW] at this
  cases this

/-- After an entry's forced quiet nothing of it is left, where its slot is empty (R47, R118). -/
theorem takeReports_quietEntry {s : State} {n : Fin 200} (hn : s.roster[n] = none) {b : Block}
    (hq : ⟨b, .quietEntry n⟩ ∈ s.engine.posted) : s.takeReports.engine.lacks fun w => w.subject = .entry n := by
  refine takeReports_reach (I := fun u => u.hasSubject (.entry n) = false) (P := fun u => u.engine.lacks fun w => w.subject = .entry n) hq ?_ (fun a u hu => ?_) (fun p _ u hu hl => ?_) fun u _ => ?_
  · simp only [State.hasSubject, hn, Option.isSome_none]
  · rwa [applyAct_hasSubject]
  · refine applyAct_lacks hl _ fun w _ hsub hw => ?_
    rw [hw, hu] at hsub; cases hsub
  · exact quietAll_lacks_selected _ fun r hr => by simpa using hr

/-- Where nothing but reports of an empty slot and its forced quiet is posted, every other warning stays (R47, R118). -/
theorem takeReports_ofEntry {s : State} {n : Fin 200} (hn : s.roster[n] = none)
    (hall : ∀ q ∈ s.engine.posted, q.act = .quietEntry n ∨ ∃ (c : WClass) (v : Bool), q.act = .report ⟨.entry n, c⟩ v)
    {r : WarnRecord} (hr : r ∈ s.engine.warnings) (hne : r.id.subject ≠ .entry n) : r ∈ s.takeReports.engine.warnings := by
  refine (takeReports_induct (P := fun u => u.hasSubject (.entry n) = false ∧ r ∈ u.engine.warnings) ⟨?_, hr⟩
    fun q hq u hu => ⟨by rw [applyAct_hasSubject]; exact hu.1, ?_⟩).2
  · simp only [State.hasSubject, hn, Option.isSome_none]
  · rcases hall q hq with e | ⟨c, v, e⟩ <;> rw [e]
    · show r ∈ (u.engine.quietAll _).warnings
      rw [quietAll_warnings]
      exact List.mem_filter.2 ⟨hu.2, by simpa using hne⟩
    · rw [applyAct, State.takeReport, hu.1]
      exact hu.2

/-- No act brings a warning that had no record, save by a report of it as true. -/
theorem takeReports_ofEntry_sub {s : State} {n : Fin 200} (hn : s.roster[n] = none)
    (hall : ∀ q ∈ s.engine.posted, q.act = .quietEntry n ∨ ∃ (c : WClass) (v : Bool), q.act = .report ⟨.entry n, c⟩ v)
    {r : WarnRecord} (hr : r ∈ s.takeReports.engine.warnings) : r ∈ s.engine.warnings := by
  refine (takeReports_induct (P := fun u => u.hasSubject (.entry n) = false ∧ (r ∈ u.engine.warnings → r ∈ s.engine.warnings)) ⟨?_, id⟩
    fun q hq u hu => ⟨by rw [applyAct_hasSubject]; exact hu.1, fun h => hu.2 ?_⟩).2 hr
  · simp only [State.hasSubject, hn, Option.isSome_none]
  · rcases hall q hq with e | ⟨c, v, e⟩ <;> rw [e] at h
    · have h : r ∈ (u.engine.quietAll _).warnings := h
      rw [quietAll_warnings] at h
      exact (List.mem_filter.1 h).1
    · rw [applyAct, State.takeReport, hu.1] at h
      exact h

end Sys2Proof.Machine
end


section
/-! PROOFS. Deriving entries afresh, freeing a slot and moving the floor back: what each leaves (R97, R100, R106, R108). -/

namespace Sys2Proof.Machine

/-! ### Speaking and the terms of the hot-mic timer -/

/-- An operation of the floor arbiter that leaves the holders leaves who is speaking. -/
theorem FloorStep.speaking {s t : State} (h : FloorStep s t) (hl : ∀ k : Fin 6, t.floor.liveHolder k = s.floor.liveHolder k)
    (m : Fin 200) : t.speaking m = s.speaking m := by
  have hslot : t.floor.liveSlotOf m = s.floor.liveSlotOf m := by unfold Floor.liveSlotOf; simp only [hl]
  obtain ⟨x, hx⟩ := h.roster m
  unfold State.speaking
  rw [hx, hslot, h.mode]
  cases s.roster[m] <;> rfl

/-- An operation of the floor arbiter that leaves the holders leaves the terms of every hot-mic timer. -/
theorem FloorStep.hotTerms {s t : State} (h : FloorStep s t) (hl : ∀ k : Fin 6, t.floor.liveHolder k = s.floor.liveHolder k)
    (hh : ∀ k : Fin 6, t.floor.held[k] = s.floor.held[k]) (m : Fin 200) (e : Entry) : t.hotTerms m e = s.hotTerms m e := by
  have hslot : t.floor.heldSlotOf m = s.floor.heldSlotOf m := by unfold Floor.heldSlotOf; simp only [hh]
  unfold State.hotTerms
  rw [h.speaking hl, hslot, h.mode, h.chair]

/-- The terms of an entry's hot-mic timer do not look at the timer. -/
theorem hotTerms_setHot (s : State) (m : Fin 200) (e : Entry) (h : Option HotTimer) :
    s.hotTerms m { e with hot := h } = s.hotTerms m e := rfl

/-! ### One entry derived afresh -/

/-- The hot-mic timer derived afresh, by whether its terms hold (R106). -/
def timerDerived (runs : Bool) (delay : Nat) (h : Option HotTimer) : Option HotTimer :=
  if runs then some (h.getD ⟨0, delay == 0⟩) else none

theorem timerDerived_twice (runs : Bool) (d : Nat) (h : Option HotTimer) :
    timerDerived runs d (timerDerived runs d h) = timerDerived runs d h := by
  cases runs <;> rfl

/-- What a hot-mic timer derived afresh reports (R106): HOT_MIC true at a start with a hot delay of 0, and false at the stop of a timer
that had reached the delay. -/
def timerReports (n : Fin 200) (runs : Bool) (delay : Nat) (h : Option HotTimer) : List Posted :=
  if runs then (if h = none ∧ delay = 0 then [⟨.floor, .report ⟨.entry n, .hotMic⟩ true⟩] else [])
  else match h with
    | some x => if x.reached then [⟨.floor, .report ⟨.entry n, .hotMic⟩ false⟩] else []
    | none => []

theorem deriveHot_none {n : Fin 200} {s : State} (he : s.roster[n] = none) : deriveHot n s = s := by
  simp only [deriveHot, he]

theorem deriveHot_eq {n : Fin 200} {s : State} {e : Entry} (he : s.roster[n] = some e) : deriveHot n s = { s with
    roster := setAt s.roster n (some { e with hot := timerDerived (s.hotTerms n e) s.tuning.hotDelay e.hot })
    engine := { s.engine with posted := s.engine.posted ++ timerReports n (s.hotTerms n e) s.tuning.hotDelay e.hot } } := by
  have hsame : ∀ h, e.hot = h → setAt s.roster n (some { e with hot := h }) = s.roster := by
    rintro _ rfl
    rw [← he, setAt_same]
  unfold deriveHot
  simp only [he]
  cases hh : e.hot with
  | none =>
    cases ht : s.hotTerms n e with
    | true =>
      by_cases hd : s.tuning.hotDelay = 0
      · simp [timerDerived, timerReports, State.postChange, hd, State.post, State.setSlot, unitWarning]
      · simp [timerDerived, timerReports, State.postChange, hd, State.setSlot]
    | false => simp [timerDerived, timerReports, hsame _ hh]
  | some x =>
    cases ht : s.hotTerms n e with
    | true => simp [timerDerived, timerReports, hsame _ hh]
    | false =>
      cases hr : x.reached <;>
        simp [timerDerived, timerReports, State.postChange, hr, State.post, State.setSlot, unitWarning]

theorem deriveHot_roster (n m : Fin 200) (s : State) : (deriveHot n s).roster[m] = s.roster[m].map fun e =>
    if m = n then { e with hot := timerDerived (s.hotTerms n e) s.tuning.hotDelay e.hot } else e := by
  cases he : s.roster[n] with
  | none =>
    rw [deriveHot_none he]
    by_cases h : m = n
    · subst h; rw [he]; rfl
    · simp only [if_neg h, Option.map_id']
  | some e =>
    rw [deriveHot_eq he, setAt_get]
    by_cases h : m = n
    · subst h; simp only [if_true, he, Option.map_some]
    · simp only [if_neg h, if_neg (Ne.symm h), Option.map_id']

theorem deriveHot_floor (n : Fin 200) (s : State) : (deriveHot n s).floor = s.floor := by
  cases he : s.roster[n] with
  | none => rw [deriveHot_none he]
  | some e => rw [deriveHot_eq he]

/-- The slot found for an entry is held by it. -/
theorem liveSlotOf_holds {f : Floor} {n : Fin 200} {k : Fin 6} (h : f.liveSlotOf n = some k) :
    ∃ x : LiveSlot, f.live[k] = some x ∧ x.holder = n := by
  have hk := (firstIndex_eq_some.1 h).1
  rwa [Floor.liveHolder, beq_iff_eq, Option.map_eq_some_iff] at hk

theorem liveSlotOf_none {f : Floor} {n : Fin 200} (h : f.liveSlotOf n = none) {k : Fin 6} {x : LiveSlot} (hx : f.live[k] = some x) :
    x.holder ≠ n := by
  have := firstIndex_eq_none.1 h k
  rw [Floor.liveHolder, hx] at this
  simpa using this

theorem heldSlotOf_holds {f : Floor} {n : Fin 200} {k : Fin 6} (h : f.heldSlotOf n = some k) : f.held[k] = some n :=
  beq_iff_eq.1 (firstIndex_eq_some.1 h).1

theorem heldSlotOf_none_iff {f : Floor} {n : Fin 200} : f.heldSlotOf n = none ↔ ∀ k : Fin 6, f.held[k] ≠ some n := by
  rw [Floor.heldSlotOf, firstIndex_eq_none]
  exact forall_congr' fun k => beq_eq_false_iff_ne

/-- Live slots as a move back loads them: each timer full, no SILENT_FLOOR condition, and no entry in two of them (R108). -/
structure Loaded (s : State) : Prop where
  full : ∀ (k : Fin 6) (x : LiveSlot), s.floor.live[k] = some x → x.timer = s.tuning.silentTime ∧ x.expired = false
  once : ∀ (j k : Fin 6) (x y : LiveSlot), s.floor.live[j] = some x → s.floor.live[k] = some y → x.holder = y.holder → j = k

/-- Among loaded slots, deriving an entry afresh sets its slot's speaking and nothing else of the floor. -/
theorem deriveSlot_loaded {s : State} (hs : Loaded s) (n : Fin 200) (k : Fin 6) : (deriveSlot n s).floor.live[k] =
    s.floor.live[k].map fun x => if x.holder = n then { x with speaking := s.speaking n } else x := by
  cases hn : s.floor.liveSlotOf n with
  | none =>
    simp only [deriveSlot, hn]
    cases hk : s.floor.live[k] with
    | none => rfl
    | some x => rw [Option.map_some, if_neg (liveSlotOf_none hn hk)]
  | some j =>
    obtain ⟨x, hx, hhold⟩ := liveSlotOf_holds hn
    obtain ⟨hfull, hexp⟩ := hs.full j x hx
    have hset : (deriveSlot n s).floor.live = setAt s.floor.live j (some { x with speaking := s.speaking n }) := by
      unfold deriveSlot
      simp only [hn, hx]
      split
      · rename_i hspeaks
        have hsp : s.speaking n = true := (Bool.and_eq_true_iff.1 hspeaks).1
        rw [State.postChange_floor, State.setLive_floor, ← hfull, hsp, ← hexp]
      · rfl
    rw [hset, setAt_get]
    by_cases e : j = k
    · subst e; rw [if_pos rfl, hx, Option.map_some, if_pos hhold]
    · rw [if_neg e]
      cases hk : s.floor.live[k] with
      | none => rfl
      | some y => rw [Option.map_some, if_neg fun hy => e (hs.once j k x y hx hk (hhold.trans hy.symm))]

theorem deriveSlot_held (n : Fin 200) (s : State) : (deriveSlot n s).floor.held = s.floor.held := by
  unfold deriveSlot State.postChange
  (repeat' split) <;> rfl

theorem deriveSlot_roster (n : Fin 200) (s : State) : (deriveSlot n s).roster = s.roster :=
  table_ext fun m => (deriveSlot_floorActs (fun _ => False) n s).apart m id

theorem derive_held (n : Fin 200) (s : State) : (derive n s).floor.held = s.floor.held := by
  rw [derive, deriveHot_floor, deriveSlot_held]

theorem derive_loaded_live {s : State} (hs : Loaded s) (n : Fin 200) (k : Fin 6) : (derive n s).floor.live[k] =
    s.floor.live[k].map fun x => if x.holder = n then { x with speaking := s.speaking n } else x := by
  rw [derive, deriveHot_floor, deriveSlot_loaded hs]

/-- A floor whose slots keep their holders names the same holders. -/
theorem liveHolder_of_map {f g : Floor} {k : Fin 6} {h : LiveSlot → LiveSlot} (hh : ∀ x, (h x).holder = x.holder)
    (hk : g.live[k] = f.live[k].map h) : g.liveHolder k = f.liveHolder k := by
  rw [Floor.liveHolder, Floor.liveHolder, hk]
  cases f.live[k] with
  | none => rfl
  | some x => exact congrArg some (hh x)

theorem deriveSlot_loaded_holder {s : State} (hs : Loaded s) (n : Fin 200) (k : Fin 6) :
    (deriveSlot n s).floor.liveHolder k = s.floor.liveHolder k :=
  liveHolder_of_map (fun x => by split <;> rfl) (deriveSlot_loaded hs n k)

theorem derive_loaded_holder {s : State} (hs : Loaded s) (n : Fin 200) (k : Fin 6) :
    (derive n s).floor.liveHolder k = s.floor.liveHolder k :=
  liveHolder_of_map (fun x => by split <;> rfl) (derive_loaded_live hs n k)

theorem derive_loaded_roster {s : State} (hs : Loaded s) (n m : Fin 200) : (derive n s).roster[m] = s.roster[m].map fun e =>
    if m = n then { e with hot := timerDerived (s.hotTerms n e) s.tuning.hotDelay e.hot } else e := by
  have hstep := deriveSlot_floorStep n s
  have hterms := hstep.hotTerms (deriveSlot_loaded_holder hs n) (fun k => by rw [deriveSlot_held]) n
  rw [derive, deriveHot_roster, deriveSlot_roster, hstep.tuning]
  simp only [hterms]

theorem derive_keepsLoaded {s : State} (hs : Loaded s) (n : Fin 200) : Loaded (derive n s) := by
  have hslot : ∀ (k : Fin 6) (x : LiveSlot), (derive n s).floor.live[k] = some x →
      ∃ y : LiveSlot, s.floor.live[k] = some y ∧ x.holder = y.holder ∧ x.timer = y.timer ∧ x.expired = y.expired := by
    intro k x hx
    rw [derive_loaded_live hs, Option.map_eq_some_iff] at hx
    obtain ⟨y, hy, rfl⟩ := hx
    refine ⟨y, hy, ?_⟩
    split <;> exact ⟨rfl, rfl, rfl⟩
  constructor
  · intro k x hx
    obtain ⟨y, hy, -, htimer, hexp⟩ := hslot k x hx
    rw [htimer, hexp, (derive_floorStep n s).tuning]
    exact hs.full k y hy
  · intro j k x y hx hy he
    obtain ⟨x', hx', hxh, -⟩ := hslot j x hx
    obtain ⟨y', hy', hyh, -⟩ := hslot k y hy
    exact hs.once j k x' y' hx' hy' (hxh.symm.trans (he.trans hyh))

/-! ### The holders of loaded slots derived afresh, one after another -/

theorem forList_derive_loaded (l : List (Fin 200)) {s : State} (hs : Loaded s) :
    (∀ k : Fin 6, (forList derive l s).floor.live[k] =
      s.floor.live[k].map fun x => if x.holder ∈ l then { x with speaking := s.speaking x.holder } else x) ∧
    (∀ m : Fin 200, (forList derive l s).roster[m] = s.roster[m].map fun e =>
      if m ∈ l then { e with hot := timerDerived (s.hotTerms m e) s.tuning.hotDelay e.hot } else e) ∧
    (forList derive l s).floor.held = s.floor.held := by
  induction l generalizing s with
  | nil =>
    simp only [List.not_mem_nil, if_false, Option.map_id']
    exact ⟨fun _ => rfl, fun _ => rfl, rfl⟩
  | cons n l ih =>
    obtain ⟨hlive, hroster, hheld⟩ := ih (derive_keepsLoaded hs n)
    have hstep := derive_floorStep n s
    have hspeak := hstep.speaking (derive_loaded_holder hs n)
    have hterms := hstep.hotTerms (derive_loaded_holder hs n) (fun k => by rw [derive_held])
    have hrun : forList derive (n :: l) s = forList derive l (derive n s) := rfl
    refine ⟨fun k => ?_, fun m => ?_, by rw [hrun, hheld, derive_held]⟩
    · rw [hrun, hlive, derive_loaded_live hs, Option.map_map]
      refine congrArg (fun f => s.floor.live[k].map f) (funext fun x => ?_)
      simp only [Function.comp, hspeak, List.mem_cons]
      by_cases hx : x.holder = n
      · subst hx; simp only [if_true, true_or]; split <;> rfl
      · simp only [hx, if_false, false_or]
    · rw [hrun, hroster, derive_loaded_roster hs, Option.map_map]
      refine congrArg (fun f => s.roster[m].map f) (funext fun e => ?_)
      simp only [Function.comp, hterms, hstep.tuning, List.mem_cons]
      by_cases hm : m = n
      · subst hm; simp only [if_true, true_or, hotTerms_setHot, timerDerived_twice]; split <;> rfl
      · simp only [hm, if_false, false_or]

/-! ### The move back -/

/-- The floor as a move back finds it once the slots have changed sides, before its holders are derived afresh (R108). -/
def returned (s : State) : State :=
  { s with floor := { s.floor with
    held := Vector.replicate 6 none
    live := mapTable s.floor.live fun k x => match s.floor.held[k] with
      | some n => some (loadedSlot s n)
      | none => x } }

theorem moveBack_eq (s : State) : moveBack s = forList derive s.floor.heldByHolder (returned s) := rfl

theorem mem_heldByHolder_iff {f : Floor} {n : Fin 200} : n ∈ f.heldByHolder ↔ ∃ k : Fin 6, f.held[k] = some n := by
  simp only [Floor.heldByHolder, List.mem_insertionSort, List.mem_filterMap, List.mem_finRange, true_and]

section
variable {s : State} (hempty : ∀ k : Fin 6, s.floor.live[k] = none)
  (honce : ∀ (j k : Fin 6) (n : Fin 200), s.floor.held[j] = some n → s.floor.held[k] = some n → j = k)
include hempty

theorem returned_live (k : Fin 6) : (returned s).floor.live[k] = s.floor.held[k].map (loadedSlot s) := by
  rw [returned, mapTable_get, hempty]
  cases s.floor.held[k] <;> rfl

include honce

theorem returned_loaded : Loaded (returned s) := by
  have hslot : ∀ (k : Fin 6) (x : LiveSlot), (returned s).floor.live[k] = some x →
      s.floor.held[k] = some x.holder ∧ x = loadedSlot s x.holder := by
    intro k x hx
    rw [returned_live hempty, Option.map_eq_some_iff] at hx
    obtain ⟨n, hn, rfl⟩ := hx
    exact ⟨hn, rfl⟩
  constructor
  · intro k x hx
    rw [(hslot k x hx).2]; exact ⟨rfl, rfl⟩
  · intro j k x y hx hy he
    exact honce j k x.holder (hslot j x hx).1 (he ▸ (hslot k y hy).1)

theorem moveBack_live (k : Fin 6) : (moveBack s).floor.live[k] =
    s.floor.held[k].map fun m => ⟨m, s.tuning.silentTime, (moveBack s).speaking m, false⟩ := by
  have hload := returned_loaded hempty honce
  have hlive := (forList_derive_loaded s.floor.heldByHolder hload).1
  have hstep : FloorStep (returned s) (moveBack s) := .forList (fun n t => derive_floorStep n t) _ _
  have hspeak := hstep.speaking fun j => liveHolder_of_map (fun x => by split <;> rfl) (hlive j)
  rw [moveBack_eq, hlive k, ← moveBack_eq, returned_live hempty, Option.map_map]
  cases hk : s.floor.held[k] with
  | none => rfl
  | some m =>
    have hm : m ∈ s.floor.heldByHolder := mem_heldByHolder_iff.2 ⟨k, hk⟩
    simp only [Option.map_some, Function.comp, loadedSlot, hm, if_true, hspeak]

theorem moveBack_held (k : Fin 6) : (moveBack s).floor.held[k] = none := by
  rw [moveBack_eq, (forList_derive_loaded _ (returned_loaded hempty honce)).2.2]
  exact Vector.getElem_replicate _

theorem moveBack_roster (m : Fin 200) : (moveBack s).roster[m] = s.roster[m].map fun e =>
    if s.floor.heldSlotOf m = none then e
    else { e with hot := timerDerived ((moveBack s).hotTerms m e) s.tuning.hotDelay e.hot } := by
  have hload := returned_loaded hempty honce
  obtain ⟨hlive, hroster, hheld⟩ := forList_derive_loaded s.floor.heldByHolder hload
  have hstep : FloorStep (returned s) (moveBack s) := .forList (fun n t => derive_floorStep n t) _ _
  have hterms := hstep.hotTerms (fun j => liveHolder_of_map (fun x => by split <;> rfl) (hlive j)) (fun j => by rw [moveBack_eq, hheld])
  have hmem : m ∈ s.floor.heldByHolder ↔ ¬ s.floor.heldSlotOf m = none := by
    rw [mem_heldByHolder_iff, heldSlotOf_none_iff]; push Not; rfl
  rw [moveBack_eq, hroster m, ← moveBack_eq]
  refine congrArg (fun f => s.roster[m].map f) (funext fun e => ?_)
  simp only [hmem, ite_not, hterms]
  rfl

end

/-! ### Freeing a slot -/

theorem freeLive_live {s : State} {n : Fin 200}
    (once : ∀ (j k : Fin 6) (x y : LiveSlot), s.floor.live[j] = some x → s.floor.live[k] = some y → x.holder = y.holder → j = k)
    (k : Fin 6) (x : LiveSlot) : (freeLive n s).floor.live[k] = some x ↔ s.floor.live[k] = some x ∧ x.holder ≠ n := by
  cases hn : s.floor.liveSlotOf n with
  | none =>
    simp only [freeLive, hn]
    exact (and_iff_left_of_imp fun h => liveSlotOf_none hn h).symm
  | some j =>
    obtain ⟨y, hy, hhold⟩ := liveSlotOf_holds hn
    simp only [freeLive, hn, hy, State.postChange_floor, State.setLive_floor, setAt_get]
    by_cases e : j = k
    · subst e
      rw [if_pos rfl, hy]
      exact ⟨nofun, fun ⟨h, hne⟩ => absurd hhold (Option.some.inj h ▸ hne)⟩
    · rw [if_neg e]
      exact (and_iff_left_of_imp fun h hx => e (once j k y x hy h (hhold.trans hx.symm))).symm

theorem freeLive_held (n : Fin 200) (s : State) : (freeLive n s).floor.held = s.floor.held := by
  unfold freeLive State.postChange
  (repeat' split) <;> rfl

theorem freeLive_posted {s : State} {n : Fin 200} {q : Posted} (h : q ∈ (freeLive n s).engine.posted) :
    q ∈ s.engine.posted ∨ q = ⟨.floor, .report ⟨.entry n, .silentFloor⟩ false⟩ := by
  unfold freeLive at h
  split at h
  · exact .inl h
  · split at h
    · exact .inl h
    · unfold State.postChange at h
      split at h
      · exact .inl h
      · exact (List.mem_append.1 h).imp_right List.mem_singleton.1

theorem freeHeld_held {s : State} {n : Fin 200}
    (once : ∀ (j k : Fin 6) (m : Fin 200), s.floor.held[j] = some m → s.floor.held[k] = some m → j = k)
    (k : Fin 6) (m : Fin 200) : (freeHeld n s).floor.held[k] = some m ↔ s.floor.held[k] = some m ∧ m ≠ n := by
  cases hn : s.floor.heldSlotOf n with
  | none =>
    simp only [freeHeld, hn]
    refine (and_iff_left_of_imp fun h e => ?_).symm
    exact heldSlotOf_none_iff.1 hn k (e ▸ h)
  | some j =>
    have hj := heldSlotOf_holds hn
    simp only [freeHeld, hn, State.setHeld_floor, setAt_get]
    by_cases e : j = k
    · subst e
      rw [if_pos rfl, hj]
      exact ⟨nofun, fun ⟨h, hne⟩ => absurd (Option.some.inj h).symm hne⟩
    · rw [if_neg e]
      exact (and_iff_left_of_imp fun h (hm : m = n) => e (once j k n hj (h.trans (congrArg some hm)))).symm

theorem freeHeld_rest (n : Fin 200) (s : State) : freeHeld n s = { s with floor := { s.floor with held := (freeHeld n s).floor.held } } := by
  unfold freeHeld
  split <;> rfl

/-- Freeing a slot leaves every entry as it is. -/
theorem freeSlot_roster (n : Fin 200) (s : State) : (freeSlot n s).roster = s.roster := by
  rw [freeSlot, freeHeld_rest]
  unfold freeLive State.postChange
  (repeat' split) <;> rfl

theorem freeSlot_cause (n : Fin 200) (s : State) : (freeSlot n s).floor.cause = s.floor.cause := by
  rw [freeSlot, freeHeld_rest]
  unfold freeLive State.postChange
  (repeat' split) <;> rfl

theorem freeSlot_live {s : State} (hs : FloorLaw s) (n : Fin 200) (k : Fin 6) (x : LiveSlot) :
    (freeSlot n s).floor.live[k] = some x ↔ s.floor.live[k] = some x ∧ x.holder ≠ n := by
  rw [freeSlot, freeHeld_rest]
  exact freeLive_live hs.liveOnce k x

theorem freeSlot_held {s : State} (hs : FloorLaw s) (n : Fin 200) (k : Fin 6) (m : Fin 200) :
    (freeSlot n s).floor.held[k] = some m ↔ s.floor.held[k] = some m ∧ m ≠ n := by
  have hheld := freeLive_held n s
  rw [freeSlot, freeHeld_held (by rw [hheld]; exact hs.heldOnce), hheld]

theorem freeSlot_posted {s : State} {n : Fin 200} {q : Posted} (h : q ∈ (freeSlot n s).engine.posted) :
    q ∈ s.engine.posted ∨ q = ⟨.floor, .report ⟨.entry n, .silentFloor⟩ false⟩ := by
  rw [freeSlot, freeHeld_rest] at h
  exact freeLive_posted h

end Sys2Proof.Machine
end


section
/-! PROOFS. RETIRE empties the slot and every trace of the entry (O26). -/

namespace Sys2Proof.Machine

/-! ### What a retirement and a change of mode can change -/

/-- All that a retirement or a change of mode can do to a state: mode and clock, combiner, roster, floor, engine, lines, and the count of open orders. -/
def ModeStep (s t : State) : Prop := t = { s with
  mode := t.mode, clockRunning := t.clockRunning, combiner := t.combiner, roster := t.roster, floor := t.floor
  engine := t.engine, choice := t.choice, lines := t.lines }

theorem ModeStep.refl (s : State) : ModeStep s s := rfl

theorem ModeStep.trans {s t u : State} (h₁ : ModeStep s t) (h₂ : ModeStep t u) : ModeStep s u := by
  have hall : ∀ (m : Mode) (r : Bool) (c : Combiner) (ro : Vector (Option Entry) 200) (f : Floor) (g : Engine) (k : Nat) (l : Lines),
      { t with
        mode := m, clockRunning := r, combiner := c, roster := ro, floor := f, engine := g, choice := k, lines := l } =
      { s with
        mode := m, clockRunning := r, combiner := c, roster := ro, floor := f, engine := g, choice := k, lines := l } :=
    fun m r c ro f g k l => by rw [h₁]
  exact Eq.trans h₂ (hall _ _ _ _ _ _ _ _)

theorem FloorStep.modeStep {s t : State} (h : FloorStep s t) : ModeStep s t := by
  have hall : ∀ (ro : Vector (Option Entry) 200) (f : Floor) (g : Engine), { s with roster := ro, floor := f, engine := g } =
      { s with
        mode := t.mode, clockRunning := t.clockRunning, combiner := t.combiner, roster := ro, floor := f
        engine := g, choice := t.choice, lines := t.lines } := fun ro f g => by
    rw [h.mode, h.clockRunning, h.combiner, h.choice, h.lines]
  exact h.rest.trans (hall _ _ _)

theorem EntryStep.modeStep {s t : State} (h : EntryStep s t) : ModeStep s t := by
  have hall : ∀ (c : Combiner) (ro : Vector (Option Entry) 200) (f : Floor) (g : Engine),
      { s with combiner := c, roster := ro, floor := f, engine := g } =
      { s with
        mode := t.mode, clockRunning := t.clockRunning, combiner := c, roster := ro, floor := f
        engine := g, choice := t.choice, lines := t.lines } := fun c ro f g => by
    rw [h.mode, h.clockRunning, h.choice, h.lines]
  exact h.rest.trans (hall _ _ _ _)

theorem takeReports_modeStep (s : State) : ModeStep s s.takeReports := by
  have hall : ∀ (g : Engine) (k : Nat), { s with engine := g, choice := k } =
      { s with
        mode := s.takeReports.mode, clockRunning := s.takeReports.clockRunning, combiner := s.takeReports.combiner
        roster := s.takeReports.roster, floor := s.takeReports.floor, engine := g, choice := k, lines := s.takeReports.lines } :=
    fun g k => by
      rw [takeReports_mode, takeReports_clockRunning, takeReports_combiner, takeReports_roster, takeReports_floor, takeReports_lines]
  exact (takeReports_rest s).trans (hall _ _)

theorem finish_modeStep (s : State) : ModeStep s (finish s) := (takeReports_modeStep s).trans rfl

/-- What the end of a handling leaves after such a step: the lines, the engine and the count of open orders have taken their part. -/
theorem complete_modeStep {s u : State} (h : ModeStep s u) (i : Instr) (r : Reply) : complete i r (finish u) = complete i r { s with
    mode := u.mode, clockRunning := u.clockRunning, combiner := u.combiner, roster := u.roster, floor := u.floor
    engine := (finish u).engine, choice := (finish u).choice, lines := (finish u).lines } := by
  have hend := h.trans (finish_modeStep u)
  rw [ModeStep, finish_mode, finish_clockRunning, finish_combiner, finish_roster, finish_floor] at hend
  exact congrArg (complete i r) hend

/-! ### The entry's traces -/

/-- A retirement before the end of a hold: the open pool entry dropped, the slots freed, the designation ended (R33, R46, R102). -/
def vacated (n : Fin 200) (s : State) : State :=
  { (freeSlot n (dropPool n s)).setSlot n none with
    floor := { (freeSlot n (dropPool n s)).floor with chair := if s.floor.chair = some n then none else s.floor.chair } }

theorem retireEntry_eq (n : Fin 200) (s : State) : retireEntry n s =
    (if s.floor.chair = some n ∧ s.floor.cause = .chair then endHold (vacated n s) else vacated n s).post .engine (.quietEntry n) := by
  have hcause : (freeSlot n (dropPool n s)).floor.cause = s.floor.cause := freeSlot_cause n _
  have hchair : (freeSlot n (dropPool n s)).floor.chair = s.floor.chair := (freeSlot_floorStep n _).chair
  unfold retireEntry vacated
  by_cases hc : s.floor.chair = some n
  · by_cases hk : s.floor.cause = .chair <;> simp [hc, hk, hcause]
  · have hsame : { (freeSlot n (dropPool n s)).floor with chair := s.floor.chair } = (freeSlot n (dropPool n s)).floor := by
      rw [← hchair]
    simp [hc, hsame]
    rfl

section
variable (n : Fin 200) (s : State)

theorem vacated_roster (m : Fin 200) : (vacated n s).roster[m] = if n = m then none else s.roster[m] := by
  show (setAt (freeSlot n (dropPool n s)).roster n none)[m] = _
  rw [setAt_get, freeSlot_roster]; rfl

theorem vacated_combiner : (vacated n s).combiner = (dropPool n s).combiner := (freeSlot_floorStep n (dropPool n s)).combiner

theorem vacated_cause : (vacated n s).floor.cause = s.floor.cause := freeSlot_cause n (dropPool n s)

theorem vacated_warnings : (vacated n s).engine.warnings = s.engine.warnings := (freeSlot_floorStep n (dropPool n s)).warnings

theorem vacated_tuning : (vacated n s).tuning = s.tuning := (freeSlot_floorStep n (dropPool n s)).tuning

theorem vacated_floor : (vacated n s).floor = { s.floor with
    live := (vacated n s).floor.live, held := (vacated n s).floor.held
    chair := if s.floor.chair = some n then none else s.floor.chair } := by
  have hfloor := (freeSlot_floorStep n (dropPool n s)).floor
  rw [freeSlot_cause] at hfloor
  have hall : ∀ (l : Vector (Option LiveSlot) 6) (h : Vector (Option (Fin 200)) 6) (c : Option (Fin 200)),
      { (freeSlot n (dropPool n s)).floor with live := l, held := h, chair := c } =
        { s.floor with live := l, held := h, chair := c } := fun l h c => by rw [hfloor]; rfl
  exact hall _ _ _

theorem vacated_rest : vacated n s = { s with
    combiner := (vacated n s).combiner, roster := (vacated n s).roster, floor := (vacated n s).floor, engine := (vacated n s).engine } := by
  have hrest := (freeSlot_floorStep n (dropPool n s)).rest
  have hall : ∀ (c : Combiner) (r : Vector (Option Entry) 200) (f : Floor) (g : Engine),
      { freeSlot n (dropPool n s) with combiner := c, roster := r, floor := f, engine := g } =
        { s with combiner := c, roster := r, floor := f, engine := g } := fun c r f g => by rw [hrest]; rfl
  exact hall _ _ _ _

end

section
variable {s : State} (hs : FloorLaw s) (n : Fin 200)
include hs

/-- The floor keeps its law when an entry's pool entry is dropped. -/
theorem dropPool_floorLaw : FloorLaw (dropPool n s) :=
  ⟨hs.capacity, hs.liveBelow, hs.heldBelow, hs.liveOnce, hs.heldOnce, hs.heldEmpty, hs.liveEmpty, hs.liveEnrolled, hs.heldEnrolled,
    hs.chairEnrolled, hs.chairLive, hs.chairHeld, hs.sitting, hs.silence⟩

theorem vacated_live (k : Fin 6) (x : LiveSlot) :
    (vacated n s).floor.live[k] = some x ↔ s.floor.live[k] = some x ∧ x.holder ≠ n :=
  freeSlot_live (dropPool_floorLaw hs n) n k x

theorem vacated_held (k : Fin 6) (m : Fin 200) : (vacated n s).floor.held[k] = some m ↔ s.floor.held[k] = some m ∧ m ≠ n :=
  freeSlot_held (dropPool_floorLaw hs n) n k m

/-- The chair holds no slot, so its retirement frees none (R102). -/
theorem vacated_held_chair (hc : s.floor.chair = some n) (k : Fin 6) : (vacated n s).floor.held[k] = s.floor.held[k] :=
  Option.ext fun m => (vacated_held hs n k m).trans (and_iff_left_of_imp fun h e => hs.chairHeld k m h (e ▸ hc))

theorem vacated_live_hold (hc : s.floor.cause = .chair) (k : Fin 6) : (vacated n s).floor.live[k] = none := by
  rw [Option.eq_none_iff_forall_ne_some]
  intro x hx
  have := ((vacated_live hs n k x).1 hx).1
  rw [hs.liveEmpty (by rw [hc]; nofun)] at this
  cases this

end

/-! ### The state a retirement leaves for the engine -/

/-- The state before the engine's part: a hold that the chair claimed ends (R108, R109). -/
def retired (n : Fin 200) (s : State) : State :=
  if s.floor.chair = some n ∧ s.floor.cause = .chair then endHold (vacated n s) else vacated n s

theorem retired_floorStep (n : Fin 200) (s : State) : FloorStep (vacated n s) (retired n s) := by
  unfold retired
  split
  · exact endHold_floorStep _
  · exact .refl _

theorem retired_floor (n : Fin 200) (s : State) : (retired n s).floor = { s.floor with
    live := (retired n s).floor.live, held := (retired n s).floor.held
    chair := if s.floor.chair = some n then none else s.floor.chair, cause := (retired n s).floor.cause } := by
  have hstep := retired_floorStep n s
  have hall : ∀ (l : Vector (Option LiveSlot) 6) (h : Vector (Option (Fin 200)) 6) (c : Cause),
      { (vacated n s).floor with live := l, held := h, cause := c } =
        { s.floor with
          live := l, held := h, chair := if s.floor.chair = some n then none else s.floor.chair, cause := c } := fun l h c => by
    rw [vacated_floor n s]
  exact hstep.floor.trans (hall _ _ _)

theorem retired_posted (n : Fin 200) (s : State) : retireEntry n s = (retired n s).post .engine (.quietEntry n) := retireEntry_eq n s

theorem vacated_modeStep (n : Fin 200) (s : State) : ModeStep s (vacated n s) := by
  have hmode : (vacated n s).mode = s.mode := by rw [vacated_rest]
  have hclock : (vacated n s).clockRunning = s.clockRunning := by rw [vacated_rest]
  have hchoice : (vacated n s).choice = s.choice := by rw [vacated_rest]
  have hlines : (vacated n s).lines = s.lines := by rw [vacated_rest]
  rw [ModeStep, hmode, hclock, hchoice, hlines]
  exact vacated_rest n s

theorem retireEntry_modeStep (n : Fin 200) (s : State) : ModeStep s (retireEntry n s) := by
  rw [retired_posted]
  exact (vacated_modeStep n s).trans ((retired_floorStep n s).trans (.post _ _ _)).modeStep

theorem retireEntry_empties (n : Fin 200) (s : State) : (retireEntry n s).roster[n] = none := by
  rw [retired_posted]
  exact (retired_floorStep n s).empty.2 (by rw [vacated_roster, if_pos rfl])

/-- Without a hold of the chair only the entry's own traces go: what is posted concerns it alone. -/
theorem retireEntry_acts {n : Fin 200} {s : State} (hp : s.engine.posted = []) (h : ¬(s.floor.chair = some n ∧ s.floor.cause = .chair)) :
    ∀ q ∈ (retireEntry n s).engine.posted, q.act = .quietEntry n ∨ ∃ (c : WClass) (v : Bool), q.act = .report ⟨.entry n, c⟩ v := by
  intro q hq
  rw [retired_posted, retired, if_neg h] at hq
  rcases List.mem_append.1 hq with hq | hq
  · rcases freeSlot_posted (s := dropPool n s) hq with hq | rfl
    · exact absurd (hp ▸ hq) List.not_mem_nil
    · exact .inr ⟨_, _, rfl⟩
  · exact .inl (by rw [List.mem_singleton.1 hq])

theorem entryNumber_some {b : Byte} {n : Fin 200} (h : b.toNat = n.1) : entryNumber b = some n := by
  rw [entryNumber, dif_pos (h ▸ n.2)]
  exact congrArg some (Fin.ext h)

theorem onEntry_occupied {b : Byte} {n : Fin 200} {e : Entry} {s : State} (h : b.toNat = n.1) (he : s.roster[n] = some e) (len : Nat)
    (f : Fin 200 → Entry → Handling) : onEntry b len f s = f n e := by
  simp only [onEntry, entryNumber_some h, he]

theorem retire_exec {b : Byte} {n : Fin 200} {e : Entry} {s : State} (hs : Ready s) (h : b.toNat = n.1) (he : s.roster[n] = some e) :
    Brings (.retire b) s (retireEntry n s) ⟨.ok, []⟩ :=
  brings_of hs (exec_retire b s) (onEntry_occupied h he _ _)

/-! ### The warnings, the floor and the roster after a retirement -/

theorem retire_quiets (n : Fin 200) (s : State) : ∀ r ∈ (finish (retireEntry n s)).engine.warnings, r.id.subject ≠ .entry n :=
  takeReports_quietEntry (b := .engine) (retireEntry_empties n s) (by
    rw [retired_posted]; exact List.mem_append_right _ (List.mem_singleton.2 rfl))

theorem retire_keeps {n : Fin 200} {s : State} (hs : FloorLaw s) (hp : s.engine.posted = [])
    (h : ¬(s.floor.chair = some n ∧ s.floor.cause = .chair)) : (retireEntry n s).floor.cause = s.floor.cause ∧
      (∀ (k : Fin 6) (x : LiveSlot), (retireEntry n s).floor.live[k] = some x ↔ s.floor.live[k] = some x ∧ x.holder ≠ n) ∧
      (∀ (k : Fin 6) (m : Fin 200), (retireEntry n s).floor.held[k] = some m ↔ s.floor.held[k] = some m ∧ m ≠ n) ∧
      (∀ m : Fin 200, m ≠ n → (retireEntry n s).roster[m] = s.roster[m]) ∧
      ∀ r : WarnRecord, r ∈ (finish (retireEntry n s)).engine.warnings ↔ r ∈ s.engine.warnings ∧ r.id.subject ≠ .entry n := by
  have hvac : retired n s = vacated n s := if_neg h
  have hwarn : (retireEntry n s).engine.warnings = s.engine.warnings := by
    rw [retired_posted, hvac]; exact vacated_warnings n s
  refine ⟨?_, ?_, ?_, fun m hm => ?_, fun r => ⟨fun hr => ⟨?_, retire_quiets n s r hr⟩, fun ⟨hr, hne⟩ => ?_⟩⟩
  · rw [retired_posted, hvac]; exact vacated_cause n s
  · rw [retired_posted, hvac]; exact vacated_live hs n
  · rw [retired_posted, hvac]; exact vacated_held hs n
  · rw [retired_posted, hvac]
    exact (vacated_roster n s m).trans (if_neg (Ne.symm hm))
  · have := takeReports_ofEntry_sub (retireEntry_empties n s) (retireEntry_acts hp h) hr
    rwa [hwarn] at this
  · exact takeReports_ofEntry (retireEntry_empties n s) (retireEntry_acts hp h) (by rwa [hwarn]) hne

section
variable (v : State) (b : Block) (a : Act)

/-- The end of a hold leaves what the move back left, but for the cause. -/
theorem endHold_post_live (k : Fin 6) : ((endHold v).post b a).floor.live[k] = (moveBack v).floor.live[k] := rfl
theorem endHold_post_held (k : Fin 6) : ((endHold v).post b a).floor.held[k] = (moveBack v).floor.held[k] := rfl
theorem endHold_post_roster (m : Fin 200) : ((endHold v).post b a).roster[m] = (moveBack v).roster[m] := rfl
theorem endHold_post_speaking (m : Fin 200) : ((endHold v).post b a).speaking m = (moveBack v).speaking m := rfl
theorem endHold_post_hotTerms (m : Fin 200) (e : Entry) : ((endHold v).post b a).hotTerms m e = (moveBack v).hotTerms m e := rfl
end

theorem retire_endsHold {n : Fin 200} {s : State} (hs : FloorLaw s) (hc : s.floor.chair = some n) (hk : s.floor.cause = .chair) :
    (retireEntry n s).floor.cause = .none ∧
      (∀ k : Fin 6, (retireEntry n s).floor.held[k] = none ∧ (retireEntry n s).floor.live[k] = s.floor.held[k].map fun m =>
        ⟨m, s.tuning.silentTime, (retireEntry n s).speaking m, false⟩) ∧
      ∀ (m : Fin 200) (f : Entry), m ≠ n → s.roster[m] = some f → (retireEntry n s).roster[m] = some
        (if s.floor.heldSlotOf m = none then f
          else { f with hot := if (retireEntry n s).hotTerms m f then some (f.hot.getD ⟨0, s.tuning.hotDelay == 0⟩) else none }) := by
  have hempty := vacated_live_hold hs n hk
  have hheld := vacated_held_chair hs n hc
  have honce : ∀ (j k : Fin 6) (m : Fin 200), (vacated n s).floor.held[j] = some m → (vacated n s).floor.held[k] = some m → j = k :=
    fun j k m hj hk => hs.heldOnce j k m (by rwa [hheld] at hj) (by rwa [hheld] at hk)
  have hslot : ∀ m, (vacated n s).floor.heldSlotOf m = s.floor.heldSlotOf m := fun m => by
    unfold Floor.heldSlotOf; simp only [hheld]
  have hret : retireEntry n s = (endHold (vacated n s)).post .engine (.quietEntry n) := by
    rw [retired_posted, retired, if_pos ⟨hc, hk⟩]
  rw [hret]
  refine ⟨rfl, fun k => ⟨(endHold_post_held _ _ _ k).trans (moveBack_held hempty honce k), (endHold_post_live _ _ _ k).trans ?_⟩,
    fun m f hm hf => (endHold_post_roster _ _ _ m).trans ?_⟩
  · rw [moveBack_live hempty honce, hheld, vacated_tuning]
    simp only [endHold_post_speaking]
  · have hslotted : (vacated n s).roster[m] = some f := by rw [vacated_roster, if_neg (Ne.symm hm), hf]
    rw [moveBack_roster hempty honce m, hslotted, Option.map_some, hslot, vacated_tuning, endHold_post_hotTerms]
    rfl

theorem complete_speaking (i : Instr) (r : Reply) (s : State) (m : Fin 200) : (complete i r s).speaking m = s.speaking m := rfl

theorem complete_hotTerms (i : Instr) (r : Reply) (s : State) (m : Fin 200) (e : Entry) :
    (complete i r s).hotTerms m e = s.hotTerms m e := rfl

/-- Settles O26, by the state the retirement leaves for the engine: the entry's traces go one by one; where it was the chair of a hold,
the floor moves back. -/
theorem retireEmptiesTheSlot : Obligations.RetireEmptiesTheSlot := by
  intro b n e s hready hp hs hb he
  have hspeak : ∀ m, (finish (retireEntry n s)).speaking m = (retireEntry n s).speaking m := fun m => by
    unfold State.speaking; simp only [finish_roster, finish_floor, finish_mode]
  have hterms : ∀ m f, (finish (retireEntry n s)).hotTerms m f = (retireEntry n s).hotTerms m f := fun m f => by
    unfold State.hotTerms; simp only [hspeak, finish_floor, finish_mode]
  have hstep := retired_floorStep n s
  have hcombiner : (retireEntry n s).combiner = (dropPool n s).combiner := by
    rw [retired_posted]; exact hstep.combiner.trans (vacated_combiner n s)
  have hchair : (retireEntry n s).floor.chair = if s.floor.chair = some n then none else s.floor.chair := by
    rw [retired_posted]; exact hstep.chair
  have hfloor : (retireEntry n s).floor = { s.floor with
      live := (retireEntry n s).floor.live, held := (retireEntry n s).floor.held, chair := (retireEntry n s).floor.chair
      cause := (retireEntry n s).floor.cause } := by
    rw [hchair, retired_posted]; exact retired_floor n s
  have hmode : (retireEntry n s).mode = s.mode := by
    rw [retired_posted]; exact hstep.mode.trans (by rw [vacated_rest])
  have hclock : (retireEntry n s).clockRunning = s.clockRunning := by
    rw [retired_posted]; exact hstep.clockRunning.trans (by rw [vacated_rest])
  have hempty : ∀ m : Fin 200, m ≠ n → s.roster[m] = none → (retireEntry n s).roster[m] = none := fun m hm hnone => by
    rw [retired_posted]
    exact hstep.empty.2 ((vacated_roster n s m).trans ((if_neg (Ne.symm hm)).trans hnone))
  have hpool : ∀ (i : Fin 12) (x : PoolEntry), (retireEntry n s).combiner.pool[i] = some x ↔
      s.combiner.pool[i] = some x ∧ x.entry ≠ n := fun i x => by
    rw [hcombiner]; exact dropPool_pool n s i x
  have hcomb : (retireEntry n s).combiner = { s.combiner with pool := (retireEntry n s).combiner.pool } := by
    rw [hcombiner]; rfl
  have hframe := complete_modeStep (retireEntry_modeStep n s) (.retire b) ⟨.ok, []⟩
  rw [hmode, hclock] at hframe
  refine ⟨_, retire_exec hready hb he, ?_⟩
  simp only [complete_roster, complete_combiner, complete_floor, complete_engine, complete_speaking, complete_hotTerms, hspeak, hterms,
    finish_roster, finish_combiner, finish_floor]
  refine ⟨retireEntry_empties n s, hempty, hpool, hcomb, hchair, hfloor, retire_keeps hs hp, retire_endsHold hs,
    retire_quiets n s, hframe⟩

end Sys2Proof.Machine
end


section
/-! PROOFS. The change to SESSION (O8): the conditions of the sitting reported, the hot-mic timers derived, the chair's claim taken up. -/

namespace Sys2Proof.Machine

/-! ### The conditions of a sitting reported -/

/-- The report of a condition, where it changed (R118). -/
def changeReport (b : Block) (id : WarnId) (old new : Bool) : List Posted := if old = new then [] else [⟨b, .report id new⟩]

theorem postChange_eq (s : State) (b : Block) (id : WarnId) (old new : Bool) : s.postChange b id old new =
    { s with engine := { s.engine with posted := s.engine.posted ++ changeReport b id old new } } := by
  unfold State.postChange changeReport
  split
  · rw [List.append_nil]
  · rfl

/-- What a change of mode reports of one slot (R56, R89). -/
def sittingReports (old new : Mode) (n : Fin 200) (x : Option Entry) : List Posted :=
  match x with
  | some e => changeReport .roster (unitWarning n .sigLost) (sigLostCond old e) (sigLostCond new e) ++
      changeReport .signal (unitWarning n .sigWeak) (sigWeakCond old e) (sigWeakCond new e)
  | none => []

theorem reportSitting_eq (old new : Mode) (n : Fin 200) (s : State) : reportSitting old new n s =
    { s with engine := { s.engine with posted := s.engine.posted ++ sittingReports old new n s.roster[n] } } := by
  unfold reportSitting sittingReports
  cases s.roster[n] with
  | none => rw [List.append_nil]
  | some e => simp only [postChange_eq, List.append_assoc]

theorem forList_reportSitting (old new : Mode) (l : List (Fin 200)) (s : State) : forList (reportSitting old new) l s =
    { s with engine := { s.engine with
      posted := s.engine.posted ++ l.flatMap fun n => sittingReports old new n s.roster[n] } } := by
  induction l generalizing s with
  | nil => rw [List.flatMap_nil, List.append_nil]; rfl
  | cons n l ih =>
    show forList (reportSitting old new) l (reportSitting old new n s) = _
    rw [ih, reportSitting_eq, List.flatMap_cons, ← List.append_assoc]

/-- What the beginning of a sitting reports of one entry: SIG_LOST where it is LOST, SIG_WEAK where its path is POOR (R56, R89). -/
theorem sittingReports_begin (n : Fin 200) (e : Entry) : sittingReports .recess .session n (some e) =
    (if e.presence = .lost then [⟨.roster, .report ⟨.entry n, .sigLost⟩ true⟩] else []) ++
      (if e.signal.level = .poor then [⟨.signal, .report ⟨.entry n, .sigWeak⟩ true⟩] else []) := by
  have hlost : changeReport .roster (unitWarning n .sigLost) (sigLostCond .recess e) (sigLostCond .session e) =
      if e.presence = .lost then [⟨.roster, .report ⟨.entry n, .sigLost⟩ true⟩] else [] := by
    by_cases h : e.presence = .lost <;> simp [changeReport, sigLostCond, h, unitWarning]
  have hweak : changeReport .signal (unitWarning n .sigWeak) (sigWeakCond .recess e) (sigWeakCond .session e) =
      if e.signal.level = .poor then [⟨.signal, .report ⟨.entry n, .sigWeak⟩ true⟩] else [] := by
    by_cases h : e.signal.level = .poor <;> simp [changeReport, sigWeakCond, h, unitWarning]
  exact congrArg₂ (· ++ ·) hlost hweak

/-! ### The hot-mic timers derived, one after another -/

/-- A slot with its entry's hot-mic timer derived afresh (R106). -/
def State.hotDerived (s : State) (n : Fin 200) (x : Option Entry) : Option Entry :=
  x.map fun e => { e with hot := timerDerived (s.hotTerms n e) s.tuning.hotDelay e.hot }

/-- What the hot-mic timer of a slot reports when it is derived afresh (R106). -/
def State.hotReports (s : State) (n : Fin 200) (x : Option Entry) : List Posted :=
  match x with
  | some e => timerReports n (s.hotTerms n e) s.tuning.hotDelay e.hot
  | none => []

theorem deriveHot_slot (n : Fin 200) (s : State) : deriveHot n s = { s with
    roster := setAt s.roster n (s.hotDerived n s.roster[n])
    engine := { s.engine with posted := s.engine.posted ++ s.hotReports n s.roster[n] } } := by
  cases he : s.roster[n] with
  | none =>
    have hsame : setAt s.roster n none = s.roster := by rw [← he, setAt_same]
    rw [deriveHot_none he, State.hotDerived, State.hotReports, Option.map_none, hsame, List.append_nil]
  | some e => exact deriveHot_eq he

theorem deriveHot_hotTerms (n : Fin 200) (s : State) (m : Fin 200) (e : Entry) : (deriveHot n s).hotTerms m e = s.hotTerms m e :=
  (deriveHot_floorStep n s).hotTerms (fun k => by rw [deriveHot_floor]) (fun k => by rw [deriveHot_floor]) m e

theorem forList_deriveHot {l : List (Fin 200)} (hl : l.Nodup) (s : State) : forList deriveHot l s = { s with
    roster := mapTable s.roster fun n y => if n ∈ l then s.hotDerived n y else y
    engine := { s.engine with posted := s.engine.posted ++ l.flatMap fun n => s.hotReports n s.roster[n] } } := by
  induction l generalizing s with
  | nil =>
    have h : (mapTable s.roster fun n y => if n ∈ ([] : List (Fin 200)) then s.hotDerived n y else y) = s.roster :=
      table_ext fun n => by simp only [mapTable_get, List.not_mem_nil, if_false]
    rw [h, List.flatMap_nil, List.append_nil]; rfl
  | cons n l ih =>
    obtain ⟨hn, hl⟩ := List.nodup_cons.1 hl
    have htuning : (deriveHot n s).tuning = s.tuning := (deriveHot_floorStep n s).tuning
    have hderived : ∀ m y, (deriveHot n s).hotDerived m y = s.hotDerived m y := fun m y => by
      simp only [State.hotDerived, deriveHot_hotTerms, htuning]
    have hreports : ∀ m y, (deriveHot n s).hotReports m y = s.hotReports m y := fun m y => by
      cases y with
      | none => rfl
      | some e => simp only [State.hotReports, deriveHot_hotTerms, htuning]
    have hother : ∀ m : Fin 200, n ≠ m → (deriveHot n s).roster[m] = s.roster[m] := fun m hm => by
      rw [deriveHot_slot, setAt_get_ne _ hm]
    have hown : (deriveHot n s).roster[n] = s.hotDerived n s.roster[n] := by rw [deriveHot_slot, setAt_get_same]
    have hroster : (mapTable (deriveHot n s).roster fun m y => if m ∈ l then (deriveHot n s).hotDerived m y else y) =
        mapTable s.roster fun m y => if m ∈ n :: l then s.hotDerived m y else y := by
      refine table_ext fun m => ?_
      rw [mapTable_get, mapTable_get, hderived]
      by_cases e : n = m
      · subst e; rw [if_neg hn, hown, if_pos (List.mem_cons_self ..)]
      · simp only [hother m e, List.mem_cons, Ne.symm e, false_or]
    have hposts : (l.flatMap fun m => (deriveHot n s).hotReports m (deriveHot n s).roster[m]) =
        l.flatMap fun m => s.hotReports m s.roster[m] :=
      List.flatMap_congr fun m hm => by rw [hreports, hother m fun e => hn (e ▸ hm)]
    have hposted : (deriveHot n s).engine.posted = s.engine.posted ++ s.hotReports n s.roster[n] := by rw [deriveHot_slot]
    show forList deriveHot l (deriveHot n s) = _
    rw [ih hl, hroster, hposts, hposted, List.append_assoc, List.flatMap_cons, deriveHot_slot]

/-! ### An empty floor -/

/-- No slot is taken, live or held. -/
structure FloorEmpty (f : Floor) : Prop where
  live : ∀ k : Fin 6, f.live[k] = none
  held : ∀ k : Fin 6, f.held[k] = none

section
variable {s : State} (h : FloorEmpty s.floor)
include h

theorem FloorEmpty.liveSlotOf (n : Fin 200) : s.floor.liveSlotOf n = none :=
  firstIndex_eq_none.2 fun k => by rw [Floor.liveHolder, h.live]; rfl

theorem FloorEmpty.heldSlotOf (n : Fin 200) : s.floor.heldSlotOf n = none :=
  heldSlotOf_none_iff.2 fun k => by rw [h.held]; nofun

theorem FloorEmpty.speaking (n : Fin 200) : s.speaking n = false := by
  unfold State.speaking
  rw [h.liveSlotOf]
  cases s.roster[n] <;> rfl

/-- Where no slot is taken, an entry's hot-mic timer runs while its key is on in SESSION, unless it is the chair (R106). -/
theorem FloorEmpty.hotTerms (n : Fin 200) (e : Entry) :
    s.hotTerms n e = (e.keyOn && s.mode == .session && s.floor.chair != some n) := by
  unfold State.hotTerms
  rw [h.speaking, h.heldSlotOf]
  simp only [Bool.not_false, Option.isNone_none, Bool.and_true]

theorem FloorEmpty.moveToHeld : moveToHeld s = s := by
  have hmoved : s.floor.liveByHolder = [] := List.eq_nil_iff_forall_not_mem.2 fun x hx => by
    simp only [Floor.liveByHolder, List.mem_insertionSort, List.mem_filterMap, h.live, reduceCtorEq, and_false, exists_false] at hx
  have hlive : Vector.replicate 6 none = s.floor.live := table_ext fun k => by rw [h.live]; exact Vector.getElem_replicate _
  have hheld : (mapTable s.floor.held fun k y => match s.floor.live[k] with
      | some x => some x.holder
      | none => y) = s.floor.held := table_ext fun k => by rw [mapTable_get, h.live]
  unfold Machine.moveToHeld
  rw [hmoved, hlive]
  exact congrArg (fun v => { s with floor := { s.floor with held := v } }) hheld

theorem FloorEmpty.moveBack : moveBack s = s := by
  have hmoved : s.floor.heldByHolder = [] := List.eq_nil_iff_forall_not_mem.2 fun x hx => by
    simp only [Floor.heldByHolder, List.mem_insertionSort, List.mem_filterMap, h.held, reduceCtorEq, and_false, exists_false] at hx
  have hheld : Vector.replicate 6 none = s.floor.held := table_ext fun k => by rw [h.held]; exact Vector.getElem_replicate _
  have hlive : (mapTable s.floor.live fun k y => match s.floor.held[k] with
      | some n => some (loadedSlot s n)
      | none => y) = s.floor.live := table_ext fun k => by rw [mapTable_get, h.held]
  unfold Machine.moveBack
  rw [hmoved, hheld]
  exact congrArg (fun v => { s with floor := { s.floor with live := v } }) hlive

/-- The cause that the chair's claim leaves (R109). -/
def Cause.followed (c : Cause) (claims : Bool) : Cause := if c = .silence then .silence else if claims then .chair else .none

/-- Where no slot is taken, the hold that follows the chair's claim changes the cause alone (R109). -/
theorem FloorEmpty.followClaim : followClaim s = s.setCause (s.floor.cause.followed s.chairClaims) := by
  have hsame : ∀ c, s.floor.cause = c → s.setCause c = s := by rintro _ rfl; rfl
  rw [followClaim_eq]
  cases hcause : s.floor.cause <;> cases s.chairClaims <;>
    simp [Cause.followed, hsame _ hcause, beginHold, endHold, h.moveToHeld, h.moveBack]

end

/-! ### The change to SESSION -/

/-- An entry counts as open and present for a sitting (R100, R106). -/
theorem keyOn_iff (e : Entry) : e.keyOn = true ↔ e.switch = .opened ∧ (e.presence = .live ∨ e.presence = .fading) := by
  unfold Entry.keyOn
  cases e.presence <;> simp [Presence.present]

/-- The state in which a sitting has begun and the chair's claim is yet to be taken up. -/
def seated (s : State) : State := forEach deriveHot (forEach (reportSitting .recess .session) (s.setMode .session))

theorem enterSession_eq (s : State) : enterSession s = followClaim (seated s) := rfl

theorem seated_eq (s : State) : seated s = { s with
    mode := .session
    roster := mapTable s.roster (s.setMode .session).hotDerived
    engine := { s.engine with posted := s.engine.posted ++
      ((List.finRange 200).flatMap fun n => sittingReports .recess .session n s.roster[n]) ++
      ((List.finRange 200).flatMap fun n => (s.setMode .session).hotReports n s.roster[n]) } } := by
  rw [seated, forEach_eq_forList, forEach_eq_forList, forList_deriveHot (List.nodup_finRange 200), forList_reportSitting]
  simp only [List.mem_finRange, if_true]
  rfl

/-- Whether the chair claims priority in SESSION, whatever the hot-mic timers (R101). -/
theorem chairClaims_session {s u : State} (hroster : ∀ n : Fin 200, ∃ h : Entry → Option HotTimer,
      u.roster[n] = s.roster[n].map fun e => { e with hot := h e })
    (hfloor : u.floor = s.floor) (hmode : u.mode = .session) (htuning : u.tuning = s.tuning) :
    u.chairClaims = true ↔ s.floor.cause ≠ .silence ∧ s.tuning.priority = true ∧
      ∃ (n : Fin 200) (e : Entry), s.floor.chair = some n ∧ s.roster[n] = some e ∧ e.keyOn = true := by
  have hkey : u.chairKeyOn = true ↔
      ∃ (n : Fin 200) (e : Entry), s.floor.chair = some n ∧ s.roster[n] = some e ∧ e.keyOn = true := by
    unfold State.chairKeyOn
    rw [hfloor, hmode]
    cases hc : s.floor.chair with
    | none => exact ⟨nofun, fun ⟨_, _, h, _⟩ => nomatch h⟩
    | some n =>
      obtain ⟨h, hn⟩ := hroster n
      simp only [hn]
      cases he : s.roster[n] with
      | none => exact ⟨nofun, fun ⟨m, e, hm, hm', _⟩ => by cases hm; rw [he] at hm'; cases hm'⟩
      | some e =>
        have hkeyOn : ({ e with hot := h e } : Entry).keyOn = e.keyOn := rfl
        simp only [Option.map_some, hkeyOn, beq_self_eq_true, Bool.and_true]
        exact ⟨fun hk => ⟨n, e, rfl, he, hk⟩, fun ⟨m, f, hm, hf, hk⟩ => by cases hm; rw [he] at hf; cases hf; exact hk⟩
  unfold State.chairClaims State.chairSpeaking
  rw [Bool.and_eq_true, Bool.and_eq_true, hkey, hfloor, htuning, bne_iff_ne]
  tauto

section
variable (s : State)
theorem seated_floor : (seated s).floor = s.floor := by rw [seated_eq]
theorem seated_mode : (seated s).mode = .session := by rw [seated_eq]
theorem seated_tuning : (seated s).tuning = s.tuning := by rw [seated_eq]
theorem seated_roster (n : Fin 200) : (seated s).roster[n] = (s.setMode .session).hotDerived n s.roster[n] := by
  rw [seated_eq]; exact mapTable_get _ _ _
end

/-- Whether the chair claims priority once the sitting has begun (R101, R159). -/
theorem seated_chairClaims (s : State) : (seated s).chairClaims = true ↔ s.floor.cause ≠ .silence ∧ s.tuning.priority = true ∧
    ∃ (n : Fin 200) (e : Entry), s.floor.chair = some n ∧ s.roster[n] = some e ∧ e.keyOn = true :=
  chairClaims_session (fun n => ⟨_, seated_roster s n⟩) (seated_floor s) (seated_mode s) (seated_tuning s)

theorem enterSession_rest (s : State) : enterSession s = { s with
    mode := .session, roster := (enterSession s).roster, floor := (enterSession s).floor, engine := (enterSession s).engine } :=
  (enterSession_floorStep s).rest

section
variable {s : State} (h : FloorEmpty s.floor)
include h

theorem enterSession_empty : enterSession s = (seated s).setCause (s.floor.cause.followed (seated s).chairClaims) := by
  have hempty : FloorEmpty (seated s).floor := (seated_floor s).symm ▸ h
  rw [enterSession_eq, hempty.followClaim, seated_floor]

/-- The terms of a hot-mic timer as a sitting begins: outside SESSION no slot is taken (R106, R114). -/
theorem session_hotTerms (n : Fin 200) (e : Entry) : (s.setMode .session).hotTerms n e = true ↔
    e.switch = .opened ∧ (e.presence = .live ∨ e.presence = .fading) ∧ s.floor.chair ≠ some n := by
  have hempty : FloorEmpty (s.setMode .session).floor := h
  rw [hempty.hotTerms, Bool.and_eq_true, Bool.and_eq_true, keyOn_iff, bne_iff_ne]
  exact ⟨fun ⟨⟨⟨hs, hp⟩, _⟩, hc⟩ => ⟨hs, hp, hc⟩, fun ⟨hs, hp, hc⟩ => ⟨⟨⟨hs, hp⟩, rfl⟩, hc⟩⟩

theorem enterSession_roster (n : Fin 200) : (enterSession s).roster[n] = s.roster[n].map fun e => { e with
    hot := if e.switch = .opened ∧ (e.presence = .live ∨ e.presence = .fading) ∧ s.floor.chair ≠ some n
      then some (e.hot.getD ⟨0, s.tuning.hotDelay == 0⟩) else none } := by
  rw [enterSession_empty h, State.setCause_roster, seated_eq]
  refine (mapTable_get _ _ _).trans (congrArg (fun f => s.roster[n].map f) (funext fun e => ?_))
  simp only [timerDerived, session_hotTerms h, State.setMode_tuning]

/-- What the hot-mic timer of a slot reports as a sitting begins (R106). -/
theorem session_hotReports (n : Fin 200) (e : Entry) : (s.setMode .session).hotReports n (some e) =
    if e.switch = .opened ∧ (e.presence = .live ∨ e.presence = .fading) ∧ s.floor.chair ≠ some n then
      (if e.hot = none ∧ s.tuning.hotDelay = 0 then [⟨.floor, .report ⟨.entry n, .hotMic⟩ true⟩] else [])
    else (if (∃ x, e.hot = some x ∧ x.reached = true) then [⟨.floor, .report ⟨.entry n, .hotMic⟩ false⟩] else []) := by
  simp only [State.hotReports, timerReports, session_hotTerms h, State.setMode_tuning]
  split
  · rfl
  · cases e.hot with
    | none => simp
    | some x => simp

theorem enterSession_floor {claims : Bool} (hclaims : claims = true ↔ s.tuning.priority = true ∧
      ∃ (n : Fin 200) (e : Entry), s.floor.chair = some n ∧ s.roster[n] = some e ∧ e.switch = .opened ∧
        (e.presence = .live ∨ e.presence = .fading)) :
    (enterSession s).floor = { s.floor with
      cause := if s.floor.cause = .silence then .silence else if claims then .chair else .none } := by
  have hseated : s.floor.cause ≠ .silence → (seated s).chairClaims = claims := fun hc => by
    rw [Bool.eq_iff_iff, seated_chairClaims, hclaims]
    simp only [keyOn_iff]
    exact and_iff_right hc
  rw [enterSession_empty h, State.setCause_floor, seated_floor, Cause.followed]
  by_cases hc : s.floor.cause = .silence
  · rw [if_pos hc, if_pos hc]
  · rw [if_neg hc, if_neg hc, hseated hc]

end

theorem setModeSession_brings {s : State} (hr : s.inReset = false) (hm : s.mode = .recess) :
    Brings .setModeSession s (enterSession s) ⟨.ok, []⟩ :=
  brings_of ⟨hr, by rw [hm]; nofun⟩ (exec_setModeSession s) (by simp only [setModeSessionBody, hm]; rfl)

theorem sessionIsEntered : Claims.SessionIsEntered := by
  intro s hr hm hlaw
  have hempty : FloorEmpty s.floor :=
    ⟨fun k => (hlaw.sitting (by rw [hm]; nofun) k).1, fun k => (hlaw.sitting (by rw [hm]; nofun) k).2⟩
  refine ⟨setModeSession_brings hr hm, enterSession_roster hempty, ?_, fun claims hc => enterSession_floor hempty hc,
    enterSession_rest s⟩
  rw [enterSession_empty hempty, State.setCause_engine, seated_eq]
  refine congrArg₂ (fun a b => { s.engine with posted := s.engine.posted ++ a ++ b }) (List.flatMap_congr fun n _ => ?_)
    (List.flatMap_congr fun n _ => ?_)
  · cases s.roster[n] with
    | none => rfl
    | some e => exact sittingReports_begin n e
  · cases s.roster[n] with
    | none => rfl
    | some e => exact session_hotReports hempty n e

end Sys2Proof.Machine
end


section
/-! PROOFS. The end of a sitting, and what the floor arbiter does outside SESSION (O8). -/

namespace Sys2Proof.Machine

/-! ### The floor arbiter outside SESSION -/

/-- What the floor arbiter leaves of one slot outside SESSION: its entry but for the hot-mic timer, which stays stopped (R106). -/
def TimerStops (a b : Option Entry) : Prop :=
  ∃ h : Option HotTimer, b = a.map (fun e => { e with hot := h }) ∧ ((∀ e ∈ a, e.hot = none) → h = none)

theorem TimerStops.refl (a : Option Entry) : TimerStops a a := by
  cases a with
  | none => exact ⟨none, rfl, fun _ => rfl⟩
  | some e => exact ⟨e.hot, rfl, fun h => h e rfl⟩

theorem TimerStops.trans {a b c : Option Entry} (h₁ : TimerStops a b) (h₂ : TimerStops b c) : TimerStops a c := by
  obtain ⟨x, rfl, hx⟩ := h₁
  obtain ⟨y, rfl, hy⟩ := h₂
  refine ⟨y, by cases a <;> rfl, fun h => hy fun e he => ?_⟩
  obtain ⟨f, -, rfl⟩ := Option.map_eq_some_iff.1 he
  exact hx h

/-- A stopped timer stays so. -/
theorem TimerStops.stopped {a b : Option Entry} (h : TimerStops a b) (ha : ∀ e ∈ a, e.hot = none) : ∀ e ∈ b, e.hot = none := by
  obtain ⟨x, rfl, hx⟩ := h
  intro e he
  obtain ⟨f, -, rfl⟩ := Option.map_eq_some_iff.1 he
  exact hx ha

/-- All that the floor arbiter does outside SESSION: hot-mic timers stop, and what it reports is false. -/
structure Calm (s t : State) : Prop where
  step : FloorStep s t
  timers : ∀ n : Fin 200, TimerStops s.roster[n] t.roster[n]
  posted : ∀ q ∈ t.engine.posted, q ∈ s.engine.posted ∨ ∃ id : WarnId, q.act = .report id false

theorem Calm.refl (s : State) : Calm s s := ⟨.refl s, fun _ => .refl _, fun _ => .inl⟩

theorem Calm.trans {s t u : State} (h₁ : Calm s t) (h₂ : Calm t u) : Calm s u where
  step := h₁.step.trans h₂.step
  timers n := (h₁.timers n).trans (h₂.timers n)
  posted q hq := (h₂.posted q hq).elim (h₁.posted q) .inr

/-- An operation that leaves entries and posted acts alone. -/
theorem Calm.of_slots {s t : State} (h : FloorStep s t) (hr : t.roster = s.roster) (he : t.engine = s.engine) : Calm s t :=
  ⟨h, fun n => by rw [hr]; exact .refl _, fun q hq => .inl (he ▸ hq)⟩

theorem mem_changeReport {b : Block} {id : WarnId} {old new : Bool} {q : Posted} (h : q ∈ changeReport b id old new) :
    q = ⟨b, .report id new⟩ := by
  unfold changeReport at h
  split at h
  · cases h
  · exact List.mem_singleton.1 h

theorem postChange_false_calm (s : State) (b : Block) (id : WarnId) (old : Bool) : Calm s (s.postChange b id old false) where
  step := .postChange _ _ _ _ _
  timers n := by rw [State.postChange_roster]; exact .refl _
  posted q hq := by
    rw [postChange_eq, List.mem_append] at hq
    exact hq.imp_right fun h => ⟨id, by rw [mem_changeReport h]⟩

theorem hotTerms_outside {s : State} (hm : s.mode ≠ .session) (n : Fin 200) (e : Entry) : s.hotTerms n e = false := by
  unfold State.hotTerms
  rw [beq_eq_false_iff_ne.2 hm]
  simp only [Bool.and_false, Bool.false_and]

theorem chairClaims_outside {s : State} (hm : s.mode ≠ .session) : s.chairClaims = false := by
  rw [State.chairClaims, chairSpeaking_outside (beq_eq_false_iff_ne.2 hm), Bool.false_and]

/-- A hot-mic timer derived outside SESSION stops (R106). -/
theorem hotDerived_outside {s : State} (hm : s.mode ≠ .session) (n : Fin 200) (x : Option Entry) :
    s.hotDerived n x = x.map fun e => { e with hot := none } := by
  simp only [State.hotDerived, hotTerms_outside hm, timerDerived, Bool.false_eq_true, if_false]

theorem hotReports_outside {s : State} (hm : s.mode ≠ .session) {n : Fin 200} {x : Option Entry} {q : Posted} (h : q ∈ s.hotReports n x) :
    q.act = .report ⟨.entry n, .hotMic⟩ false := by
  cases x with
  | none => cases h
  | some e =>
    simp only [State.hotReports, timerReports, hotTerms_outside hm, Bool.false_eq_true, if_false] at h
    split at h
    · split at h
      · rw [List.mem_singleton.1 h]
      · cases h
    · cases h

theorem deriveHot_calm {s : State} (hm : s.mode ≠ .session) (n : Fin 200) : Calm s (deriveHot n s) where
  step := deriveHot_floorStep n s
  timers m := by
    rw [deriveHot_slot, setAt_get]
    split
    · rename_i e
      rw [← e, hotDerived_outside hm]
      exact ⟨none, rfl, fun _ => rfl⟩
    · exact .refl _
  posted q hq := by
    rw [deriveHot_slot, List.mem_append] at hq
    exact hq.imp_right fun h => ⟨_, hotReports_outside hm h⟩

theorem deriveSlot_calm (n : Fin 200) (s : State) : Calm s (deriveSlot n s) := by
  unfold deriveSlot
  split
  · exact .refl s
  · split
    · exact .refl s
    · split
      · exact (Calm.of_slots (.setLive s _ _) rfl rfl).trans (postChange_false_calm _ _ _ _)
      · exact .of_slots (.setLive s _ _) rfl rfl

theorem derive_calm {s : State} (hm : s.mode ≠ .session) (n : Fin 200) : Calm s (derive n s) :=
  (deriveSlot_calm n s).trans (deriveHot_calm (by rw [(deriveSlot_floorStep n s).mode]; exact hm) n)

/-- An entry derived afresh outside SESSION has no hot-mic timer left (R106). -/
theorem derive_stops {s : State} (hm : s.mode ≠ .session) (n : Fin 200) :
    (derive n s).roster[n] = s.roster[n].map fun e => { e with hot := none } := by
  have hm' : (deriveSlot n s).mode ≠ .session := by rw [(deriveSlot_floorStep n s).mode]; exact hm
  rw [derive, deriveHot_slot, setAt_get_same, hotDerived_outside hm', deriveSlot_roster]

theorem moveBack_calm {s : State} (hm : s.mode ≠ .session) : Calm s (moveBack s) := by
  have hload : Calm s (returned s) := .of_slots (.slots s _ _ s.floor.cause) rfl rfl
  rw [moveBack_eq]
  exact forList_induct (P := Calm s) _ _ hload fun n _ t ht => ht.trans (derive_calm (by rw [ht.step.mode]; exact hm) n)

theorem endHold_calm {s : State} (hm : s.mode ≠ .session) : Calm s (endHold s) :=
  (moveBack_calm hm).trans (.of_slots (.setCause _ _) rfl rfl)

theorem followClaim_calm {s : State} (hm : s.mode ≠ .session) : Calm s (followClaim s) := by
  rw [followClaim_eq, chairClaims_outside hm]
  cases s.floor.cause with
  | none => exact .refl s
  | chair => exact endHold_calm hm
  | silence => exact .refl s

theorem floorTakes_calm {s : State} (hm : s.mode ≠ .session) (n : Fin 200) : Calm s (floorTakes n s) := by
  have hd := derive_calm hm n
  unfold floorTakes
  simp only
  split
  · exact hd.trans (followClaim_calm (by rw [hd.step.mode]; exact hm))
  · exact hd

theorem floorTakes_stops {s : State} (hm : s.mode ≠ .session) (n : Fin 200) :
    (floorTakes n s).roster[n] = s.roster[n].map fun e => { e with hot := none } := by
  have hd := derive_stops hm n
  unfold floorTakes
  simp only
  split
  · obtain ⟨x, hx, hstop⟩ := (followClaim_calm (s := derive n s) (by rw [(derive_floorStep n s).mode]; exact hm)).timers n
    rw [hd] at hx hstop
    have hnone : x = none := hstop fun e he => by
      obtain ⟨f, -, rfl⟩ := Option.map_eq_some_iff.1 he
      rfl
    rw [hx, hnone, Option.map_map]; rfl
  · exact hd

/-- On an empty floor with no hold of the chair, an entry's new presence changes nothing of the floor outside SESSION (R114). -/
theorem floorTakes_floor_outside {s : State} (hm : s.mode ≠ .session) (he : FloorEmpty s.floor) (hc : s.floor.cause ≠ .chair)
    (n : Fin 200) : (floorTakes n s).floor = s.floor := by
  have hslot : deriveSlot n s = s := by simp only [deriveSlot, he.liveSlotOf]
  have hd : (derive n s).floor = s.floor := by rw [derive, hslot, deriveHot_floor]
  have hm' : (derive n s).mode ≠ .session := by rw [(derive_floorStep n s).mode]; exact hm
  unfold floorTakes
  simp only
  split
  · rw [followClaim_eq, chairClaims_outside hm', hd]
    cases hcause : s.floor.cause with
    | none => exact hd
    | chair => exact absurd hcause hc
    | silence => exact hd
  · exact hd

/-! ### An observation outside SESSION -/

/-- What a state posts raises no warning of a sitting. -/
def NoSittingRaised (s : State) : Prop := ∀ q ∈ s.engine.posted, ∀ w, q.act.raises w → w.cls.sitting = false

theorem NoSittingRaised.calm {s t : State} (h : Calm s t) (hs : NoSittingRaised s) : NoSittingRaised t := by
  intro q hq w hw
  rcases h.posted q hq with hq | ⟨id, hact⟩
  · exact hs q hq w hw
  · rw [hact] at hw
    exact absurd hw.2 Bool.false_ne_true

theorem NoSittingRaised.post {s : State} (hs : NoSittingRaised s) (b : Block) {a : Act} (ha : ∀ w, a.raises w → w.cls.sitting = false) :
    NoSittingRaised (s.post b a) := by
  intro q hq w hw
  rcases List.mem_append.1 hq with hq | hq
  · exact hs q hq w hw
  · rw [List.mem_singleton.1 hq] at hw
    exact ha w hw

theorem NoSittingRaised.postChange {s : State} (hs : NoSittingRaised s) (b : Block) {id : WarnId} (old new : Bool)
    (hid : id.cls.sitting = false) : NoSittingRaised (s.postChange b id old new) := by
  unfold State.postChange
  split
  · exact hs
  · exact hs.post b fun w hw => by rw [hw.1]; exact hid

theorem NoSittingRaised.postBattery {s : State} (hs : NoSittingRaised s) (n : Fin 200) (old new : BattLevel) :
    NoSittingRaised (postBattery n old new s) := by
  unfold Machine.postBattery
  split
  · refine hs.post _ fun w hw => ?_
    rcases hw with ⟨rfl, -⟩ | ⟨rfl, -⟩ <;> rfl
  · exact (hs.postChange _ _ _ rfl).postChange _ _ _ rfl

/-- The fields of an entry once an observation has been applied, but for the hot-mic timer (R48, R49). -/
def Entry.measuredBy (e : Entry) (s : State) (o : Observation) : Entry :=
  { e.observed o with
    battery := evalBattery s.profiles[e.battery.profile] e.battery o.payload.cell
    signal := evalSignal s.tuning e.signal o.best }

/-- The reports of the roster and of the evaluators for an observation outside SESSION (R56, R74, R89). -/
def observedReports (n : Fin 200) (o : Observation) (e : Entry) (s : State) : State :=
  let t := postBattery n e.battery.level (e.measuredBy s o).battery.level (s.setSlot n (some (e.measuredBy s o)))
  if isReplacement s.profiles[e.battery.profile] e.battery o.payload.cell then t.post .battery (.quietCells n) else t

theorem applyObservation_outside {s : State} {n : Fin 200} {e : Entry} (hm : s.mode ≠ .session) (he : s.roster[n] = some e)
    (o : Observation) : applyObservation n o s = floorTakes n (observedReports n o e s) := by
  have hsession : (s.mode == .session) = false := beq_eq_false_iff_ne.2 hm
  have hlost : ∀ f, sigLostCond s.mode f = false := fun f => by rw [sigLostCond, hsession, Bool.false_and]
  have hweak : ∀ f, sigWeakCond s.mode f = false := fun f => by rw [sigWeakCond, hsession, Bool.false_and]
  have hmode : ∀ (b : Bool) (x y : BattLevel) (f : Entry),
      (if b then (postBattery n x y (s.setSlot n (some f))).post .battery (.quietCells n)
        else postBattery n x y (s.setSlot n (some f))).mode = s.mode := fun b x y f => by
    cases b <;> exact (postBattery_floorStep n x y _).mode
  unfold applyObservation observedReports Entry.measuredBy
  simp only [he, State.setSlot_mode, hlost, State.postChange_same, hmode, hweak]

section
variable {s : State} {n : Fin 200} {e : Entry} (o : Observation)

theorem observedReports_floorStep : FloorStep (s.setSlot n (some (e.measuredBy s o))) (observedReports n o e s) := by
  have hb := postBattery_floorStep n e.battery.level (e.measuredBy s o).battery.level (s.setSlot n (some (e.measuredBy s o)))
  unfold observedReports
  simp only
  split
  · exact hb.trans (.post _ _ _)
  · exact hb

theorem postBattery_roster (n : Fin 200) (a b : BattLevel) (s : State) : (postBattery n a b s).roster = s.roster := by
  unfold postBattery
  split
  · rfl
  · rw [State.postChange_roster, State.postChange_roster]

theorem postBattery_floor (n : Fin 200) (a b : BattLevel) (s : State) : (postBattery n a b s).floor = s.floor := by
  unfold postBattery
  split
  · rfl
  · rw [State.postChange_floor, State.postChange_floor]

theorem observedReports_roster (m : Fin 200) :
    (observedReports n o e s).roster[m] = if n = m then some (e.measuredBy s o) else s.roster[m] := by
  have hr : (observedReports n o e s).roster = setAt s.roster n (some (e.measuredBy s o)) := by
    unfold observedReports
    simp only
    split
    · exact postBattery_roster _ _ _ _
    · exact postBattery_roster _ _ _ _
  rw [hr, setAt_get]

theorem observedReports_floor : (observedReports n o e s).floor = s.floor := by
  unfold observedReports
  simp only
  split
  · exact postBattery_floor _ _ _ _
  · exact postBattery_floor _ _ _ _

theorem observedReports_noSitting (hs : NoSittingRaised s) : NoSittingRaised (observedReports n o e s) := by
  have hslot : NoSittingRaised (s.setSlot n (some (e.measuredBy s o))) := hs
  unfold observedReports
  simp only
  split
  · exact (hslot.postBattery _ _ _).post _ fun w hw => hw.elim
  · exact hslot.postBattery _ _ _

end

end Sys2Proof.Machine
end


section
/-! PROOFS. SET_MODE RECESS and SET_MODE DORMANT: the end of a sitting and the closing of the pool (O8). -/

namespace Sys2Proof.Machine

theorem setMode_modeStep (s : State) (m : Mode) : ModeStep s (s.setMode m) := rfl

/-! ### The end of a sitting -/

/-- The acts by which a sitting ends (R56, R89, R114, R127): a condition of a sitting reported false, and the forced quiet. -/
def EndsSitting (q : Posted) : Prop := q.act = .quietSitting ∨ ∃ id : WarnId, q.act = .report id false ∧ id.cls.sitting = true

theorem endsSitting_raises {q : Posted} (h : EndsSitting q) (w : WarnId) : ¬ q.act.raises w := by
  intro hw
  rcases h with h | ⟨id, h, -⟩ <;> rw [h] at hw
  · exact hw
  · exact Bool.false_ne_true hw.2

theorem endsSitting_changeReport {b : Block} {id : WarnId} {old : Bool} (hid : id.cls.sitting = true) {q : Posted}
    (h : q ∈ changeReport b id old false) : EndsSitting q := .inr ⟨id, by rw [mem_changeReport h], hid⟩

/-- Acts posted by which a sitting ends, beside those posted before. -/
def OnlyEnds (s t : State) : Prop := ∀ q ∈ t.engine.posted, q ∈ s.engine.posted ∨ EndsSitting q

theorem OnlyEnds.trans {s t u : State} (h₁ : OnlyEnds s t) (h₂ : OnlyEnds t u) : OnlyEnds s u :=
  fun q hq => (h₂ q hq).elim (h₁ q) .inr

theorem onlyEnds_postChange (s : State) (b : Block) {id : WarnId} (old : Bool) (hid : id.cls.sitting = true) :
    OnlyEnds s (s.postChange b id old false) := fun q hq => by
  rw [postChange_eq, List.mem_append] at hq
  exact hq.imp_right (endsSitting_changeReport hid)

/-- What the end of a sitting reports of one entry is false (R56, R89). -/
theorem sittingReports_end {n : Fin 200} {x : Option Entry} {q : Posted} (h : q ∈ sittingReports .session .recess n x) :
    EndsSitting q := by
  cases x with
  | none => cases h
  | some e =>
    rcases List.mem_append.1 h with h | h
    · exact endsSitting_changeReport rfl h
    · exact endsSitting_changeReport rfl h

theorem stopHot_none {n : Fin 200} {s : State} (he : s.roster[n] = none) : stopHot n s = s := by simp only [stopHot, he]

theorem stopHot_some {n : Fin 200} {s : State} {e : Entry} (he : s.roster[n] = some e) : stopHot n s = { s with
    roster := setAt s.roster n (some { e with hot := none })
    engine := { s.engine with
      posted := s.engine.posted ++ changeReport .floor (unitWarning n .hotMic) e.hotCond false } } := by
  simp only [stopHot, he]
  exact postChange_eq _ _ _ _ _

theorem stopHot_roster (n m : Fin 200) (s : State) :
    (stopHot n s).roster[m] = if n = m then s.roster[m].map (fun e => { e with hot := none }) else s.roster[m] := by
  cases he : s.roster[n] with
  | none =>
    rw [stopHot_none he]
    split
    · rename_i e; subst e; rw [he]; rfl
    · rfl
  | some e =>
    rw [stopHot_some he, setAt_get]
    split
    · rename_i e; subst e; rw [he]; rfl
    · rfl

theorem stopHot_floor (n : Fin 200) (s : State) : (stopHot n s).floor = s.floor := by
  cases he : s.roster[n] with
  | none => rw [stopHot_none he]
  | some e => rw [stopHot_some he]

theorem stopHot_onlyEnds (n : Fin 200) (s : State) : OnlyEnds s (stopHot n s) := fun q hq => by
  cases he : s.roster[n] with
  | none => rw [stopHot_none he] at hq; exact .inl hq
  | some e =>
    rw [stopHot_some he] at hq
    exact (List.mem_append.1 hq).imp_right (endsSitting_changeReport rfl)

/-- A loop over the roster that changes each slot of a list once. -/
theorem forList_roster {f : Fin 200 → State → State} {g : Entry → Entry}
    (hf : ∀ n m t, (f n t).roster[m] = if n = m then t.roster[m].map g else t.roster[m]) {l : List (Fin 200)} (hl : l.Nodup) (s : State)
    (m : Fin 200) : (forList f l s).roster[m] = if m ∈ l then s.roster[m].map g else s.roster[m] := by
  induction l generalizing s with
  | nil => rw [if_neg List.not_mem_nil]; rfl
  | cons n l ih =>
    obtain ⟨hn, hl⟩ := List.nodup_cons.1 hl
    show (forList f l (f n s)).roster[m] = _
    rw [ih hl, hf]
    by_cases e : n = m
    · subst e; rw [if_neg hn, if_pos rfl, if_pos (List.mem_cons_self ..)]
    · simp only [if_neg e, List.mem_cons, Ne.symm e, false_or]

/-- The floor once a sitting has ended (R114). -/
def Floor.emptied (f : Floor) : Floor :=
  { f with live := Vector.replicate 6 none, held := Vector.replicate 6 none, cause := if f.cause = .silence then .silence else .none }

theorem emptied_empty (f : Floor) : FloorEmpty f.emptied :=
  ⟨fun _ => Vector.getElem_replicate _, fun _ => Vector.getElem_replicate _⟩

theorem emptied_cause (f : Floor) : f.emptied.cause ≠ .chair := by
  show (if f.cause = .silence then Cause.silence else .none) ≠ .chair
  split <;> nofun

/-- What the floor arbiter reports of the slots that one entry gives back as a sitting ends (R114). -/
def reportFreed (freed : List LiveSlot) (n : Fin 200) (s : State) : State :=
  forList (fun x s => s.postChange .floor (unitWarning n .silentFloor) x.expired false) (freed.filter fun x => x.holder == n) s

theorem floorLeavesSession_eq (s : State) : floorLeavesSession s =
    forList (fun n t => stopHot n (reportFreed s.floor.liveByHolder n t)) (List.finRange 200) { s with floor := s.floor.emptied } := by
  have hcause : (match s.floor.cause with
      | .chair => Cause.none
      | .none => .none
      | .silence => .silence) = if s.floor.cause = .silence then .silence else .none := by cases s.floor.cause <;> rfl
  unfold floorLeavesSession Floor.emptied
  rw [← hcause]
  rfl

theorem reportFreed_roster (freed : List LiveSlot) (n : Fin 200) (s : State) : (reportFreed freed n s).roster = s.roster :=
  forList_induct (P := fun t => t.roster = s.roster) _ s rfl fun x _ t ht => by rw [State.postChange_roster, ht]

theorem reportFreed_floor (freed : List LiveSlot) (n : Fin 200) (s : State) : (reportFreed freed n s).floor = s.floor :=
  forList_induct (P := fun t => t.floor = s.floor) _ s rfl fun x _ t ht => by rw [State.postChange_floor, ht]

theorem reportFreed_onlyEnds (freed : List LiveSlot) (n : Fin 200) (s : State) : OnlyEnds s (reportFreed freed n s) :=
  forList_induct (P := OnlyEnds s) _ s (fun _ => .inl) fun _ _ t ht => ht.trans (onlyEnds_postChange t _ _ rfl)

section
variable (s : State)

theorem floorLeavesSession_roster (m : Fin 200) :
    (floorLeavesSession s).roster[m] = s.roster[m].map fun e => { e with hot := none } := by
  rw [floorLeavesSession_eq, forList_roster (g := fun e => { e with hot := none }) (fun n m t => by
    rw [stopHot_roster, reportFreed_roster]) (List.nodup_finRange 200), if_pos (List.mem_finRange m)]

theorem floorLeavesSession_floor : (floorLeavesSession s).floor = s.floor.emptied := by
  rw [floorLeavesSession_eq]
  exact forList_induct (P := fun t => t.floor = s.floor.emptied) _ _ rfl fun n _ t ht => by
    rw [stopHot_floor, reportFreed_floor, ht]

theorem floorLeavesSession_onlyEnds : OnlyEnds s (floorLeavesSession s) := by
  rw [floorLeavesSession_eq]
  exact forList_induct (P := OnlyEnds s) _ _ (fun _ => .inl) fun n _ t ht =>
    ht.trans ((reportFreed_onlyEnds _ n t).trans (stopHot_onlyEnds n _))

/-- The state in which the end of a sitting has been published and its conditions reported (R56, R89). -/
def dismissed : State :=
  { s.setMode .recess with engine := { s.engine with
    posted := s.engine.posted ++ (List.finRange 200).flatMap fun n => sittingReports .session .recess n s.roster[n] } }

theorem dismissed_roster : (dismissed s).roster = s.roster := rfl
theorem dismissed_floor : (dismissed s).floor = s.floor := rfl

theorem leaveSession_eq : leaveSession s = (floorLeavesSession (dismissed s)).post .engine .quietSitting := by
  have hreported : forEach (reportSitting .session .recess) (s.setMode .recess) = dismissed s := by
    rw [forEach_eq_forList, forList_reportSitting]; rfl
  rw [← hreported]; rfl

theorem leaveSession_roster (m : Fin 200) : (leaveSession s).roster[m] = s.roster[m].map fun e => { e with hot := none } := by
  rw [leaveSession_eq, State.post_roster, floorLeavesSession_roster, dismissed_roster]

theorem leaveSession_floor : (leaveSession s).floor = s.floor.emptied := by
  rw [leaveSession_eq, State.post_floor, floorLeavesSession_floor, dismissed_floor]

theorem leaveSession_mode : (leaveSession s).mode = .recess := (leaveSession_floorStep s).mode

theorem leaveSession_onlyEnds : OnlyEnds s (leaveSession s) := by
  rw [leaveSession_eq]
  intro q hq
  rcases List.mem_append.1 hq with hq | hq
  · rcases floorLeavesSession_onlyEnds (dismissed s) q hq with hq | hq
    · rcases List.mem_append.1 hq with hq | hq
      · exact .inl hq
      · obtain ⟨n, -, hq⟩ := List.mem_flatMap.1 hq
        exact .inr (sittingReports_end hq)
    · exact .inr hq
  · exact .inr (.inl (by rw [List.mem_singleton.1 hq]))

theorem leaveSession_quiets : ⟨.engine, .quietSitting⟩ ∈ (leaveSession s).engine.posted := by
  rw [leaveSession_eq]
  exact List.mem_append_right _ (List.mem_singleton.2 rfl)

theorem leaveSession_modeStep : ModeStep s (leaveSession s) :=
  (setMode_modeStep s .recess).trans (leaveSession_floorStep s).modeStep

end

/-! ### The forced quiet -/

/-- After a sitting no warning of its four classes is left (R127). -/
theorem leaveSession_lacks {s : State} (hends : ∀ q ∈ (leaveSession s).engine.posted, EndsSitting q) :
    (leaveSession s).takeReports.engine.lacks fun w => w.cls.sitting = true := by
  exact takeReports_reach (I := fun _ => True) (P := fun u => u.engine.lacks fun w => w.cls.sitting = true) (leaveSession_quiets s)
    trivial (fun _ _ _ => trivial) (fun p hp u _ hl => applyAct_lacks hl _ fun w hw => absurd hw (endsSitting_raises (hends p hp) w))
    fun u _ => quietAll_lacks_selected _ fun r hr => hr

theorem mem_putRecord_other {r x : WarnRecord} {l : List WarnRecord} (h : x ∈ l) (hne : x.id ≠ r.id) : x ∈ putRecord r l := by
  induction l with
  | nil => cases h
  | cons y ys ih =>
    unfold putRecord
    split
    · rename_i hy
      rcases List.mem_cons.1 h with rfl | h
      · exact absurd hy hne
      · exact List.mem_cons_of_mem _ h
    · split
      · exact List.mem_cons_of_mem _ h
      · rcases List.mem_cons.1 h with rfl | h
        · exact List.mem_cons_self ..
        · exact List.mem_cons_of_mem _ (ih h)

/-- A clear leaves every other warning as it is (R121). -/
theorem clear_keeps {g : Engine} {t : PendingType} {id : WarnId} {r : WarnRecord} (h : r ∈ g.warnings) (hne : r.id ≠ id) :
    r ∈ (g.clear t id).warnings := by
  have hdrop : r ∈ (g.drop id).warnings := List.mem_filter.2 ⟨h, bne_iff_ne.2 hne⟩
  unfold Engine.clear
  split
  · split
    · rw [Engine.leave_warnings]; exact hdrop
    · exact mem_putRecord_other h hne
  · exact hdrop
  · exact h
  · exact h

theorem takeReport_false_keeps {s : State} {id : WarnId} {r : WarnRecord} (h : r ∈ s.engine.warnings) (hne : r.id ≠ id) :
    r ∈ (s.takeReport id false).engine.warnings := by
  unfold State.takeReport
  split
  · exact clear_keeps h hne
  · exact h

/-- The acts by which a sitting ends leave every warning of another class (R127). -/
theorem takeReports_endsSitting {s : State} (hs : ∀ q ∈ s.engine.posted, EndsSitting q) {r : WarnRecord} (hr : r ∈ s.engine.warnings)
    (hc : r.id.cls.sitting = false) : r ∈ s.takeReports.engine.warnings := by
  refine takeReports_induct (P := fun u => r ∈ u.engine.warnings) hr fun q hq u hu => ?_
  rcases hs q hq with h | ⟨id, h, hid⟩ <;> rw [h]
  · show r ∈ (u.engine.quietAll _).warnings
    rw [quietAll_warnings]
    exact List.mem_filter.2 ⟨hu, by rw [hc]; rfl⟩
  · exact takeReport_false_keeps hu fun e => by rw [e, hid] at hc; cases hc

theorem leaveSession_ends {s : State} (hp : s.engine.posted = []) : ∀ q ∈ (leaveSession s).engine.posted, EndsSitting q :=
  fun q hq => (leaveSession_onlyEnds s q hq).resolve_left (by rw [hp]; exact List.not_mem_nil)

end Sys2Proof.Machine
end


section
/-! PROOFS. The closing of the pool at the entry into DORMANT, and SET_MODE as commanded (O8). -/

namespace Sys2Proof.Machine

/-! ### A closing outside SESSION -/

theorem applyObservation_none {s : State} {n : Fin 200} (he : s.roster[n] = none) (o : Observation) : applyObservation n o s = s := by
  simp only [applyObservation, he]

/-- What a closing does to its position: nothing at an empty one; it is freed where the unit is gone; else the observation is applied. -/
theorem closeAt_outside {s : State} (hm : s.mode ≠ .session) (i : Fin 12) :
    (s.combiner.pool[i] = none ∧ closeAt i s = s) ∨
    (∃ e : PoolEntry, s.combiner.pool[i] = some e ∧ s.roster[e.entry] = none ∧ closeAt i s = s.setPool i none) ∨
    ∃ (e : PoolEntry) (f : Entry), s.combiner.pool[i] = some e ∧ s.roster[e.entry] = some f ∧
      closeAt i s = floorTakes e.entry (observedReports e.entry e.observation f (s.setPool i none)) := by
  cases hi : s.combiner.pool[i] with
  | none => exact .inl ⟨rfl, by rw [closeAt, hi]⟩
  | some e =>
    have hclose : closeAt i s = applyObservation e.entry e.observation (s.setPool i none) := by rw [closeAt, hi]
    cases he : s.roster[e.entry] with
    | none => exact .inr (.inl ⟨e, rfl, he, hclose.trans (applyObservation_none (s := s.setPool i none) he _)⟩)
    | some f => exact .inr (.inr ⟨e, f, rfl, he, hclose.trans (applyObservation_outside (s := s.setPool i none) hm he _)⟩)

section
variable {s : State} (hm : s.mode ≠ .session) (i : Fin 12) (n : Fin 200) (o : Observation) (f : Entry)
include hm

theorem observedReports_mode : (observedReports n o f (s.setPool i none)).mode ≠ .session := by
  rw [(observedReports_floorStep o).mode]; exact hm

/-- A closing leaves the entries of others as they are, but for a hot-mic timer that stops. -/
theorem closeAt_beside (h : ∀ e : PoolEntry, s.combiner.pool[i] = some e → e.entry ≠ n) :
    TimerStops s.roster[n] (closeAt i s).roster[n] := by
  rcases closeAt_outside hm i with ⟨-, hc⟩ | ⟨e, -, -, hc⟩ | ⟨e, f, he, -, hc⟩ <;> rw [hc]
  · exact .refl _
  · exact .refl _
  · have hcalm := (floorTakes_calm (observedReports_mode hm i e.entry e.observation f) e.entry).timers n
    rwa [observedReports_roster, if_neg (h e he)] at hcalm

/-- The entry whose position closes takes the observation, and has no hot-mic timer outside SESSION (R48, R106). -/
theorem closeAt_own {e : PoolEntry} {f : Entry} (hi : s.combiner.pool[i] = some e) (hf : s.roster[e.entry] = some f) :
    (closeAt i s).roster[e.entry] = some { f.measuredBy s e.observation with hot := none } := by
  rcases closeAt_outside hm i with ⟨hnone, -⟩ | ⟨e', he, hnone, -⟩ | ⟨e', f', he, hf', hc⟩
  · rw [hi] at hnone; cases hnone
  · rw [hi] at he; cases he
    rw [hf] at hnone; cases hnone
  · rw [hi] at he; cases he
    rw [hf] at hf'; cases hf'
    rw [hc, floorTakes_stops (observedReports_mode hm i _ _ f), observedReports_roster, if_pos rfl]
    rfl

/-- A closing starts no hot-mic timer (R106). -/
theorem closeAt_stopped (h : ∀ (m : Fin 200), ∀ e ∈ s.roster[m], e.hot = none) :
    ∀ (m : Fin 200), ∀ e ∈ (closeAt i s).roster[m], e.hot = none := by
  intro m
  rcases closeAt_outside hm i with ⟨-, hc⟩ | ⟨e, -, -, hc⟩ | ⟨e, f, he, hf, hc⟩
  · rw [hc]; exact h m
  · rw [hc]; exact h m
  · by_cases hme : e.entry = m
    · subst hme
      rw [closeAt_own hm i he hf]
      rintro _ ⟨⟩; rfl
    · refine (closeAt_beside hm i m fun e' he' => ?_).stopped (h m)
      rw [he] at he'; cases he'; exact hme

/-- A closing changes nothing of an empty floor without a hold of the chair (R114). -/
theorem closeAt_floor (hempty : FloorEmpty s.floor) (hcause : s.floor.cause ≠ .chair) : (closeAt i s).floor = s.floor := by
  rcases closeAt_outside hm i with ⟨-, hc⟩ | ⟨e, -, -, hc⟩ | ⟨e, f, -, -, hc⟩ <;> rw [hc]
  · rfl
  · have hfloor : (observedReports e.entry e.observation f (s.setPool i none)).floor = s.floor := observedReports_floor _
    rw [floorTakes_floor_outside (observedReports_mode hm i _ _ f) (hfloor ▸ hempty) (by rw [hfloor]; exact hcause), hfloor]

/-- A closing raises no warning of a sitting (R56, R89, R106). -/
theorem closeAt_noSitting (h : NoSittingRaised s) : NoSittingRaised (closeAt i s) := by
  rcases closeAt_outside hm i with ⟨-, hc⟩ | ⟨e, -, -, hc⟩ | ⟨e, f, -, -, hc⟩ <;> rw [hc]
  · exact h
  · exact h
  · have hpool : NoSittingRaised (s.setPool i none) := h
    exact (observedReports_noSitting _ hpool).calm (floorTakes_calm (observedReports_mode hm i _ _ f) _)

end

/-! ### The closing of all -/

theorem forList_append {α : Type} (f : α → State → State) (a b : List α) (s : State) :
    forList f (a ++ b) s = forList f b (forList f a s) := List.foldl_append

/-- A property that closings keep outside SESSION holds after any number of them. -/
theorem closings_induct {P : State → Prop} {s : State} (hm : s.mode ≠ .session) (h0 : P s) (l : List (Fin 12))
    (hs : ∀ i ∈ l, ∀ u, EntryStep s u → u.mode ≠ .session → P u → P (closeAt i u)) : P (forList closeAt l s) :=
  (forList_induct (P := fun u => EntryStep s u ∧ P u) l s ⟨.refl s, h0⟩ fun i hi u hu =>
    ⟨hu.1.trans (closeAt_entryStep i u), hs i hi u hu.1 (by rw [hu.1.mode]; exact hm) hu.2⟩).2

/-- Closings leave an entry that none of them concerns, but for a hot-mic timer that stops. -/
theorem closings_beside {s : State} (hm : s.mode ≠ .session) {n : Fin 200} {l : List (Fin 12)}
    (h : ∀ i ∈ l, ∀ e : PoolEntry, s.combiner.pool[i] = some e → e.entry ≠ n) :
    TimerStops s.roster[n] (forList closeAt l s).roster[n] := by
  refine (closings_induct (P := fun u => TimerStops s.roster[n] u.roster[n] ∧
    ∀ (j : Fin 12) (e : PoolEntry), u.combiner.pool[j] = some e → s.combiner.pool[j] = some e) hm ⟨.refl _, fun _ _ => id⟩ l
    fun i hi u _ hmu hu => ⟨hu.1.trans (closeAt_beside hmu i n fun e he => h i hi e (hu.2 i e he)), fun j e he => ?_⟩).1
  have hpool := forList_closeAt_pool j [i] u
  rw [show forList closeAt [i] u = closeAt i u from rfl, he] at hpool
  split at hpool
  · cases hpool
  · exact hu.2 j e hpool.symm

/-- An entry whose open pool entry is closed with all others shows its observation (R34). -/
theorem closeAll_own {s : State} (hm : s.mode ≠ .session)
    (once : ∀ (i j : Fin 12) (e f : PoolEntry), s.combiner.pool[i] = some e → s.combiner.pool[j] = some f → e.entry = f.entry → i = j)
    {i : Fin 12} {e : PoolEntry} {f : Entry} (hi : s.combiner.pool[i] = some e) (hf : s.roster[e.entry] = some f) :
    (closeAll s).roster[e.entry] = some { f.measuredBy s e.observation with hot := none } := by
  obtain ⟨a, b, hab⟩ := List.append_of_mem ((mem_positions s.combiner (fun _ => true) i).2 ⟨e, hi, rfl⟩)
  have hnd := positions_nodup s.combiner fun _ => true
  rw [hab, List.nodup_middle, List.nodup_cons, List.mem_append, not_or] at hnd
  obtain ⟨⟨ha, hb⟩, -⟩ := hnd
  have hapart : ∀ l : List (Fin 12), i ∉ l → ∀ j ∈ l, ∀ e' : PoolEntry, s.combiner.pool[j] = some e' → e'.entry ≠ e.entry :=
    fun l hl j hj e' he' hne => hl (once j i e' e he' hi hne ▸ hj)
  have hbefore : EntryStep s (forList closeAt a s) := .forList closeAt_entryStep a s
  obtain ⟨x, hx, -⟩ := closings_beside hm (hapart a ha)
  rw [hf, Option.map_some] at hx
  have hmid : (forList closeAt a s).mode ≠ .session := by rw [hbefore.mode]; exact hm
  have hpool : (forList closeAt a s).combiner.pool[i] = some e := by rw [forList_closeAt_pool, if_neg ha, hi]
  have hown := closeAt_own hmid i hpool hx
  have hafter : (closeAt i (forList closeAt a s)).mode ≠ .session := by rw [(closeAt_entryStep i _).mode]; exact hmid
  have hpools : ∀ j ∈ b, ∀ e' : PoolEntry, (closeAt i (forList closeAt a s)).combiner.pool[j] = some e' → e'.entry ≠ e.entry := by
    intro j hj e' he'
    have hrun : closeAt i (forList closeAt a s) = forList closeAt (a ++ [i]) s := (forList_append closeAt a [i] s).symm
    rw [hrun, forList_closeAt_pool] at he'
    split at he'
    · cases he'
    · exact hapart b hb j hj e' he'
  obtain ⟨y, hy, hstop⟩ := closings_beside hafter hpools
  rw [hown] at hy hstop
  have hnone : y = none := hstop (by rintro _ ⟨⟩; rfl)
  have hall : closeAll s = forList closeAt b (closeAt i (forList closeAt a s)) := by
    rw [closeAll, hab, forList_append]; rfl
  rw [hall, hy, hnone, Option.map_some, Entry.measuredBy, Entry.measuredBy, hbefore.profiles, hbefore.tuning]
  rfl

/-! ### The entry into DORMANT -/

theorem recessEffects_session {s : State} (h : s.mode = .session) : recessEffects s = (leaveSession s).takeReports := by
  simp only [recessEffects, h]

theorem recessEffects_recess {s : State} (h : s.mode = .recess) : recessEffects s = s := by
  simp only [recessEffects, h]

theorem recess_or_session {s : State} (h : s.mode ≠ .dormant) : s.mode = .recess ∨ s.mode = .session := by
  cases hm : s.mode with
  | dormant => exact absurd hm h
  | recess => exact .inl rfl
  | session => exact .inr rfl

/-- What the recess effects of an entry into DORMANT leave (R160, step 1). -/
theorem recessEffects_leaves {s : State} (h : s.mode ≠ .dormant) : ModeStep s (recessEffects s) ∧
    (recessEffects s).mode = .recess ∧ (recessEffects s).combiner = s.combiner ∧
    ∀ n : Fin 200, ∃ x : Option HotTimer, (recessEffects s).roster[n] = s.roster[n].map fun e => { e with hot := x } := by
  rcases recess_or_session h with hm | hm
  · rw [recessEffects_recess hm]
    exact ⟨.refl s, hm, rfl, (FloorStep.refl s).roster⟩
  · rw [recessEffects_session hm]
    refine ⟨(leaveSession_modeStep s).trans (takeReports_modeStep _), ?_, ?_, fun n => ⟨none, ?_⟩⟩
    · rw [takeReports_mode, leaveSession_mode]
    · rw [takeReports_combiner]; exact (leaveSession_floorStep s).combiner
    · rw [takeReports_roster, leaveSession_roster]

theorem enterDormant_modeStep {s : State} (h : s.mode ≠ .dormant) : ModeStep s (enterDormant s) :=
  (recessEffects_leaves h).1.trans (((closeAll_entryStep (recessEffects s)).modeStep.trans (takeReports_modeStep _)).trans rfl)

theorem enterDormant_roster (s : State) : (enterDormant s).roster = (closeAll (recessEffects s)).roster := takeReports_roster _

theorem enterDormant_floor (s : State) : (enterDormant s).floor = (closeAll (recessEffects s)).floor := takeReports_floor _

theorem enterDormant_combiner (s : State) : (enterDormant s).combiner = (closeAll (recessEffects s)).combiner := takeReports_combiner _

theorem setModeDormant_brings {s : State} (hr : s.inReset = false) (hm : s.mode ≠ .dormant) :
    Brings .setModeDormant s (enterDormant s) ⟨.ok, []⟩ := by
  have hbody : setModeDormantBody s = .acted (enterDormant s) (okReply []) := by
    rcases recess_or_session hm with h | h <;> simp only [setModeDormantBody, h]
  show runDormantCommand .setModeDormant setModeDormantBody s = _
  rw [runDormantCommand, hr, hbody]
  rfl

/-- A sitting that ends at an entry into DORMANT leaves the floor empty and no hot-mic timer, whatever observations follow (R114). -/
theorem enterDormant_fromSession {s : State} (hm : s.mode = .session) :
    (enterDormant s).floor = s.floor.emptied ∧ ∀ (n : Fin 200), ∀ f ∈ (enterDormant s).roster[n], f.hot = none := by
  have hmode : (recessEffects s).mode ≠ .session := by
    rw [(recessEffects_leaves (by rw [hm]; nofun)).2.1]; nofun
  have hfloor : (recessEffects s).floor = s.floor.emptied := by
    rw [recessEffects_session hm, takeReports_floor, leaveSession_floor]
  constructor
  · rw [enterDormant_floor]
    refine closings_induct (P := fun u => u.floor = s.floor.emptied) hmode hfloor _ fun i _ u _ hmu hu => ?_
    rw [closeAt_floor hmu i (hu ▸ emptied_empty _) (by rw [hu]; exact emptied_cause _), hu]
  · rw [enterDormant_roster]
    refine closings_induct (P := fun u => ∀ (n : Fin 200), ∀ f ∈ u.roster[n], f.hot = none) hmode (fun n f hf => ?_) _
      fun i _ u _ hmu hu => closeAt_stopped hmu i hu
    rw [recessEffects_session hm, takeReports_roster, leaveSession_roster] at hf
    obtain ⟨e, -, rfl⟩ := Option.map_eq_some_iff.1 hf
    rfl

/-- The unit of every open pool entry shows its observation after an entry into DORMANT (R34). -/
theorem enterDormant_observed {s : State} (hm : s.mode ≠ .dormant) (hs : PoolLaw s) {i : Fin 12} {e : PoolEntry} {f : Entry}
    (hi : s.combiner.pool[i] = some e) (hf : s.roster[e.entry] = some f) :
    (enterDormant s).roster[e.entry] = some { f.measuredBy s e.observation with hot := none } := by
  obtain ⟨hstep, hmode, hcombiner, hroster⟩ := recessEffects_leaves hm
  obtain ⟨x, hx⟩ := hroster e.entry
  have hprofiles : (recessEffects s).profiles = s.profiles := by rw [hstep]
  have htuning : (recessEffects s).tuning = s.tuning := by rw [hstep]
  rw [hf, Option.map_some] at hx
  have hown := closeAll_own (s := recessEffects s) (by rw [hmode]; nofun) (by rw [hcombiner]; exact hs.once) (by rw [hcombiner]; exact hi) hx
  rw [enterDormant_roster, hown, Entry.measuredBy, Entry.measuredBy, hprofiles, htuning]
  rfl

theorem enterDormant_posted (s : State) : (enterDormant s).engine.posted = [] := takeReports_posted _

/-- No warning of a sitting is left at an entry into DORMANT from SESSION (R127). -/
theorem enterDormant_lacks {s : State} (hm : s.mode = .session) (hp : s.engine.posted = []) :
    (enterDormant s).engine.lacks fun w => w.cls.sitting = true := by
  have hmode : (recessEffects s).mode ≠ .session := by
    rw [(recessEffects_leaves (by rw [hm]; nofun)).2.1]; nofun
  have hposted : NoSittingRaised (recessEffects s) := by
    intro q hq
    rw [recessEffects_session hm, takeReports_posted] at hq
    cases hq
  have hlacks : (recessEffects s).engine.lacks fun w => w.cls.sitting = true := by
    rw [recessEffects_session hm]
    exact leaveSession_lacks (leaveSession_ends hp)
  have hall : NoSittingRaised (closeAll (recessEffects s)) :=
    closings_induct hmode hposted _ fun i _ u _ hmu hu => closeAt_noSitting hmu i hu
  have hwarn : (closeAll (recessEffects s)).engine.warnings = (recessEffects s).engine.warnings :=
    (closeAll_entryStep _).warnings
  refine takeReports_induct (P := fun u => u.engine.lacks fun w => w.cls.sitting = true) ?_ fun q hq u hu =>
    applyAct_lacks hu _ fun w hw _ hsit => ?_
  · intro r hr
    exact hlacks r (hwarn ▸ hr)
  · rw [hall q hq w hw] at hsit; cases hsit

end Sys2Proof.Machine
end


section
/-! PROOFS. SET_MODE by the mode it finds (O8). -/

namespace Sys2Proof.Machine

theorem ready_of_recess {s : State} (hr : s.inReset = false) (hm : s.mode = .recess) : Ready s := ⟨hr, by rw [hm]; nofun⟩

theorem ready_of_session {s : State} (hr : s.inReset = false) (hm : s.mode = .session) : Ready s := ⟨hr, by rw [hm]; nofun⟩

/-! ### SET_MODE RECESS -/

theorem setModeRecess_brings {s : State} (hr : s.inReset = false) (hm : s.mode = .session) :
    Brings (.setModeRecess 0) s (leaveSession s) ⟨.ok, []⟩ :=
  brings_of (ready_of_session hr hm) (exec_setModeRecess 0 s) (by
    simp only [setModeRecessBody, ne_eq, not_true_eq_false, if_false, hm]; rfl)

theorem setModeRecess_again {s : State} (hr : s.inReset = false) (hm : s.mode = .recess) :
    OnlyAnswers (.setModeRecess 0) s ⟨.ok, []⟩ :=
  onlyAnswers_of (ready_of_recess hr hm) (exec_setModeRecess 0 s) (by
    simp only [setModeRecessBody, ne_eq, not_true_eq_false, if_false, hm]; rfl)

theorem setModeRecess_refused {s : State} (hs : Ready s) {v : Byte} (hv : v ≠ 0) : OnlyAnswers (.setModeRecess v) s ⟨.badArg, []⟩ :=
  onlyAnswers_of hs (exec_setModeRecess v s) (by simp only [setModeRecessBody, ne_eq, hv, not_false_eq_true, if_true]; rfl)

theorem recessIsEntered {s : State} (hr : s.inReset = false) (hm : s.mode = .session) : ∃ t, exec (.setModeRecess 0) s = .next t ∧
    (∀ k : Fin 6, t.floor.live[k] = none ∧ t.floor.held[k] = none) ∧
    t.floor = { s.floor with
      live := t.floor.live, held := t.floor.held, cause := if s.floor.cause = .silence then .silence else .none } ∧
    (∀ n : Fin 200, t.roster[n] = s.roster[n].map fun e => { e with hot := none }) ∧
    t = complete (.setModeRecess 0) ⟨.ok, []⟩ { s with
      mode := .recess, roster := t.roster, floor := t.floor, engine := t.engine, choice := t.choice, lines := t.lines } := by
  have hstep := leaveSession_floorStep s
  have hframe := complete_modeStep (leaveSession_modeStep s) (.setModeRecess 0) ⟨.ok, []⟩
  have hclock : (leaveSession s).clockRunning = s.clockRunning := hstep.clockRunning
  have hcombiner : (leaveSession s).combiner = s.combiner := hstep.combiner
  rw [leaveSession_mode, hclock, hcombiner] at hframe
  refine ⟨_, setModeRecess_brings hr hm, ?_⟩
  simp only [complete_floor, complete_roster, complete_engine, complete_choice, complete_lines, finish_floor, finish_roster,
    leaveSession_floor]
  refine ⟨fun k => ⟨(emptied_empty s.floor).live k, (emptied_empty s.floor).held k⟩, rfl, leaveSession_roster s, ?_⟩
  rw [leaveSession_floor] at hframe
  exact hframe

/-! ### SET_MODE SESSION -/

theorem setModeSession_again {s : State} (hr : s.inReset = false) (hm : s.mode = .session) :
    OnlyAnswers .setModeSession s ⟨.ok, []⟩ :=
  onlyAnswers_of (ready_of_session hr hm) (exec_setModeSession s) (by simp only [setModeSessionBody, hm]; rfl)

theorem enterSession_modeStep (s : State) : ModeStep s (enterSession s) :=
  (setMode_modeStep s .session).trans (enterSession_floorStep s).modeStep

theorem sessionIsReached {s : State} (hr : s.inReset = false) (hm : s.mode = .recess) : ∃ t, exec .setModeSession s = .next t ∧
    t.floor = { s.floor with live := t.floor.live, held := t.floor.held, cause := t.floor.cause } ∧
    (∀ n : Fin 200, ∃ h, t.roster[n] = s.roster[n].map fun e => { e with hot := h }) ∧
    t = complete .setModeSession ⟨.ok, []⟩ { s with
      mode := .session, roster := t.roster, floor := t.floor, engine := t.engine, choice := t.choice, lines := t.lines } := by
  have hstep := enterSession_floorStep s
  have hframe := complete_modeStep (enterSession_modeStep s) .setModeSession ⟨.ok, []⟩
  have hmode : (enterSession s).mode = .session := hstep.mode
  have hclock : (enterSession s).clockRunning = s.clockRunning := hstep.clockRunning
  have hcombiner : (enterSession s).combiner = s.combiner := hstep.combiner
  rw [hmode, hclock, hcombiner] at hframe
  refine ⟨_, setModeSession_brings hr hm, ?_⟩
  simp only [complete_floor, complete_roster, complete_engine, complete_choice, complete_lines, finish_floor, finish_roster]
  exact ⟨hstep.floor, hstep.roster, hframe⟩

/-! ### SET_MODE DORMANT -/

theorem setModeDormant_again {s : State} (hr : s.inReset = false) (hm : s.mode = .dormant) :
    exec .setModeDormant s = .next (complete .setModeDormant ⟨.ok, []⟩ s) := by
  have hbody : setModeDormantBody s = .answered s (okReply []) := by simp only [setModeDormantBody, hm]
  rw [exec_setModeDormant, runDormantCommand, hr, hbody]
  rfl

theorem dormantIsReached {s : State} (hr : s.inReset = false) (hm : s.mode ≠ .dormant) : ∃ t, exec .setModeDormant s = .next t ∧
    (∀ i : Fin 12, t.combiner.pool[i] = none) ∧ t.combiner = { s.combiner with pool := t.combiner.pool } ∧
    (∀ n : Fin 200, t.roster[n] = none ↔ s.roster[n] = none) ∧
    t = complete .setModeDormant ⟨.ok, []⟩ { s with
      mode := .dormant, clockRunning := false, combiner := t.combiner, roster := t.roster
      floor := t.floor, engine := t.engine, choice := t.choice, lines := t.lines } := by
  obtain ⟨-, -, hcombiner, hroster⟩ := recessEffects_leaves hm
  have hclosed := closeAll_entryStep (recessEffects s)
  have hframe := complete_modeStep (enterDormant_modeStep hm) .setModeDormant ⟨.ok, []⟩
  refine ⟨_, setModeDormant_brings hr hm, ?_⟩
  simp only [complete_combiner, complete_floor, complete_roster, complete_engine, complete_choice, complete_lines, finish_combiner,
    finish_floor, finish_roster]
  refine ⟨fun i => ?_, ?_, fun n => ?_, hframe⟩
  · simp only [enterDormant_combiner]; exact closeAll_pool _ i
  · simp only [enterDormant_combiner]
    refine hclosed.combiner.trans ?_
    rw [hcombiner]
  · obtain ⟨x, hx⟩ := hroster n
    simp only [enterDormant_roster]
    rw [hclosed.empty, hx, Option.map_eq_none_iff]

theorem setModeChangesTheMode : Claims.SetModeChangesTheMode := fun _ hr =>
  ⟨recessIsEntered hr, setModeRecess_again hr, fun _ hv hm => setModeRecess_refused ⟨hr, hm⟩ hv, setModeSession_again hr,
    sessionIsReached hr, dormantIsReached hr, setModeDormant_again hr⟩

/-- The pool as it closes at an entry into DORMANT: each open entry once, in the order of the roster (R34; assumption log 11). -/
theorem dormantClosesThePool {s : State} (hr : s.inReset = false) (hm : s.mode ≠ .dormant) : ∃ (s' : State) (l : List (Fin 12)),
    s' = (if s.mode = .session then (leaveSession s).takeReports else s) ∧ l.Nodup ∧
    (∀ i : Fin 12, i ∈ l ↔ s.combiner.pool[i] ≠ none) ∧
    (l.filterMap fun i => s.combiner.pool[i].map fun e => e.entry.1).Pairwise (· ≤ ·) ∧
    Brings .setModeDormant s
      { (l.foldl (fun u i => closeAt i u) s').takeReports with mode := .dormant, clockRunning := false } ⟨.ok, []⟩ := by
  obtain ⟨-, -, hcombiner, -⟩ := recessEffects_leaves hm
  have hs' : recessEffects s = if s.mode = .session then (leaveSession s).takeReports else s := by
    rcases recess_or_session hm with h | h
    · rw [recessEffects_recess h, if_neg (by rw [h]; nofun)]
    · rw [recessEffects_session h, if_pos h]
  have hbrings := setModeDormant_brings hr hm
  refine ⟨recessEffects s, s.combiner.positions fun _ => true, hs', positions_nodup _ _, fun i => ?_, positions_ordered _ _, ?_⟩
  · rw [mem_positions, Option.ne_none_iff_exists']
    exact exists_congr fun e => and_iff_left rfl
  · rw [enterDormant, closeAll, hcombiner] at hbrings
    exact hbrings

theorem dormantIsEntered : Claims.DormantIsEntered := by
  intro s hr hm
  refine ⟨dormantClosesThePool hr hm, _, setModeDormant_brings hr hm, fun hsession => ?_, fun hpool i e f hi hf => ?_⟩
  · obtain ⟨hfloor, hhot⟩ := enterDormant_fromSession hsession
    simp only [complete_floor, complete_roster, finish_floor, finish_roster]
    refine ⟨fun k => ?_, ?_, fun n f hf => hhot n f hf⟩
    · simp only [hfloor]
      exact ⟨(emptied_empty s.floor).live k, (emptied_empty s.floor).held k⟩
    · simp only [hfloor]; rfl
  · simp only [complete_roster, finish_roster]
    exact enterDormant_observed hm hpool hi hf

/-! ### The forced quiet -/

/-- The classes of a sitting (section 7.5). -/
theorem sitting_iff (c : WClass) : c.sitting = false ↔ c ≠ .sigLost ∧ c ≠ .sigWeak ∧ c ≠ .hotMic ∧ c ≠ .silentFloor := by
  cases c <;> simp [WClass.sitting]

theorem next_eq {u t : State} (h : (.next u : Host.Outcome State Fault Refusal) = .next t) : t = u := by cases h; rfl

theorem leavingSessionForcesQuiet : Claims.LeavingSessionForcesQuiet := by
  intro s t hr hm hp ht
  have hrecess := setModeRecess_brings hr hm
  have hdormant := setModeDormant_brings hr (s := s) (by rw [hm]; nofun)
  refine ⟨fun r hr' => (sitting_iff _).1 ?_, fun he r hr' h1 h2 h3 h4 => ?_⟩
  · rw [← Bool.not_eq_true]
    rcases ht with ht | ht
    · rw [next_eq (hrecess.symm.trans ht)] at hr'
      rw [complete_engine, finish_engine] at hr'
      exact leaveSession_lacks (leaveSession_ends hp) r hr'
    · rw [next_eq (hdormant.symm.trans ht)] at hr'
      have hend : (finish (enterDormant s)).engine = (enterDormant s).engine := by
        rw [finish_engine, takeReports_eq_self (enterDormant_posted s)]
      rw [complete_engine, hend] at hr'
      exact enterDormant_lacks hm hp r hr'
  · rw [next_eq (hrecess.symm.trans he), complete_engine, finish_engine]
    exact takeReports_endsSitting (leaveSession_ends hp) (by rw [(leaveSession_floorStep s).warnings]; exact hr')
      ((sitting_iff _).2 ⟨h1, h2, h3, h4⟩)

/-- Settles O8, by the acts that each change of mode posts and the closings outside SESSION, which raise no warning of a sitting. -/
theorem modesChangeAsCommanded : Obligations.ModesChangeAsCommanded :=
  ⟨setModeChangesTheMode, sessionIsEntered, dormantIsEntered, leavingSessionForcesQuiet⟩

end Sys2Proof.Machine
end


section
/-! PROOFS. The commands that name an entry, a unit or a seat: what they refuse (O15), and the search for a unit (O27). -/

namespace Sys2Proof.Machine

/-! ### Entry numbers -/

theorem entryNumber_none {b : Byte} (h : 200 ≤ b.toNat) : entryNumber b = none := dif_neg (not_lt.2 h)

theorem onEntry_outOfRange {b : Byte} (h : 200 ≤ b.toNat) (len : Nat) (f : Fin 200 → Entry → Handling) (s : State) :
    onEntry b len f s = .answered s (refusal .badArg len) := by
  simp only [onEntry, entryNumber_none h, refuse]

theorem onEntry_empty {b : Byte} {n : Fin 200} {s : State} (h : b.toNat = n.1) (hn : s.roster[n] = none) (len : Nat)
    (f : Fin 200 → Entry → Handling) : onEntry b len f s = .answered s (refusal .noEntry len) := by
  simp only [onEntry, entryNumber_some h, hn, refuse]

/-- What `onEntry` refuses, every command that names an entry alone refuses, with its own length of zeros. -/
theorem entryCommands_refuse {b : Byte} {s : State} {st : Status} (hs : Ready s)
    (h : ∀ len f, onEntry b len f s = .answered s (refusal st len)) :
    OnlyAnswers (.retire b) s ⟨st, []⟩ ∧ OnlyAnswers (.readEntry b) s ⟨st, List.replicate 57 0⟩ ∧
      OnlyAnswers (.grantFloor b) s ⟨st, [0]⟩ ∧ OnlyAnswers (.revokeFloor b) s ⟨st, []⟩ ∧
      OnlyAnswers (.mute b) s ⟨st, []⟩ ∧ OnlyAnswers (.unmute b) s ⟨st, []⟩ ∧
      (b ≠ 0xFF → OnlyAnswers (.setChair b) s ⟨st, []⟩) :=
  ⟨onlyAnswers_of hs (exec_retire b s) (h 0 _), onlyAnswers_of hs (exec_readEntry b s) (h 57 _),
    onlyAnswers_of hs (exec_grantFloor b s) (h 1 _), onlyAnswers_of hs (exec_revokeFloor b s) (h 0 _),
    onlyAnswers_of hs (exec_mute b s) (h 0 _), onlyAnswers_of hs (exec_unmute b s) (h 0 _),
    fun hff => onlyAnswers_of hs (exec_setChair b s) (by rw [setChairBody, if_neg hff]; exact h 0 _)⟩

/-- Settles O15: each of the seven commands hands its number to `onEntry`, which refuses both kinds of number. -/
theorem entryCommandsRefuseOtherNumbers : Obligations.EntryCommandsRefuseOtherNumbers := by
  intro b s hs
  refine ⟨fun h => entryCommands_refuse hs fun len f => onEntry_outOfRange h len f s, fun n hb hn => ?_⟩
  have hff : b ≠ 0xFF := by
    rintro rfl
    exact absurd n.2 (by rw [← hb]; decide)
  obtain ⟨hretire, hread, hgrant, hrevoke, hmute, hunmute, hchair⟩ := entryCommands_refuse hs fun len f => onEntry_empty hb hn len f
  exact ⟨hretire, hread, hgrant, hrevoke, hmute, hunmute, hchair hff⟩

/-! ### Searches of the roster -/

/-- A place that alone has a property is the first that has it. -/
theorem firstIndex_of_unique {n : Nat} {p : Fin n → Bool} {i : Fin n} (hi : p i = true) (honly : ∀ j, p j = true → j = i) :
    firstIndex p = some i :=
  firstIndex_eq_some.2 ⟨hi, fun j hj => Bool.eq_false_iff.2 fun h => absurd (honly j h) (ne_of_lt hj)⟩

/-- A search of the roster by a key finds the entry that alone has it. -/
theorem firstEntry_of_unique {s : State} {p : Entry → Bool} {n : Fin 200} {e : Entry} (he : s.roster[n] = some e) (hp : p e = true)
    (honly : ∀ (m : Fin 200) (f : Entry), s.roster[m] = some f → p f = true → m = n) :
    (firstIndex fun m => match s.roster[m] with
      | some f => p f
      | none => false) = some n := by
  refine firstIndex_of_unique (by rw [he]; exact hp) fun m hm => ?_
  cases hf : s.roster[m] with
  | none => rw [hf] at hm; cases hm
  | some f => rw [hf] at hm; exact honly m f hf hm

theorem entryOfUnit_eq_some {s : State} (hs : KeyLaw s) {n : Fin 200} {e : Entry} (he : s.roster[n] = some e) :
    s.entryOfUnit e.unit = some n :=
  firstEntry_of_unique (p := fun f => f.unit == e.unit) he (beq_self_eq_true _) fun m f hf hu =>
    hs.unitOnce m n f e hf he (eq_of_beq hu)

theorem entryOfSeat_eq_some {s : State} (hs : KeyLaw s) {n : Fin 200} {e : Entry} (he : s.roster[n] = some e) :
    s.entryOfSeat e.seat = some n :=
  firstEntry_of_unique (p := fun f => f.seat == e.seat) he (beq_self_eq_true _) fun m f hf hu =>
    hs.seatOnce m n f e hf he (eq_of_beq hu)

/-! ### FIND_UNIT -/

/-- A wake leaves every Unit ID where it was (R164). -/
theorem wakeIfDormant_entryOfUnit (s : State) (u : UnitId) : (wakeIfDormant s).entryOfUnit u = s.entryOfUnit u := by
  by_cases hd : s.mode = .dormant
  · rw [wakeIfDormant_dormant hd]
    refine congrArg firstIndex (funext fun n => ?_)
    rw [wake_roster]
    cases s.roster[n] <;> rfl
  · rw [wakeIfDormant_eq_self hd]

theorem exec_findUnit_found {s : State} (hr : s.inReset = false) (u : UnitId) :
    exec (.findUnit u) s = .next ((found (wakeIfDormant s) (s.entryOfUnit u)).conclude (.findUnit u)) := by
  rw [exec_findUnit, runCommand, hr, wakeIfDormant_entryOfUnit]; rfl

/-- Settles O27: the search finds the first entry with the Unit ID, which the law of the keys makes the only one. -/
theorem unitsAreFound : Obligations.UnitsAreFound := by
  intro u s hr
  have hexec := exec_findUnit_found hr u
  have hnone : (∀ (n : Fin 200) (e : Entry), s.roster[n] = some e → e.unit ≠ u) →
      exec (.findUnit u) s = .next (complete (.findUnit u) ⟨.noEntry, [0]⟩ (wakeIfDormant s)) := fun hno => by
    rw [hexec, entryOfUnit_eq_none hno]; rfl
  refine ⟨fun n e hkey he hu => ?_, hnone, fun hbad hkey => hnone fun n e he hu => ?_⟩
  · subst hu
    rw [hexec, entryOfUnit_eq_some hkey he]; rfl
  · have hgood := (hkey.ranges n e he).1
    rw [hu, (badUnit_iff u).2 hbad] at hgood
    cases hgood

end Sys2Proof.Machine
end


section
/-! PROOFS. AMEND_ENTRY (O29): its checks in their order, and the three values replaced (R44, R45). -/

namespace Sys2Proof.Machine

theorem seatHeldByOther_eq_true {s : State} {n m : Fin 200} {f : Entry} {seat : Nat} (hf : s.roster[m] = some f) (hm : m ≠ n)
    (hs : f.seat = seat) : s.seatHeldByOther n seat = true := by
  by_contra h
  exact seatHeldByOther_false (Bool.eq_false_iff.2 h) hm hf hs

theorem seatHeldByOther_eq_false {s : State} {n : Fin 200} {seat : Nat}
    (h : ∀ (m : Fin 200) (f : Entry), s.roster[m] = some f → m ≠ n → f.seat ≠ seat) : s.seatHeldByOther n seat = false := by
  rw [State.seatHeldByOther, Option.isSome_eq_false_iff, Option.isNone_iff_eq_none, firstIndex_eq_none]
  intro m
  rw [Bool.and_eq_false_iff, bne_eq_false_iff_eq, or_iff_not_imp_left]
  intro hm
  cases hf : s.roster[m] with
  | none => rfl
  | some f => exact beq_eq_false_iff_ne.2 (h m f hf hm)

/-- AMEND_ENTRY once seat, group and profile are in range: what is left of the checks of R44. -/
theorem amendEntryBody_inRange {b seat group profile : Byte} {g : Fin 8} {p : Fin 4}
    (h : placeOf seat group profile = some (seat.toNat, g, p)) (s : State) : amendEntryBody b seat group profile s =
      onEntry b 0 (fun n e => if s.seatHeldByOther n seat.toNat then refuse s .seatTaken 0
        else .acted (amend n e seat.toNat g p s) (okReply [])) s := by
  simp only [amendEntryBody, h]

theorem amendEntryBody_badArg {b seat group profile : Byte} (h : 200 ≤ b.toNat ∨ seat.toNat = 0 ∨ 250 < seat.toNat ∨
    7 < group.toNat ∨ 3 < profile.toNat) (s : State) : amendEntryBody b seat group profile s = .answered s ⟨.badArg, []⟩ := by
  unfold amendEntryBody
  split
  · rfl
  · rename_i hplace
    rcases h with h | h
    · exact onEntry_outOfRange h 0 _ s
    · rw [placeOf_none h] at hplace; cases hplace

theorem amend_sameProfile {e : Entry} {p : Fin 4} (h : e.battery.profile = p) (n : Fin 200) (seat : Nat) (g : Fin 8) (s : State) :
    amend n e seat g p s = s.setSlot n (some { e with seat := seat, group := g }) := by
  subst h
  rw [amend, if_pos rfl]; rfl

theorem amend_newProfile {e : Entry} {p : Fin 4} (h : e.battery.profile ≠ p) (n : Fin 200) (seat : Nat) (g : Fin 8) (s : State) :
    amend n e seat g p s = reclassifyEntry n (s.setSlot n (some
      { e with seat := seat, group := g, battery := { e.battery with profile := p } })) := by
  rw [amend, if_neg h]; rfl

/-- Settles O29, by the branches of AMEND_ENTRY in their order. -/
theorem amendmentReplacesThreeValues : Obligations.AmendmentReplacesThreeValues := by
  intro b seat group profile s hs
  have hexec := exec_amendEntry b seat group profile s
  refine ⟨fun h => onlyAnswers_of hs hexec (amendEntryBody_badArg h s), fun h1 h2 n g p hb hg hp => ?_⟩
  have hbody := amendEntryBody_inRange (b := b) (placeOf_some h1 h2 hg hp) s
  refine ⟨fun hn => onlyAnswers_of hs hexec (hbody.trans (onEntry_empty hb hn 0 _)), fun e he => ?_⟩
  rw [onEntry_occupied hb he] at hbody
  refine ⟨fun ⟨m, f, hf, hm, hseat⟩ => onlyAnswers_of hs hexec ?_, fun hfree => ?_⟩
  · rw [hbody, seatHeldByOther_eq_true hf hm hseat]; rfl
  · rw [seatHeldByOther_eq_false hfree] at hbody
    exact ⟨fun h => brings_of hs hexec (by rw [hbody, amend_sameProfile h]; rfl),
      fun h => brings_of hs hexec (by rw [hbody, amend_newProfile h]; rfl)⟩

end Sys2Proof.Machine
end


section
/-! PROOFS. FIND_SEAT, READ_ENTRY, READ_STATUS and the answer to an unknown code (O28), with the layout of the entry record. -/

namespace Sys2Proof.Machine

/-! ### FIND_SEAT and READ_ENTRY -/

theorem findSeatBody_inRange {b : Byte} (h1 : 1 ≤ b.toNat) (h2 : b.toNat ≤ 250) (s : State) :
    findSeatBody b s = found s (s.entryOfSeat b.toNat) := by
  simp only [findSeatBody, seatNumber_some h1 h2]

theorem seatsAreFoundAndEntriesRead : Claims.SeatsAreFoundAndEntriesRead := by
  intro b s hs
  refine ⟨fun h => onlyAnswers_of hs (exec_findSeat b s) (by rw [findSeatBody, seatNumber_none h]; rfl),
    fun h1 h2 => ⟨fun n e hkey he hseat => ?_, fun hno => ?_⟩,
    fun n e hb he => onlyAnswers_of hs (exec_readEntry b s) (onEntry_occupied hb he 57 _)⟩
  · refine onlyAnswers_of hs (exec_findSeat b s) ?_
    rw [findSeatBody_inRange h1 h2, ← hseat, entryOfSeat_eq_some hkey he]; rfl
  · refine onlyAnswers_of hs (exec_findSeat b s) ?_
    rw [findSeatBody_inRange h1 h2, entryOfSeat_eq_none hno]; rfl

/-! ### READ_STATUS and unknown codes -/

theorem statusIsReadAndUnknownCodesAnswered : Claims.StatusIsReadAndUnknownCodesAnswered := fun s hs =>
  ⟨onlyAnswers_of hs (exec_readStatus s) rfl, fun code => onlyAnswers_of hs (exec_unknownCommand code s) rfl⟩

/-! ### The fields of the entry record -/

/-- A beacon number reads as a word whose upper byte is 0, and 0xFFFF where there is none (section 11.5). -/
theorem optWord_beacon (b : Option Byte) : optWord (b.map (·.toNat)) = match b with
    | some l => [0, l]
    | none => [0xFF, 0xFF] := by
  cases b with
  | none => rfl
  | some l =>
    have hl := l.isLt
    have hupper : (BitVec.ofNat 16 l.toNat).extractLsb' 8 8 = 0 := BitVec.eq_of_toNat_eq <| by
      rw [BitVec.extractLsb'_toNat, BitVec.toNat_ofNat, Nat.shiftRight_eq_div_pow]
      show _ = 0
      omega
    have hlower : (BitVec.ofNat 16 l.toNat).extractLsb' 0 8 = l := BitVec.eq_of_toNat_eq <| by
      rw [BitVec.extractLsb'_toNat, BitVec.toNat_ofNat, Nat.shiftRight_zero]
      omega
    simp only [Option.map_some, optWord, natWord, bytesOfWord, hupper, hlower]

theorem warningBytes_quiet {g : Engine} {id : WarnId} (h : g.find id = none) : g.warningBytes id = [0, 0, 0, 0] := by
  rw [Engine.warningBytes, h]

/-- The four bytes of a warning that is not QUIET: its state, its stamp, and whether it is listed (section 11.5). -/
theorem warningBytes_active {g : Engine} {id : WarnId} {r : WarnRecord} (h : g.find id = some r) : g.warningBytes id =
    warnStateCode (some r.state) :: bytesOfWord r.stamp ++ [if id ∈ g.attention then 1 else 0] := by
  simp only [Engine.warningBytes, h, flagByte, listed_iff]

/-- Four flags in one byte, each its own bit. -/
theorem flagBits (a b c d : Bool) (x : Byte)
    (hx : x = natByte ((if a then 1 else 0) + (if b then 2 else 0) + (if c then 4 else 0) + (if d then 8 else 0))) :
    x.getLsbD 0 = a ∧ x.getLsbD 1 = b ∧ x.getLsbD 2 = c ∧ x.getLsbD 3 = d ∧ x.toNat < 16 := by
  subst hx; revert a b c d; decide

theorem entryFlags_bits (s : State) (n : Fin 200) (e : Entry) :
    (s.entryFlags n e).getLsbD 0 = e.disagree ∧ (s.entryFlags n e).getLsbD 1 = e.muted ∧
      (s.entryFlags n e).getLsbD 2 = decide (s.floor.chair = some n) ∧ (s.entryFlags n e).getLsbD 3 = s.speaking n ∧
      (s.entryFlags n e).toNat < 16 :=
  flagBits _ _ _ _ _ (by simp only [State.entryFlags, decide_eq_true_eq])

/-- A port's strength is present and carries the warming mark (section 11.5). -/
def warmingAt (v : Strengths) (p : Fin 4) : Bool := v[p].any (·.warming)

theorem warmingAt_iff (v : Strengths) (p : Fin 4) : warmingAt v p = true ↔ ∃ x : Int, v[p] = some ⟨x, true⟩ := by
  unfold warmingAt
  cases v[p] with
  | none => exact ⟨nofun, fun ⟨_, h⟩ => nomatch h⟩
  | some y =>
    obtain ⟨x, w⟩ := y
    simp

theorem warmingBits_eq (v : Strengths) : warmingBits v = natByte ((if warmingAt v 0 then 1 else 0) + (if warmingAt v 1 then 2 else 0) +
    (if warmingAt v 2 then 4 else 0) + (if warmingAt v 3 then 8 else 0)) := by
  have hmark : ∀ (b : Byte) (p : Fin 4), (match v[p] with
      | some ⟨_, true⟩ => b ||| BitVec.ofNat 8 (2 ^ p.1)
      | some ⟨_, false⟩ => b
      | none => b) = if warmingAt v p then b ||| BitVec.ofNat 8 (2 ^ p.1) else b := by
    intro b p
    unfold warmingAt
    rcases v[p] with _ | ⟨_, _ | _⟩ <;> rfl
  have hfold : warmingBits v =
      (List.finRange 4).foldl (fun b p => if warmingAt v p then b ||| BitVec.ofNat 8 (2 ^ p.1) else b) 0 :=
    congrArg (fun f => (List.finRange 4).foldl f 0) (funext fun b => funext fun p => hmark b p)
  have htable : ∀ a b c d : Bool, [(a, 0), (b, 1), (c, 2), (d, 3)].foldl
      (fun (x : Byte) (p : Bool × Nat) => if p.1 then x ||| BitVec.ofNat 8 (2 ^ p.2) else x) 0 =
      natByte ((if a then 1 else 0) + (if b then 2 else 0) + (if c then 4 else 0) + (if d then 8 else 0)) := by decide
  rw [hfold]
  exact htable _ _ _ _

theorem warmingBits_bits (v : Strengths) :
    (∀ p : Fin 4, (warmingBits v).getLsbD p.1 = warmingAt v p) ∧ (warmingBits v).toNat < 16 := by
  obtain ⟨h0, h1, h2, h3, hlt⟩ := flagBits _ _ _ _ _ (warmingBits_eq v)
  refine ⟨fun p => ?_, hlt⟩
  fin_cases p
  · exact h0
  · exact h1
  · exact h2
  · exact h3

/-! ### The length of the entry record -/

theorem optWord_length (x : Option Nat) : (optWord x).length = 2 := by cases x <;> rfl

theorem placeBytes_length (f : Floor) (n : Fin 200) : (f.placeBytes n).length = 2 := by
  unfold Floor.placeBytes
  split <;> rfl

theorem warningBytes_length (g : Engine) (id : WarnId) : (g.warningBytes id).length = 4 := by
  unfold Engine.warningBytes
  split <;> rfl

theorem entryRecord_length (s : State) (n : Fin 200) (e : Entry) : (s.entryRecord n e).length = 57 := by
  simp only [State.entryRecord, List.length_append, optWord_length, placeBytes_length, unitClasses, List.flatMap_cons,
    List.flatMap_nil, warningBytes_length]
  cases e.battery.pending <;> rfl

/-! ### The entry record -/

/-- The record field by field; what does not stand in it already as the statement has it is the beacon number, the hot-mic timer and the
warnings. -/
theorem entryRecordLayout : Claims.EntryRecordLayout := by
  intro s n e
  obtain ⟨hdisagree, hmuted, hchair, hspeaking, hflags⟩ := entryFlags_bits s n e
  obtain ⟨hmarks, hlt⟩ := warmingBits_bits e.strengths
  refine ⟨s.entryFlags n e, warmingBits e.strengths, ?_, fun l => by cases l <;> rfl, by rw [hdisagree], by rw [hmuted],
    by rw [hchair, decide_eq_true_iff], by rw [hspeaking], hflags, fun p => by rw [hmarks, warmingAt_iff], hlt, entryRecord_length s n e⟩
  rw [State.entryRecord, optWord_beacon]
  refine congrArg₂ _ (congrArg₂ _ ?_ ?_) (List.flatMap_congr fun c _ => ?_)
  · rfl
  · cases e.hot <;> rfl
  · cases h : s.engine.find ⟨.entry n, c⟩ with
    | none => exact warningBytes_quiet h
    | some r =>
      obtain ⟨id, state, stamp⟩ := r
      rw [unitWarning, warningBytes_active h]
      cases state <;> rfl

/-- Settles O28, by the answers of the four commands and by the fields of the entry record one after another. -/
theorem recordsAreFoundAndRead : Obligations.RecordsAreFoundAndRead :=
  ⟨seatsAreFoundAndEntriesRead, entryRecordLayout, statusIsReadAndUnknownCodesAnswered⟩

end Sys2Proof.Machine
end


section
/-! PROOFS. The end of a handling (O5): each act taken whole, every act posted taken once in its block's order, and the lines. -/

namespace Sys2Proof.Machine

/-! ### One act -/

theorem hasSubject_iff (s : State) (x : Subject) : s.hasSubject x = true ↔ ∀ n : Fin 200, x = .entry n → s.roster[n].isSome := by
  cases x with
  | entry n => exact ⟨fun h m hm => by cases hm; exact h, fun h => h n rfl⟩
  | _ => exact ⟨fun _ _ hm => (nomatch hm), fun _ => rfl⟩

theorem applyAct_report {s : State} {id : WarnId} (h : s.hasSubject id.subject = true) (v : Bool) :
    applyAct s (.report id v) = { s with
      engine := if v then s.engine.raise id else s.engine.clear (pendingTypeOf s.tuning.pendingTypes id.cls) id } := by
  rw [applyAct, State.takeReport, if_pos h]

theorem applyAct_report_empty {s : State} {id : WarnId} {n : Fin 200} (hid : id.subject = .entry n) (hn : s.roster[n] = none) (v : Bool) :
    applyAct s (.report id v) = s := by
  rw [applyAct, State.takeReport, hid, if_neg]
  simp only [State.hasSubject, hn, Option.isSome_none, Bool.false_eq_true, not_false_eq_true]

/-- The two reports of a joint one are taken one after the other, in either order (R74; assumption log 13). -/
theorem applyAct_both (s : State) (a b : WarnId) (v w : Bool) :
    applyAct s (.both a v b w) = applyAct (applyAct { s with choice := s.choice + 1 } (.report a v)) (.report b w) ∨
    applyAct s (.both a v b w) = applyAct (applyAct { s with choice := s.choice + 1 } (.report b w)) (.report a v) := by
  by_cases h : Config.freeChoice (s.choice + 1 - 1) % 2 = 0
  · exact .inl (if_pos h)
  · exact .inr (if_neg h)

/-- A quieting takes away exactly the warnings that it selects. -/
theorem mem_quietAll {g : Engine} {sel : WarnRecord → Bool} {r : WarnRecord} :
    r ∈ (g.quietAll sel).warnings ↔ r ∈ g.warnings ∧ ¬ sel r = true := by
  rw [quietAll_warnings, List.mem_filter, Bool.not_eq_true', Bool.not_eq_true]

theorem standingCells_iff (n : Fin 200) (r : WarnRecord) : standingCells n r = true ↔
    r.id.subject = .entry n ∧ (r.id.cls = .battLow ∨ r.id.cls = .battCritical) ∧ r.state = .standing := by
  simp only [standingCells, Bool.and_eq_true, Bool.or_eq_true, beq_iff_eq, and_assoc]

theorem actsAreTakenWhole : Claims.ActsAreTakenWhole := by
  refine fun s => ⟨fun id v => ⟨fun h => applyAct_report ((hasSubject_iff s _).2 h) v, fun n hid hn => applyAct_report_empty hid hn v⟩,
    fun a b v w s' hs' => hs' ▸ applyAct_both s a b v w, fun n => ⟨_, rfl, fun r => ?_⟩, fun n => ⟨_, rfl, fun r => ?_⟩,
    ⟨_, rfl, fun r => ?_⟩⟩
  · rw [mem_quietAll, standingCells_iff]
  · rw [mem_quietAll, beq_iff_eq]
  · rw [mem_quietAll, Bool.not_eq_true, sitting_iff]

/-! ### All acts, and the lines -/

/-- The engine takes exactly the acts posted, those of one block in the order in which it posted them (R118). -/
theorem takeReports_blockOrder (s : State) : ∃ l : List Act, l.Perm (s.engine.posted.map (·.act)) ∧
    (∀ b : Block, (actsOf s.engine.posted b).Sublist l) ∧
    s.takeReports = l.foldl applyAct
      { s with engine := { s.engine with posted := [] }, choice := s.choice + s.engine.posted.length } := by
  have hperm : (allBlocks.map (actsOf s.engine.posted)).flatten.Perm (s.engine.posted.map (·.act)) :=
    flatMap_actsOf_perm s.engine.posted
  have hfuel : (allBlocks.map (actsOf s.engine.posted)).flatten.length ≤ s.engine.posted.length :=
    le_of_eq (hperm.length_eq.trans (List.length_map _))
  obtain ⟨htaken, hkept⟩ := shuffle_spec s.choice _ _ hfuel
  exact ⟨_, htaken.trans hperm, fun b => hkept _ (List.mem_map_of_mem (mem_allBlocks b)), rfl⟩

theorem finish_rest (s : State) :
    finish s = { s with engine := (finish s).engine, choice := (finish s).choice, lines := (finish s).lines } := by
  have h : finish s = { s.takeReports with lines := (finish s).lines } := rfl
  rw [takeReports_rest] at h
  exact h

theorem finish_lines (s : State) :
    (finish s).lines = { s.lines with line := mapTable s.lines.line fun _ l => (finish s).settleLine l } := by
  simp only [finish, settleLines_settleLine]
  simp only [settleLines, takeReports_lines]

theorem postedActsAreTakenInOrder : Claims.PostedActsAreTakenInOrder := by
  intro s
  obtain ⟨l, hperm, hkept, htaken⟩ := takeReports_blockOrder s
  exact ⟨⟨l, hperm, hkept, congrArg settleLines htaken⟩, finish_rest s, finish_lines s, finish_posted s, fun h => by
    rw [finish_engine, takeReports_eq_self h]⟩

/-- Settles O5, by what one act does and by the open order of the acts, which keeps the order of each block's. -/
theorem handlingEndsWithReportsAndLines : Obligations.HandlingEndsWithReportsAndLines :=
  ⟨actsAreTakenWhole, postedActsAreTakenInOrder⟩

end Sys2Proof.Machine
end


section
/-! PROOFS. An observation applied to its entry (O30): the fields set, the reports handed on, and what the floor arbiter does. -/

namespace Sys2Proof.Machine

/-! ### The entry's fields -/

/-- The reports of an observation and the floor arbiter's part follow once the entry's fields are set (R48, R49). -/
theorem applyObservation_floorStep {s : State} {n : Fin 200} {e : Entry} (he : s.roster[n] = some e) (o : Observation) :
    FloorStep (s.setSlot n (some (e.measuredBy s o))) (applyObservation n o s) := by
  have hcells : ∀ (c : Bool) (u : State), FloorStep u (if c then u.post .battery (.quietCells n) else u) := by
    rintro (_ | _) u
    · exact .refl u
    · exact .post u _ _
  unfold applyObservation
  simp only [he]
  exact (FloorStep.postChange _ _ _ _ _).trans <| (postBattery_floorStep _ _ _ _).trans <| (hcells _ _).trans <|
    (FloorStep.postChange _ _ _ _ _).trans (floorTakes_floorStep n _)

theorem observationSetsTheEntry : Claims.ObservationSetsTheEntry := by
  intro s n e o he
  have hstep := applyObservation_floorStep he o
  have hother : ∀ m : Fin 200, m ≠ n → (s.setSlot n (some (e.measuredBy s o))).roster[m] = s.roster[m] := fun m hm =>
    setAt_get_ne _ hm.symm _
  refine ⟨hstep.entry (setAt_get_same _ _ _), fun m f hm hf => hstep.entry ((hother m hm).trans hf), fun m hm => ?_, hstep.rest⟩
  have hne : m ≠ n := by
    rintro rfl
    rw [he] at hm; cases hm
  exact hstep.empty.2 ((hother m hne).trans hm)

/-! ### The reports -/

theorem isReplacement_iff (p : Profile) (b : Battery) (c : Nat) :
    isReplacement p b c = true ↔ ∃ x : Nat, b.filtered = some x ∧ c ≤ 1022 ∧ x + p.j ≤ 5 * c := by
  unfold isReplacement
  cases b.filtered with
  | none => exact ⟨nofun, fun ⟨_, h, _⟩ => nomatch h⟩
  | some x => simp only [Bool.and_eq_true, decide_eq_true_eq, Option.some.injEq, exists_eq_left']

/-- After an observation no entry is LOST (R48). -/
theorem sigLostCond_observed (m : Mode) (e : Entry) (o : Observation) (b : Battery) (g : Signal) :
    sigLostCond m { e.observed o with battery := b, signal := g } = false := by
  unfold sigLostCond Entry.observed
  cases o.payload.farewell <;> exact Bool.and_false _

theorem observationIsHandedOn : Claims.ObservationIsHandedOn := by
  intro s n e f o he hf u v hu hfresh hworn
  have hv : v = if isReplacement s.profiles[e.battery.profile] e.battery o.payload.cell then u.post .battery (.quietCells n) else u := by
    split
    · exact hfresh ((isReplacement_iff _ _ _).1 ‹_›)
    · exact hworn fun h => absurd ((isReplacement_iff _ _ _).2 h) ‹_›
  have humode : u.mode = s.mode := by rw [hu, (postBattery_floorStep _ _ _ _).mode, State.postChange_mode, State.setSlot_mode]
  have hvmode : v.mode = s.mode := by
    rw [hv, ← humode]
    split <;> rfl
  have happly : applyObservation n o s =
      floorTakes n (v.postChange .signal (unitWarning n .sigWeak) (sigWeakCond v.mode e) (sigWeakCond v.mode f)) := by
    unfold applyObservation
    simp only [he, State.setSlot_mode, sigLostCond_observed]
    rw [hv, hu, hf]; rfl
  rw [happly, hvmode]; rfl

/-! ### The floor arbiter -/

/-- The chair claims priority by its own key, by the mode and by the priority function, where no silence holds the floor (R101). -/
theorem chairClaims_iff {s : State} {n : Fin 200} (hc : s.floor.chair = some n) (hsilence : s.floor.cause ≠ .silence) :
    s.chairClaims = true ↔ s.tuning.priority = true ∧ s.mode = .session ∧ ∃ e : Entry, s.roster[n] = some e ∧ e.switch = .opened ∧
      (e.presence = .live ∨ e.presence = .fading) := by
  have hkey : s.chairKeyOn = true ↔ s.mode = .session ∧ ∃ e : Entry, s.roster[n] = some e ∧ e.switch = .opened ∧
      (e.presence = .live ∨ e.presence = .fading) := by
    unfold State.chairKeyOn
    simp only [hc]
    cases s.roster[n] with
    | none => exact ⟨nofun, fun ⟨_, _, h, _⟩ => nomatch h⟩
    | some e => simp only [Bool.and_eq_true, keyOn_iff, beq_iff_eq, Option.some.injEq, exists_eq_left', and_comm]
  rw [State.chairClaims, State.chairSpeaking, Bool.and_eq_true, Bool.and_eq_true, hkey, bne_iff_ne, and_iff_left hsilence, and_comm]

/-- An operation of the floor arbiter that leaves the cause leaves the chair's claim (R101). -/
theorem FloorStep.chairClaims {s t : State} (h : FloorStep s t) (hcause : t.floor.cause = s.floor.cause) :
    t.chairClaims = s.chairClaims := by
  have hkey : t.chairKeyOn = s.chairKeyOn := by
    unfold State.chairKeyOn
    rw [h.chair, h.mode]
    cases s.floor.chair with
    | none => rfl
    | some n =>
      obtain ⟨x, hx⟩ := h.roster n
      simp only [hx]
      cases s.roster[n] <;> rfl
  rw [State.chairClaims, State.chairSpeaking, hkey, hcause, h.tuning]; rfl

theorem floorTakes_other {n : Fin 200} {s : State} (h : s.floor.chair ≠ some n) : floorTakes n s = derive n s := by
  unfold floorTakes
  simp only [(derive_floorStep n s).chair, if_neg h]

theorem floorTakes_chair {n : Fin 200} {s : State} (h : s.floor.chair = some n) : floorTakes n s = followClaim (derive n s) := by
  unfold floorTakes
  simp only [(derive_floorStep n s).chair, if_pos h]

theorem floorTakesAnEntry : Claims.FloorTakesAnEntry := by
  intro n s
  refine ⟨floorTakes_other, fun hchair claims hclaims => ?_⟩
  have hclaim : s.floor.cause ≠ .silence → s.chairClaims = claims := fun hsilence =>
    Bool.eq_iff_iff.2 ((chairClaims_iff hchair hsilence).trans hclaims.symm)
  rw [floorTakes_chair hchair, followClaim_eq, derive_cause, (derive_floorStep n s).chairClaims (derive_cause n s)]
  refine ⟨fun hcause => ?_, fun hcause => ?_, fun hcause => ?_⟩
  · rw [hclaim (by rw [hcause]; nofun), hcause]
    cases claims <;> rfl
  · rw [hclaim (by rw [hcause]; nofun), hcause]
    cases claims <;> rfl
  · rw [hcause]

/-- Settles O30: the fields are set before anything is handed on, and what is handed on is a step of the floor arbiter. -/
theorem observationIsApplied : Obligations.ObservationIsApplied :=
  ⟨observationSetsTheEntry, observationIsHandedOn, floorTakesAnEntry⟩

end Sys2Proof.Machine
end

section
/-! PROOFS. The evaluators' computations: the voltage of a level code and its classification, the filter step (O32), and an evaluation
of a cell code with its candidate and its reports (O33). -/

namespace Sys2Proof.Machine

/-! ### Voltages and their classification -/

/-- The voltages of the level codes rise with the codes (R60). -/
theorem codeVoltage_lt {c d : Nat} (h : c < d) (hd : d ≤ 31) : codeVoltage c < codeVoltage d := by
  unfold codeVoltage
  split <;> split <;> omega

theorem voltagesAreClassified : Claims.VoltagesAreClassified := by
  refine ⟨fun c h => if_pos h, fun c h _ => if_neg (by omega), fun p x hec hcl hl => ?_⟩
  have hve := codeVoltage_lt hec (by omega)
  have hvc := codeVoltage_lt hcl hl
  unfold classify
  split
  · simp; omega
  · split
    · simp; omega
    · split
      · simp; omega
      · simp; omega

/-! ### The filter step -/

/-- The size of a filter step: a size over 2^k, rounded to the nearest whole, halves upwards (R71). -/
def stepSize (k a : Nat) : Nat := (a + 2 ^ (k - 1)) / 2 ^ k

theorem two_pow_halves {k : Nat} (hk : 1 ≤ k) : 2 ^ k = 2 * 2 ^ (k - 1) := by
  rw [← pow_succ', Nat.sub_add_cancel hk]

theorem stepSize_rounds (k a : Nat) :
    2 ^ k * stepSize k a ≤ a + 2 ^ (k - 1) ∧ a + 2 ^ (k - 1) < 2 ^ k * stepSize k a + 2 ^ k :=
  ⟨Nat.mul_div_le _ _, Nat.lt_mul_div_succ _ (Nat.two_pow_pos k)⟩

theorem stepSize_eq_zero {k : Nat} (hk : 1 ≤ k) (a : Nat) : stepSize k a = 0 ↔ a < 2 ^ (k - 1) := by
  rw [stepSize, Nat.div_eq_zero_iff, two_pow_halves hk]
  have := Nat.two_pow_pos (k - 1)
  omega

/-- A step is not longer than the way (R71). -/
theorem stepSize_le {k : Nat} (hk : 1 ≤ k) (a : Nat) : stepSize k a ≤ a := by
  rcases Nat.eq_zero_or_pos a with rfl | ha
  · exact ((stepSize_eq_zero hk 0).2 (Nat.two_pow_pos _)).le
  · have hhalf : 2 ^ (k - 1) ≤ 2 ^ (k - 1) * a := Nat.le_mul_of_pos_right _ ha
    have hown : a ≤ 2 ^ (k - 1) * a := Nat.le_mul_of_pos_left _ (Nat.two_pow_pos _)
    refine Nat.div_le_of_le_mul ?_
    rw [two_pow_halves hk, mul_assoc]
    omega

theorem filterStep_of_nonneg (k : Nat) {d : Int} (h : 0 ≤ d) : filterStep k d = stepSize k d.natAbs := if_neg (not_lt.2 h)

theorem filterStep_of_neg (k : Nat) {d : Int} (h : d < 0) : filterStep k d = -stepSize k d.natAbs := if_pos h

theorem filterStep_zero {k : Nat} (hk : 1 ≤ k) : filterStep k 0 = 0 := by
  rw [filterStep_of_nonneg k le_rfl]
  exact congrArg _ ((stepSize_eq_zero hk 0).2 (Nat.two_pow_pos _))

/-- The step is odd in the difference (R71). -/
theorem filterStep_neg {k : Nat} (hk : 1 ≤ k) (d : Int) : filterStep k (-d) = -filterStep k d := by
  rcases lt_trichotomy d 0 with hd | rfl | hd
  · rw [filterStep_of_neg k hd, filterStep_of_nonneg k (by omega), Int.natAbs_neg, neg_neg]
  · rw [neg_zero, filterStep_zero hk, neg_zero]
  · rw [filterStep_of_nonneg k hd.le, filterStep_of_neg k (by omega), Int.natAbs_neg]

/-- A step up stays between where it starts and where it aims (R71). -/
theorem filterStep_up {k : Nat} (hk : 1 ≤ k) {d : Int} (hd : 0 ≤ d) : 0 ≤ filterStep k d ∧ filterStep k d ≤ d := by
  have := stepSize_le hk d.natAbs
  rw [filterStep_of_nonneg k hd]
  omega

theorem filterStep_down {k : Nat} (hk : 1 ≤ k) {d : Int} (hd : d ≤ 0) : d ≤ filterStep k d ∧ filterStep k d ≤ 0 := by
  have := filterStep_up hk (d := -d) (by omega)
  rw [filterStep_neg hk] at this
  omega

theorem filterStep_eq_zero {k : Nat} (hk : 1 ≤ k) (d : Int) : filterStep k d = 0 ↔ d.natAbs < 2 ^ (k - 1) := by
  rw [← stepSize_eq_zero hk]
  rcases lt_or_ge d 0 with hd | hd
  · rw [filterStep_of_neg k hd]; omega
  · rw [filterStep_of_nonneg k hd]; omega

/-- A value smoothed towards a reading stays within any bounds that hold of both (R71, R87). -/
theorem filterStep_between {k : Nat} (hk : 1 ≤ k) {lo hi x y : Int} (hx : lo ≤ x ∧ x ≤ hi) (hy : lo ≤ y ∧ y ≤ hi) :
    lo ≤ x + filterStep k (y - x) ∧ x + filterStep k (y - x) ≤ hi := by
  rcases le_total x y with h | h
  · have := filterStep_up hk (d := y - x) (by omega)
    omega
  · have := filterStep_down hk (d := y - x) (by omega)
    omega

theorem filterStepRoundsAndNeverPasses : Claims.FilterStepRoundsAndNeverPasses := by
  intro k d hk _
  refine ⟨fun hd => ?_, filterStep_neg hk d, filterStep_up hk, filterStep_eq_zero hk d⟩
  obtain ⟨a, rfl⟩ := Int.eq_ofNat_of_zero_le hd
  obtain ⟨hle, hlt⟩ := stepSize_rounds k a
  have hhalves := two_pow_halves hk
  rw [filterStep_of_nonneg k hd, Int.natAbs_natCast, mul_assoc]
  constructor
  · have : 2 * (2 ^ k * stepSize k a) ≤ 2 * a + 2 ^ k := by omega
    exact_mod_cast this
  · have : 2 * a + 2 ^ k < 2 * (2 ^ k * stepSize k a) + 2 * 2 ^ k := by omega
    exact_mod_cast this

/-- Settles O32: the level codes' voltages rise, so the comparisons of `classify` exclude each other; and the filter step is a rounded
quotient of sizes with the sign put back. -/
theorem voltagesAreClassifiedAndFiltered : Obligations.VoltagesAreClassifiedAndFiltered :=
  ⟨voltagesAreClassified, filterStepRoundsAndNeverPasses⟩

/-! ### An evaluation of a cell code -/

/-- A first reading, and a reading that is taken as fresh cells, set F and the level at once (R68, R70). -/
theorem evalBattery_set {p : Profile} {b : Battery} {c : Nat} (hc : c ≤ 1022) (h : ∀ f, b.filtered = some f → f + p.j ≤ 5 * c) :
    evalBattery p b c = setFromReading p { b with lastCell := some c } (5 * c) := by
  unfold evalBattery
  rw [if_neg (not_lt.2 hc)]
  cases hf : b.filtered with
  | none => rfl
  | some f => exact if_pos (h f hf)

/-- Any other reading is filtered (R71). -/
theorem evalBattery_filtered {p : Profile} {b : Battery} {c f : Nat} (hc : c ≤ 1022) (hf : b.filtered = some f)
    (h : 5 * c < f + p.j) : evalBattery p b c = filterBattery p { b with lastCell := some c } f (5 * c) := by
  unfold evalBattery
  rw [if_neg (not_lt.2 hc)]
  simp only [hf, if_neg (not_le.2 h)]

/-- The count of a candidate other than the level: one more where it is the pending one, else 1 (R73). -/
def candidateCount (cand : BattLevel) (pending : Option Candidate) : Nat :=
  match pending with
  | some q => if q.level = cand then q.count + 1 else 1
  | none => 1

theorem advancePending_same (now : BattLevel) (pending : Option Candidate) : advancePending now now pending = none := if_pos rfl

theorem advancePending_other {cand now : BattLevel} (h : cand ≠ now) (pending : Option Candidate) :
    advancePending cand now pending = some ⟨cand, candidateCount cand pending⟩ := by
  unfold advancePending candidateCount
  rw [if_neg h]
  cases pending with
  | none => rfl
  | some q => simp only; split <;> rfl

theorem cellCodesAreEvaluated : Claims.CellCodesAreEvaluated := by
  intro p b c
  refine ⟨fun hc => if_pos hc, fun hc hf => ?_, fun f hc hf hj => ?_, fun f f' cand hc hf hj hf' hcand => ?_⟩
  · exact evalBattery_set hc (by rw [hf]; nofun)
  · exact evalBattery_set hc fun g hg => by cases hf.symm.trans hg; exact hj
  · have heval : evalBattery p b c = confirmBattery p { b with lastCell := some c, filtered := some f'.toNat }
        (advancePending cand b.level b.pending) := by
      rw [evalBattery_filtered hc hf hj, hcand, hf']; rfl
    refine ⟨fun hsame => ?_, fun m hother hm => ⟨fun hle => ?_, fun hlt => ?_⟩⟩
    · rw [heval, hsame, advancePending_same]; rfl
    · rw [heval, advancePending_other hother, show candidateCount cand b.pending = m from hm.symm]
      exact if_pos hle
    · rw [heval, advancePending_other hother, show candidateCount cand b.pending = m from hm.symm]
      exact if_neg (not_le.2 hlt)

/-! ### The candidate -/

theorem worseThan_iff (a b : BattLevel) : a.worseThan b = true ↔ a ≠ .unknown ∧ b ≠ .unknown ∧ b.code.toNat < a.code.toNat := by
  cases a <;> cases b <;> decide

theorem classify_known (p : Profile) (x : Int) : classify p x ≠ .unknown := by
  unfold classify
  (repeat' split) <;> nofun

theorem candidatesHaveHysteresis : Claims.CandidatesHaveHysteresis := by
  refine ⟨worseThan_iff, fun p f now hnow => ?_⟩
  have hdown : (classify p f).worseThan now = true ↔ now.code.toNat < (classify p f).code.toNat := by
    rw [worseThan_iff]; simp [classify_known, hnow]
  have hup : now.worseThan (classify p (f - p.h)) = true ↔ (classify p (f - p.h)).code.toNat < now.code.toNat := by
    rw [worseThan_iff]; simp [classify_known, hnow]
  refine ⟨fun hd => if_pos (hdown.2 hd), fun hd hu => ?_, fun hd hu => ?_⟩
  · exact (if_neg (mt hdown.1 (not_lt.2 hd))).trans (if_pos (hup.2 hu))
  · exact (if_neg (mt hdown.1 (not_lt.2 hd))).trans (if_neg (mt hup.1 (not_lt.2 hu)))

/-! ### The reports -/

theorem lowCond_iff (a : BattLevel) : a.lowCond = true ↔ a = .low := by cases a <;> decide

theorem criticalCond_iff (a : BattLevel) : a.criticalCond = true ↔ a = .critical ∨ a = .exhausted := by cases a <;> decide

theorem batteryIsReported : Claims.BatteryIsReported := by
  intro s n a b la lb ca cb hla hlb hca hcb
  obtain rfl : a.lowCond = la := Bool.eq_iff_iff.2 ((lowCond_iff a).trans hla.symm)
  obtain rfl : b.lowCond = lb := Bool.eq_iff_iff.2 ((lowCond_iff b).trans hlb.symm)
  obtain rfl : a.criticalCond = ca := Bool.eq_iff_iff.2 ((criticalCond_iff a).trans hca.symm)
  obtain rfl : b.criticalCond = cb := Bool.eq_iff_iff.2 ((criticalCond_iff b).trans hcb.symm)
  unfold postBattery
  refine ⟨fun hl hc => if_pos ⟨hl, hc⟩, fun hl hc => ?_, fun hl hc => ?_, fun hl hc => ?_⟩
  · rw [if_neg fun h => h.2 hc, hc, State.postChange_same, State.postChange_changed _ _ _ hl]; rfl
  · rw [if_neg fun h => h.1 hl, hl, State.postChange_same, State.postChange_changed _ _ _ hc]; rfl
  · rw [if_neg fun h => h.1 hl, hl, hc, State.postChange_same, State.postChange_same]

/-- Settles O33: the branches of `evalBattery`, the candidate by the order of the levels, and the reports by what changed. -/
theorem batteryIsEvaluated : Obligations.BatteryIsEvaluated :=
  ⟨cellCodesAreEvaluated, candidatesHaveHysteresis, batteryIsReported⟩

end Sys2Proof.Machine
end

section
/-! PROOFS. The battery profiles: SET_PROFILE, READ_PROFILE and the sweep of a profile (O34). -/

namespace Sys2Proof.Machine

/-! ### The sweep -/

/-- A sweep visit is made where a running clock has made it due. -/
theorem sweepVisit_due {s : State} {w : Sweep} (hs : Ticking s) (hd : s.sweepDue = true) (hw : s.sweep = some w) :
    exec .sweepVisit s = .next (finish (visitSlot w { s with sweep := w.advanced, sweepDue := false })) := by
  have hrun : (s.running && s.sweepDue && s.sweep.isSome) = true := by simp [State.running, hs.1, hs.2, hd, hw]
  rw [exec_sweepVisit, occur_due hs.1 hrun, sweepStep, hw]

/-- A re-classification of an entry whose F is present, under its own profile (R77). -/
theorem reclassifyEntry_present {s : State} {n : Fin 200} {e : Entry} {p : Fin 4} {f : Nat} (he : s.roster[n] = some e)
    (hp : e.battery.profile = p) (hf : e.battery.filtered = some f) {l : BattLevel} (hl : l = classify s.profiles[p] f) :
    reclassifyEntry n s = postBattery n e.battery.level l
      (s.setSlot n (some { e with battery := { e.battery with level := l, pending := none } })) := by
  subst hp hl
  unfold reclassifyEntry reclassify
  simp only [he, hf]

/-- An entry whose F is absent is passed (R77). -/
theorem reclassifyEntry_absent {s : State} {n : Fin 200} {e : Entry} (he : s.roster[n] = some e) (hf : e.battery.filtered = none) :
    reclassifyEntry n s = s := by
  have hslot : s.setSlot n (some e) = s := by
    unfold State.setSlot
    rw [← he, setAt_same]
  unfold reclassifyEntry reclassify
  simp only [he, hf, hslot, postBattery, ne_eq, not_true_eq_false, false_and, if_false, State.postChange_same]

theorem sweepVisitsASlot : Claims.SweepVisitsASlot := by
  intro s s' w hs hd hw hs'
  have hvisit : exec .sweepVisit s = .next (finish (visitSlot w s')) := by rw [sweepVisit_due hs hd hw, hs']; rfl
  have hroster : s'.roster = s.roster := by rw [hs']
  have hprofiles : s'.profiles = s.profiles := by rw [hs']
  rw [hvisit]
  unfold visitSlot
  rw [hroster]
  refine ⟨fun e f l he hp hf hl => ?_, fun h => ?_⟩
  · simp only [he, if_pos hp]
    rw [reclassifyEntry_present (hroster ▸ he) hp hf (hprofiles ▸ hl)]
  · rcases h with he | ⟨e, he, hp | hf⟩
    · simp only [he]
    · simp only [he, if_neg hp]
    · simp only [he, reclassifyEntry_absent (hroster ▸ he) hf, ite_self]

/-! ### SET_PROFILE and READ_PROFILE -/

theorem profileCodesOk_iff (r : RawProfile) :
    profileCodesOk r = true ↔ r.vl.toNat < 32 ∧ r.ve.toNat < r.vc.toNat ∧ r.vc.toNat < r.vl.toNat := by
  simp [profileCodesOk, and_assoc]

theorem profileWasAdjusted_eq_false (r : RawProfile) : profileWasAdjusted r = false ↔
    (adjustedProfile r).h = r.h.toNat ∧ (adjustedProfile r).k = r.k.toNat ∧ (adjustedProfile r).nd = r.nd.toNat ∧
      (adjustedProfile r).nu = r.nu.toNat ∧ (adjustedProfile r).j = r.j.toNat := by
  simp [profileWasAdjusted, and_assoc]

/-- The status of a stored value (R171). -/
theorem storedReply_eq (adjusted : Bool) (data : List Byte) {P : Prop} [Decidable P] (h : adjusted = false ↔ P) :
    storedReply adjusted data = ⟨if P then .ok else .adjusted, data⟩ := by
  cases adjusted
  · rw [if_pos (h.1 rfl)]; rfl
  · rw [if_neg (mt h.2 nofun)]; rfl

theorem profileIsWrittenAndSwept : Claims.ProfileIsWrittenAndSwept := by
  intro b r s hs
  refine ⟨fun h => onlyAnswers_of hs (exec_setProfile b r s) ?_, fun p hb hl hc he => ?_⟩
  · unfold setProfileBody
    cases hp : profileNumber b with
    | none => rfl
    | some p =>
      have hbad : profileCodesOk r = false := by
        have hnumber : b.toNat < 4 := by
          by_contra hge
          rw [profileNumber, portNumber_none (not_lt.1 hge)] at hp
          cases hp
        rw [Bool.eq_false_iff, ne_eq, profileCodesOk_iff]
        omega
      simp only [hbad, Bool.not_false, if_true]; rfl
  · have hp : profileNumber b = some p := portNumber_some hb
    have hok : profileCodesOk r = true := (profileCodesOk_iff r).2 ⟨hl, he, hc⟩
    refine ⟨fun hbusy => onlyAnswers_of hs (exec_setProfile b r s) ?_, fun hidle => ⟨adjustedProfile r, _, rfl, rfl, ?_⟩⟩
    · simp only [setProfileBody, hp, hok, hbusy, Bool.not_true, Bool.false_eq_true, if_false, if_true]; rfl
    · rw [exec_setProfile, runCommand_ready hs]
      simp only [setProfileBody, hp, hok, hidle, Bool.not_true, Bool.false_eq_true, if_false, Option.isSome_none,
        storedReply_eq _ _ (profileWasAdjusted_eq_false r)]
      rfl

theorem profilesAreRead : Claims.ProfilesAreRead := by
  intro b s hs
  refine ⟨fun h => onlyAnswers_of hs (exec_readProfile b s) ?_, fun p hb => onlyAnswers_of hs (exec_readProfile b s) ?_⟩
  · rw [readProfileBody, profileNumber, portNumber_none h]; rfl
  · rw [readProfileBody, profileNumber, portNumber_some hb]; rfl

/-- Settles O34, by the checks of the two bodies and by the slot that the sweep finds at its position. -/
theorem profilesAreWrittenReadAndSwept : Obligations.ProfilesAreWrittenReadAndSwept :=
  ⟨profileIsWrittenAndSwept, profilesAreRead, sweepVisitsASlot⟩

end Sys2Proof.Machine
end

section
/-! PROOFS. The laws of the evaluators' fields and of the settings: what an evaluation, a re-classification and a stored setting keep. -/

namespace Sys2Proof.Machine

/-! ### Battery fields -/

theorem BatteryLaw.fresh (profile : Fin 4) : BatteryLaw (Battery.fresh profile) :=
  ⟨by simp [Battery.fresh], nofun, nofun, nofun⟩

theorem setFromReading_law {p : Profile} {b : Battery} {v : Nat} (hv : v ≤ 5110) (hcell : ∀ c, b.lastCell = some c → c ≤ 1022) :
    BatteryLaw (setFromReading p b v) where
  level := by simp [setFromReading, classify_known]
  pending := nofun
  filtered f hf := by cases hf; exact hv
  lastCell := hcell

/-- A level that is known has a known candidate beside it (R72). -/
theorem battCandidate_known (p : Profile) (f : Int) {now : BattLevel} (h : now ≠ .unknown) : battCandidate p f now ≠ .unknown := by
  unfold battCandidate
  simp only
  split
  · exact classify_known p f
  · split
    · exact classify_known p _
    · exact h

/-- What stands beside a known level: another known level, counted at least once (R73). -/
def PendingLaw (now : BattLevel) (pending : Option Candidate) : Prop :=
  ∀ c, pending = some c → c.level ≠ .unknown ∧ c.level ≠ now ∧ 1 ≤ c.count

theorem advancePending_law {cand : BattLevel} (hc : cand ≠ .unknown) (now : BattLevel) (pending : Option Candidate) :
    PendingLaw now (advancePending cand now pending) := by
  by_cases h : cand = now
  · rw [h, advancePending_same]; nofun
  · rw [advancePending_other h]
    rintro _ ⟨⟩
    refine ⟨hc, h, ?_⟩
    unfold candidateCount
    split
    · split <;> simp
    · exact le_rfl

theorem confirmBattery_law (p : Profile) {b : Battery} {pending : Option Candidate} (hb : BatteryLaw b) (hl : b.level ≠ .unknown)
    (hp : PendingLaw b.level pending) : BatteryLaw (confirmBattery p b pending) := by
  have hsome : b.filtered.isSome := hb.level.2 hl
  unfold confirmBattery
  split
  · rename_i c
    obtain ⟨hknown, hother, hcount⟩ := hp c rfl
    split
    · exact ⟨by simp [hsome, hknown], nofun, hb.filtered, hb.lastCell⟩
    · exact ⟨hb.level, fun d hd => by cases hd; exact ⟨hl, hknown, hother, hcount⟩, hb.filtered, hb.lastCell⟩
  · exact ⟨hb.level, nofun, hb.filtered, hb.lastCell⟩

/-- F moves towards the reading and never past it, so it stays in range (R71). -/
theorem filterBattery_law {p : Profile} {b : Battery} {f v : Nat} (hp : ProfileLaw p) (hb : BatteryLaw b) (hf : b.filtered = some f)
    (hv : v ≤ 5110) : BatteryLaw (filterBattery p b f v) := by
  have hl : b.level ≠ .unknown := hb.level.1 (by rw [hf]; rfl)
  have hrange := hb.filtered f hf
  have hf' := filterStep_between hp.k.1 (lo := 0) (hi := 5110) (x := f) (y := v) (by omega) (by omega)
  refine confirmBattery_law p ⟨by simp [hl], hb.pending, fun g hg => ?_, hb.lastCell⟩ hl
    (advancePending_law (battCandidate_known p _ hl) _ _)
  cases hg
  omega

theorem evalBattery_law {p : Profile} {b : Battery} (hp : ProfileLaw p) (hb : BatteryLaw b) (c : Nat) :
    BatteryLaw (evalBattery p b c) := by
  rcases Nat.lt_or_ge 1022 c with hc | hc
  · rw [evalBattery, if_pos hc]; exact hb
  · have hcell : ∀ d, some c = some d → d ≤ 1022 := by rintro d ⟨⟩; exact hc
    by_cases hset : ∀ f, b.filtered = some f → f + p.j ≤ 5 * c
    · rw [evalBattery_set hc hset]
      exact setFromReading_law (by omega) hcell
    · push Not at hset
      obtain ⟨f, hf, hj⟩ := hset
      rw [evalBattery_filtered hc hf hj]
      exact filterBattery_law hp ⟨hb.level, hb.pending, hb.filtered, hcell⟩ hf (by omega)

theorem reclassify_law (p : Profile) {b : Battery} (hb : BatteryLaw b) : BatteryLaw (reclassify p b) := by
  unfold reclassify
  split
  · rename_i f hf
    exact ⟨by simp [hf, classify_known], nofun, hb.filtered, hb.lastCell⟩
  · exact hb

/-! ### Signal fields -/

theorem SignalLaw.absent : SignalLaw Signal.absent := ⟨by simp [Signal.absent], by simp [Signal.absent], nofun⟩

theorem classifyMargin_known (t : Tuning) (q : Int) : classifyMargin t q ≠ .unknown := by
  unfold classifyMargin
  (repeat' split) <;> nofun

theorem nextSigLevel_known (t : Tuning) (q : Int) {now : SigLevel} (h : now ≠ .unknown) : nextSigLevel t q now ≠ .unknown := by
  unfold nextSigLevel
  simp only
  split
  · exact classifyMargin_known t q
  · split
    · exact classifyMargin_known t _
    · exact h

/-- Q moves towards the observed margin, which is clamped, and never past it, so it stays in range (R87). -/
theorem evalSignal_law {t : Tuning} {g : Signal} (ht : TuningLaw t) (hg : SignalLaw g) (best : Option (Int × Fin 4)) :
    SignalLaw (evalSignal t g best) := by
  cases best with
  | none => exact hg
  | some x =>
    have hm : -40 ≤ observedMargin t x.1 ∧ observedMargin t x.1 ≤ 60 := clampInt_range (by decide) _
    cases hq : g.margin with
    | none =>
      simp only [evalSignal, hq]
      exact ⟨by simp [classifyMargin_known], by simp, fun q h => by cases h; exact hm⟩
    | some q =>
      have hl : g.level ≠ .unknown := hg.level.1 (by rw [hq]; rfl)
      simp only [evalSignal, hq]
      refine ⟨by simp [nextSigLevel_known, hl], by simp, fun q' h => ?_⟩
      cases h
      exact filterStep_between ht.shift.1 (hg.margin q hq) hm

/-! ### Settings -/

theorem clampNat_range {lo hi : Nat} (h : lo ≤ hi) (v : Nat) : lo ≤ clampNat lo hi v ∧ clampNat lo hi v ≤ hi :=
  ⟨le_min h (le_max_left _ _), min_le_left _ _⟩

/-- A profile whose codes pass the checks is stored in range (R62). -/
theorem adjustedProfile_law {r : RawProfile} (h : profileCodesOk r = true) : ProfileLaw (adjustedProfile r) := by
  obtain ⟨hl, he, hc⟩ := (profileCodesOk_iff r).1 h
  exact ⟨⟨he, hc, Nat.le_of_lt_succ hl⟩, ⟨by simp only [adjustedProfile]; omega, Nat.mul_mod_left _ _⟩, clampNat_range (by decide) _,
    clampNat_range (by decide) _, clampNat_range (by decide) _, clampNat_range (by decide) _⟩

/-- A stored value is in its range and on its steps, where the range begins on a step (R172). -/
theorem adjustValue_range {lo hi step : Int} (h : lo ≤ hi) (hs : 0 < step) (hlo : step ∣ lo) (v : Int) :
    (lo ≤ adjustValue lo hi step v ∧ adjustValue lo hi step v ≤ hi) ∧ adjustValue lo hi step v % step = 0 := by
  obtain ⟨hge, hle⟩ := clampInt_range h v
  obtain ⟨k, rfl⟩ := hlo
  have hdown := Int.emod_nonneg (clampInt (step * k) hi v) hs.ne'
  have hwhole : step * k ≤ clampInt (step * k) hi v / step * step := by
    rw [mul_comm]
    exact mul_le_mul_of_nonneg_right ((Int.le_ediv_iff_mul_le hs).2 (by rwa [mul_comm])) hs.le
  rw [adjustValue_eq h, ← clampInt_eq h]
  refine ⟨⟨hwhole, ?_⟩, Int.mul_emod_left _ _⟩
  have := Int.ediv_mul_add_emod (clampInt (step * k) hi v) step
  omega

section
variable {t : Tuning} (ht : TuningLaw t) (v : Int)
include ht

theorem TuningLaw.withSilenceTime : TuningLaw { t with silenceTime := (adjustValue 500 10000 100 v).toNat } := by
  have h := adjustValue_range (lo := 500) (hi := 10000) (step := 100) (by decide) (by decide) (by decide) v
  exact { ht with silenceTime := by dsimp only; omega }

theorem TuningLaw.withWindow : TuningLaw { t with window := (adjustValue 2 40 1 v).toNat } := by
  have h := adjustValue_range (lo := 2) (hi := 40) (step := 1) (by decide) (by decide) (by decide) v
  exact { ht with window := by dsimp only; omega }

theorem TuningLaw.withLostTime : TuningLaw { t with lostTime := (adjustValue 1000 30000 100 v).toNat } := by
  have h := adjustValue_range (lo := 1000) (hi := 30000) (step := 100) (by decide) (by decide) (by decide) v
  exact { ht with lostTime := by dsimp only; omega }

theorem TuningLaw.withSignalFloor : TuningLaw { t with signalFloor := adjustValue (-110) (-60) 1 v } :=
  { ht with signalFloor := (adjustValue_range (by decide) (by decide) (by decide) v).1 }

theorem TuningLaw.withShift : TuningLaw { t with shift := (adjustValue 1 3 1 v).toNat } := by
  have h := adjustValue_range (lo := 1) (hi := 3) (step := 1) (by decide) (by decide) (by decide) v
  exact { ht with shift := by dsimp only; omega }

theorem TuningLaw.withWeak (hp : t.poor < adjustValue 0 40 1 v) : TuningLaw { t with weak := adjustValue 0 40 1 v } :=
  { ht with weak := (adjustValue_range (by decide) (by decide) (by decide) v).1, apart := hp }

theorem TuningLaw.withPoor (hp : adjustValue (-10) 39 1 v < t.weak) : TuningLaw { t with poor := adjustValue (-10) 39 1 v } :=
  { ht with poor := (adjustValue_range (by decide) (by decide) (by decide) v).1, apart := hp }

theorem TuningLaw.withSilentTime : TuningLaw { t with silentTime := (adjustValue 1000 120000 1000 v).toNat } := by
  have h := adjustValue_range (lo := 1000) (hi := 120000) (step := 1000) (by decide) (by decide) (by decide) v
  exact { ht with silentTime := by dsimp only; omega }

theorem TuningLaw.withHotDelay : TuningLaw { t with hotDelay := (adjustValue 0 5000 100 v).toNat } := by
  have h := adjustValue_range (lo := 0) (hi := 5000) (step := 100) (by decide) (by decide) (by decide) v
  exact { ht with hotDelay := by dsimp only; omega }

end

end Sys2Proof.Machine
end

section
/-! PROOFS. Every step keeps the laws of the settings and of the evaluators' fields (O57): what each operation of the roster, of the
combiner and of the settings keeps, and then each of the 78 rows. -/

namespace Sys2Proof.Machine

/-! ### Changes that keep the laws -/

/-- The laws of the settings and of the evaluators' fields together, as steps keep them (O57). -/
def MeasuredLaw (s : State) : Prop := SettingsLaw s ∧ EvaluatorLaw s

/-- The laws of one entry's evaluator fields. -/
def EntryLaw (e : Entry) : Prop := BatteryLaw e.battery ∧ SignalLaw e.signal

/-- A change of state that keeps the laws. -/
def KeepsMeasures (s t : State) : Prop := MeasuredLaw s → MeasuredLaw t

theorem EntryLaw.fresh (unit : UnitId) (seat : Nat) (group : Fin 8) (profile : Fin 4) :
    EntryLaw (Entry.fresh unit seat group profile) := ⟨.fresh profile, .absent⟩

namespace KeepsMeasures

theorem refl (s : State) : KeepsMeasures s s := id

theorem trans {s t u : State} (h₁ : KeepsMeasures s t) (h₂ : KeepsMeasures t u) : KeepsMeasures s u := h₂ ∘ h₁

/-- The settings stand, and every entry left in the roster keeps its laws. -/
theorem entries {s t : State} (hp : t.profiles = s.profiles) (ht : t.tuning = s.tuning)
    (hr : ∀ (n : Fin 200) (f : Entry), t.roster[n] = some f → ∃ e, s.roster[n] = some e ∧ (EntryLaw e → EntryLaw f)) :
    KeepsMeasures s t := fun ⟨hset, hent⟩ =>
  ⟨⟨hp ▸ hset.profiles, ht ▸ hset.tuning⟩, fun n f hf => by
    obtain ⟨e, he, hlaw⟩ := hr n f hf
    exact hlaw (hent n e he)⟩

/-- Settings and roster stand. -/
theorem keep {s t : State} (hp : t.profiles = s.profiles) (ht : t.tuning = s.tuning) (hr : t.roster = s.roster) : KeepsMeasures s t :=
  .entries hp ht fun n f hf => ⟨f, by rw [← hr]; exact hf, id⟩

/-- The settings stand, and the same befalls every entry. -/
theorem mapRoster {s t : State} {g : Entry → Entry} (hg : ∀ e, EntryLaw e → EntryLaw (g e)) (hp : t.profiles = s.profiles)
    (ht : t.tuning = s.tuning) (hr : t.roster = mapTable s.roster fun _ x => x.map g) : KeepsMeasures s t :=
  .entries hp ht fun n f hf => by
    rw [hr, mapTable_get] at hf
    obtain ⟨e, he, rfl⟩ := Option.map_eq_some_iff.1 hf
    exact ⟨e, he, hg e⟩

/-- The floor arbiter changes nothing of an entry but its hot-mic timer. -/
theorem of_floorStep {s t : State} (h : FloorStep s t) : KeepsMeasures s t :=
  .entries h.profiles h.tuning fun n f hf => by
    obtain ⟨timer, hslot⟩ := h.roster n
    rw [hslot] at hf
    obtain ⟨e, he, rfl⟩ := Option.map_eq_some_iff.1 hf
    exact ⟨e, he, id⟩

/-- A slot takes what keeps the laws of an entry. -/
theorem setSlot {s : State} (n : Fin 200) {x : Option Entry} (h : MeasuredLaw s → ∀ e, x = some e → EntryLaw e) :
    KeepsMeasures s (s.setSlot n x) := fun hs =>
  ⟨⟨hs.1.profiles, hs.1.tuning⟩, fun m f hf => by
    rw [State.setSlot_roster, setAt_get] at hf
    split at hf
    · exact h hs f hf
    · exact hs.2 m f hf⟩

/-- An entry is changed. -/
theorem setEntry {s : State} {n : Fin 200} {e f : Entry} (he : s.roster[n] = some e) (h : SettingsLaw s → EntryLaw e → EntryLaw f) :
    KeepsMeasures s (s.setSlot n (some f)) :=
  .setSlot n fun hs g hg => by cases hg; exact h hs.1 (hs.2 n e he)

/-- The tuning items change within their ranges (R172). -/
theorem setTuning {s : State} {t : Tuning} (h : TuningLaw s.tuning → TuningLaw t) : KeepsMeasures s (s.setTuning t) :=
  fun hs => ⟨⟨hs.1.profiles, h hs.1.tuning⟩, hs.2⟩

theorem postChange {s t : State} (h : KeepsMeasures s t) (b : Block) (id : WarnId) (old new : Bool) :
    KeepsMeasures s (t.postChange b id old new) := h.trans (.of_floorStep (.postChange t b id old new))

theorem portBecomes (s : State) (p : Fin 4) (x : AntennaPort) : KeepsMeasures s (s.portBecomes p x) :=
  (KeepsMeasures.keep (s := s) (t := s.setPort p x) rfl rfl rfl).postChange _ _ _ _

theorem strangersBecome (s : State) (v : Vector (Option Stranger) 8) : KeepsMeasures s (s.strangersBecome v) :=
  (KeepsMeasures.keep (s := s) (t := { s with combiner := { s.combiner with strangers := v } }) rfl rfl rfl).postChange _ _ _ _

theorem takeReports (s : State) : KeepsMeasures s s.takeReports :=
  .keep (takeReports_profiles s) (takeReports_tuning s) (takeReports_roster s)

theorem finish (s : State) : KeepsMeasures s (finish s) := .keep (finish_profiles s) (finish_tuning s) (finish_roster s)

theorem forList {α : Type} {f : α → State → State} (hf : ∀ a t, KeepsMeasures t (f a t)) (l : List α) (s : State) :
    KeepsMeasures s (forList f l s) :=
  forList_induct (P := KeepsMeasures s) l s (.refl s) fun a _ t ht => ht.trans (hf a t)

theorem forEach {n : Nat} {f : Fin n → State → State} (hf : ∀ a t, KeepsMeasures t (f a t)) (s : State) :
    KeepsMeasures s (forEach f s) := .forList hf (List.finRange n) s

end KeepsMeasures

/-! ### Observations and the pool -/

/-- An observation is where the evaluators work (R66, R85). -/
theorem applyObservation_keepsMeasures (n : Fin 200) (o : Observation) (s : State) : KeepsMeasures s (applyObservation n o s) := by
  cases he : s.roster[n] with
  | none => unfold applyObservation; simp only [he]; exact .refl s
  | some e =>
    refine (KeepsMeasures.setEntry he fun hset hlaw => ?_).trans (.of_floorStep (applyObservation_floorStep he o))
    exact ⟨evalBattery_law (hset.profiles _) hlaw.1 _, evalSignal_law hset.tuning hlaw.2 _⟩

theorem closeAt_keepsMeasures (i : Fin 12) (s : State) : KeepsMeasures s (closeAt i s) := by
  unfold closeAt
  split
  · exact (KeepsMeasures.keep (s := s) (t := s.setPool i none) rfl rfl rfl).trans (applyObservation_keepsMeasures _ _ _)
  · exact .refl s

theorem coverageTest_keepsMeasures (i : Fin 12) (s : State) : KeepsMeasures s (coverageTest i s) := by
  unfold coverageTest
  split
  · split
    · exact closeAt_keepsMeasures i s
    · exact .refl s
  · exact .refl s

theorem recheckCoverage_keepsMeasures (s : State) : KeepsMeasures s (recheckCoverage s) := .forList closeAt_keepsMeasures _ s

theorem recheckAfterDisable_keepsMeasures (was : PortState) (s : State) : KeepsMeasures s (recheckAfterDisable was s) := by
  unfold recheckAfterDisable
  split
  · exact recheckCoverage_keepsMeasures s
  · exact .refl s

theorem makeRoom_keepsMeasures (s : State) : KeepsMeasures s (makeRoom s) := by
  unfold makeRoom
  split
  · exact .refl s
  · split
    · exact closeAt_keepsMeasures _ s
    · exact .refl s

/-- A pool position is written, and its coverage tested. -/
theorem setPool_keepsMeasures (i : Fin 12) (x : Option PoolEntry) (s : State) : KeepsMeasures s (coverageTest i (s.setPool i x)) :=
  (KeepsMeasures.keep (s := s) (t := s.setPool i x) rfl rfl rfl).trans (coverageTest_keepsMeasures i _)

theorem openPool_keepsMeasures (n : Fin 200) (x : Sighting) (s : State) : KeepsMeasures s (openPool n x s) := by
  unfold openPool
  simp only
  split
  · exact (makeRoom_keepsMeasures s).trans (setPool_keepsMeasures _ _ _)
  · exact makeRoom_keepsMeasures s

theorem takeEnrolled_keepsMeasures (n : Fin 200) (x : Sighting) (s : State) : KeepsMeasures s (takeEnrolled n x s) := by
  unfold takeEnrolled
  split
  · split
    · split
      · exact setPool_keepsMeasures _ _ s
      · split
        · exact (closeAt_keepsMeasures _ s).trans (openPool_keepsMeasures _ _ _)
        · exact .refl s
    · exact .refl s
  · split
    · split
      · exact openPool_keepsMeasures _ _ s
      · exact .refl s
    · exact .refl s

theorem takeFrame_keepsMeasures (s : State) : KeepsMeasures s (takeFrame s) := by
  unfold takeFrame
  split
  · exact .refl s
  · rename_i p _
    split
    · exact .refl s
    · rename_i rest _
      refine KeepsMeasures.trans (t := { s.setPort p { s.ports[p] with inbox := rest } with
        combiner := { s.combiner with nextPort := p + 1 } }) (.keep rfl rfl rfl) ?_
      simp only
      split
      · unfold takeSighting
        split
        · exact takeEnrolled_keepsMeasures _ _ _
        · exact .strangersBecome _ _
      · exact .refl _

/-! ### Ports -/

theorem portFallsSilent_keepsMeasures (p : Fin 4) (s : State) : KeepsMeasures s (portFallsSilent p s) :=
  (KeepsMeasures.portBecomes s _ _).trans (recheckCoverage_keepsMeasures _)

theorem endWarmUp_keepsMeasures (p : Fin 4) (s : State) : KeepsMeasures s (endWarmUp p s) := by
  unfold endWarmUp
  split
  · exact .keep rfl rfl rfl
  · exact portFallsSilent_keepsMeasures p s

theorem judgeSilence_keepsMeasures (s : State) : KeepsMeasures s (judgeSilence s) := by
  unfold judgeSilence
  simp only
  split
  · exact .forList (fun _ _ => .portBecomes _ _ _) _ s
  · exact (KeepsMeasures.forList (fun _ _ => .portBecomes _ _ _) _ s).trans (recheckCoverage_keepsMeasures _)

theorem wake_keepsMeasures (s : State) : KeepsMeasures s (wake s) := .mapRoster (g := Entry.woken) (fun _ => id) rfl rfl rfl

theorem wakeIfDormant_keepsMeasures (s : State) : KeepsMeasures s (wakeIfDormant s) := by
  unfold wakeIfDormant
  split
  · exact wake_keepsMeasures s
  · exact .refl s
  · exact .refl s

theorem judgeFrame_keepsMeasures (p : Fin 4) (f : List Byte) (s : State) : KeepsMeasures s (judgeFrame p f s) := by
  unfold judgeFrame
  split
  · split
    · exact (wake_keepsMeasures s).trans (.portBecomes _ _ _)
    · exact .portBecomes _ _ _
    · exact .portBecomes _ _ _
  · exact .keep rfl rfl rfl

/-! ### The roster -/

theorem reclassifyEntry_keepsMeasures (n : Fin 200) (s : State) : KeepsMeasures s (reclassifyEntry n s) := by
  unfold reclassifyEntry
  split
  · exact .refl s
  · rename_i he
    refine KeepsMeasures.trans ?_ (.of_floorStep (postBattery_floorStep _ _ _ _))
    exact .setEntry he fun _ hlaw => ⟨reclassify_law _ hlaw.1, hlaw.2⟩

theorem sweepStep_keepsMeasures (s : State) : KeepsMeasures s (sweepStep s) := by
  unfold sweepStep
  split
  · exact .keep rfl rfl rfl
  · rename_i w _
    refine KeepsMeasures.trans (t := { s with sweep := w.advanced, sweepDue := false }) (.keep rfl rfl rfl) ?_
    unfold visitSlot
    split
    · split
      · exact reclassifyEntry_keepsMeasures _ _
      · exact .refl _
    · exact .refl _

theorem fadeEntry_keepsMeasures (n : Fin 200) (s : State) : KeepsMeasures s (fadeEntry n s) := by
  unfold fadeEntry
  split
  · exact .refl s
  · rename_i he
    refine KeepsMeasures.trans ?_ (.of_floorStep (floorTakes_floorStep n _))
    exact .setEntry he fun _ => id

/-- A lost entry's signal fields are discarded together (R90). -/
theorem loseEntry_keepsMeasures (n : Fin 200) (s : State) : KeepsMeasures s (loseEntry n s) := by
  unfold loseEntry
  split
  · exact .refl s
  · rename_i he
    refine KeepsMeasures.trans ?_ (.of_floorStep (floorTakes_floorStep n _))
    exact ((KeepsMeasures.setEntry (f := Entry.lost _) he fun _ hlaw => ⟨hlaw.1, .absent⟩).postChange _ _ _ _).postChange _ _ _ _

theorem judgeAge_keepsMeasures (n : Fin 200) (s : State) : KeepsMeasures s (judgeAge n s) := by
  unfold judgeAge
  split
  · exact .refl s
  · split
    · exact loseEntry_keepsMeasures n s
    · split
      · exact fadeEntry_keepsMeasures n s
      · exact .refl s

/-- A new entry has no reading yet (R65, R84). -/
theorem enrolAt_keepsMeasures (n : Fin 200) (unit : UnitId) (seat : Nat) (group : Fin 8) (profile : Fin 4) (s : State) :
    KeepsMeasures s (enrolAt n unit seat group profile s) := by
  have hslot : KeepsMeasures s (s.setSlot n (some (Entry.fresh unit seat group profile))) :=
    .setSlot n fun _ e he => by cases he; exact .fresh unit seat group profile
  unfold enrolAt State.forgetStranger
  split
  · exact hslot.trans (.strangersBecome _ _)
  · exact hslot

theorem amend_keepsMeasures {n : Fin 200} {e : Entry} (seat : Nat) (group : Fin 8) (profile : Fin 4) {s : State}
    (he : s.roster[n] = some e) : KeepsMeasures s (amend n e seat group profile s) := by
  have hslot : KeepsMeasures s (s.setSlot n (some (e.amended seat group profile))) :=
    .setEntry he fun _ hlaw => ⟨⟨hlaw.1.level, hlaw.1.pending, hlaw.1.filtered, hlaw.1.lastCell⟩, hlaw.2⟩
  unfold amend
  simp only
  split
  · exact hslot
  · exact hslot.trans (reclassifyEntry_keepsMeasures n _)

theorem retireEntry_keepsMeasures (n : Fin 200) (s : State) : KeepsMeasures s (retireEntry n s) := by
  have hvacated : KeepsMeasures s (vacated n s) := by
    refine .entries (by rw [vacated_rest]) (by rw [vacated_rest]) fun m f hf => ?_
    rw [vacated_roster] at hf
    split at hf
    · cases hf
    · exact ⟨f, hf, id⟩
  rw [retired_posted]
  exact (hvacated.trans (.of_floorStep (retired_floorStep n s))).trans (.of_floorStep (.post _ _ _))

/-! ### The floor -/

theorem setMuted_keepsMeasures (v : Bool) (n : Fin 200) (s : State) : KeepsMeasures s (setMuted v n s) := by
  unfold setMuted
  split
  · exact .refl s
  · rename_i he
    split
    · exact .refl s
    · refine KeepsMeasures.trans ?_ (.of_floorStep (derive_floorStep n _))
      exact .setEntry he fun _ => id

theorem muteBody_keepsMeasures (v : Bool) (n : Fin 200) (s : State) : KeepsMeasures s (muteBody v n s).state := by
  unfold muteBody
  split
  · exact .refl s
  · exact setMuted_keepsMeasures v n s

theorem setAllMuted_keepsMeasures (v : Bool) (s : State) : KeepsMeasures s (setAllMuted v s) := by
  refine .forEach (fun n t => ?_) s
  split
  · exact .refl t
  · exact setMuted_keepsMeasures v n t

theorem debounceExpires_keepsMeasures (s : State) : KeepsMeasures s (debounceExpires s) := by
  unfold debounceExpires
  simp only
  refine KeepsMeasures.trans (t := { s with floor := { s.floor with asserted := !s.floor.asserted, stability := 0 } })
    (.keep rfl rfl rfl) ?_
  split
  · exact .of_floorStep (silenceAsserted_floorStep _)
  · exact .of_floorStep (silenceReleased_floorStep _)

theorem grantBody_keepsMeasures (n : Fin 200) (s : State) : KeepsMeasures s (grantBody n s).state := by
  unfold grantBody
  split
  · exact .refl s
  · split
    · exact .refl s
    · split
      · exact .refl s
      · split
        · exact .refl s
        · split
          · exact .refl s
          · exact .of_floorStep ((FloorStep.setLive s _ _).trans (derive_floorStep _ _))

theorem prepareChair_keepsMeasures (n : Fin 200) (s : State) : KeepsMeasures s (prepareChair n s) := by
  have hclear : ∀ t, KeepsMeasures t (clearMute n t) := fun t => by
    unfold clearMute
    split
    · exact .refl t
    · rename_i he
      exact .setEntry he fun _ => id
  exact ((KeepsMeasures.of_floorStep (freeSlot_floorStep n s)).trans (hclear _)).trans (.of_floorStep (stopHot_floorStep n _))

theorem designate_keepsMeasures (chair : Option (Fin 200)) (s : State) : KeepsMeasures s (designate chair s) := by
  refine KeepsMeasures.trans (t := { s with floor := { s.floor with chair := chair } }) (.keep rfl rfl rfl) ?_
  unfold designate
  simp only
  split
  · exact .of_floorStep (derive_floorStep _ _)
  · exact .refl _

theorem changeChair_keepsMeasures (chair : Option (Fin 200)) (s : State) : KeepsMeasures s (changeChair chair s) := by
  have hprepare : KeepsMeasures s (match chair with | some n => prepareChair n s | none => s) := by
    split
    · exact prepareChair_keepsMeasures _ s
    · exact .refl s
  have hhold : ∀ t, KeepsMeasures t (match t.floor.cause with | .chair => endHold t | .none => t | .silence => t) := by
    intro t
    split
    · exact .of_floorStep (endHold_floorStep t)
    · exact .refl t
    · exact .refl t
  have hclaim : ∀ t, KeepsMeasures t (match t.floor.cause with
      | .none => if t.chairClaims then beginHold t else t
      | .chair => t
      | .silence => t) := by
    intro t
    split
    · split
      · exact .of_floorStep (beginHold_floorStep t)
      · exact .refl t
    · exact .refl t
    · exact .refl t
  exact ((hprepare.trans (designate_keepsMeasures chair _)).trans (hhold _)).trans (hclaim _)

/-! ### Modes, resets and the clock -/

theorem enterSession_keepsMeasures (s : State) : KeepsMeasures s (enterSession s) :=
  (KeepsMeasures.keep (s := s) (t := s.setMode .session) rfl rfl rfl).trans (.of_floorStep (enterSession_floorStep s))

theorem leaveSession_keepsMeasures (s : State) : KeepsMeasures s (leaveSession s) :=
  (KeepsMeasures.keep (s := s) (t := s.setMode .recess) rfl rfl rfl).trans (.of_floorStep (leaveSession_floorStep s))

theorem enterDormant_keepsMeasures (s : State) : KeepsMeasures s (enterDormant s) := by
  have hrecess : KeepsMeasures s (recessEffects s) := by
    unfold recessEffects
    split
    · exact (leaveSession_keepsMeasures s).trans (.takeReports _)
    · exact .refl s
    · exact .refl s
  have hclosed : KeepsMeasures s (closeAll (recessEffects s)) := hrecess.trans (.forList closeAt_keepsMeasures _ _)
  exact (hclosed.trans (.takeReports _)).trans (.keep rfl rfl rfl)

/-- A device reset puts the settings back to their defaults and empties the roster (R58, R80). -/
theorem deviceReset_keepsMeasures (s : State) : KeepsMeasures s (deviceReset s) := fun _ =>
  ⟨⟨reset_settingsLaw.profiles, reset_settingsLaw.tuning⟩, fun n e he => by rw [deviceReset_roster] at he; cases he⟩

theorem chamberResetAll_keepsMeasures (s : State) : KeepsMeasures s (chamberResetAll s) :=
  .mapRoster (g := Entry.chamberReset) (fun _ _ => .fresh _ _ _ _) rfl rfl rfl

theorem autonomous_keepsMeasures (s : State) : KeepsMeasures s (autonomous s) := by
  unfold autonomous
  split
  · exact .refl s
  · split
    · split
      · exact .mapRoster (g := Entry.tick) (fun _ => id) rfl rfl rfl
      · exact .refl s
    · exact .keep rfl rfl rfl

theorem blinkBoundary_keepsMeasures (s : State) : KeepsMeasures s (blinkBoundary s) := by
  unfold blinkBoundary
  simp only
  split
  · rw [commit_rest]; exact .keep rfl rfl rfl
  · exact .keep rfl rfl rfl

theorem lineFault_keepsMeasures (m : Fin 16) (v : Bool) (s : State) : KeepsMeasures s (lineFault m v s) :=
  (KeepsMeasures.keep (s := s) (t := s.setLine m { s.lines.line[m] with fault := v }) rfl rfl rfl).postChange _ _ _ _

/-! ### Settings -/

theorem acted_keepsMeasures {s t : State} (h : KeepsMeasures s t) (r : Reply) : KeepsMeasures s (Handling.acted t r).state := h

theorem setProfileBody_keepsMeasures (profile : Byte) (r : RawProfile) (s : State) :
    KeepsMeasures s (setProfileBody profile r s).state := by
  unfold setProfileBody
  split
  · exact .refl s
  · rename_i p _
    split
    · exact .refl s
    · rename_i hok
      have hlaw : ProfileLaw (adjustedProfile r) := adjustedProfile_law (by simpa using hok)
      split
      · exact .refl s
      · refine fun hs => ⟨⟨fun q => ?_, hs.1.tuning⟩, hs.2⟩
        show ProfileLaw (setAt s.profiles p (adjustedProfile r))[q]
        rw [setAt_get]
        split
        · exact hlaw
        · exact hs.1.profiles q

theorem setPortSilenceTimeBody_keepsMeasures (v : BitVec 32) (s : State) : KeepsMeasures s (setPortSilenceTimeBody v s).state := by
  unfold setPortSilenceTimeBody
  simp only
  split
  · exact .refl s
  · exact (KeepsMeasures.setTuning fun ht => ht.withSilenceTime v.toInt).trans (judgeSilence_keepsMeasures _)

theorem inSubjectOrder_keepsMeasures (s : State) : KeepsMeasures s (inSubjectOrder s) := .keep rfl rfl rfl

theorem setLostTimeBody_keepsMeasures (v : BitVec 32) (s : State) : KeepsMeasures s (setLostTimeBody v s).state := by
  unfold setLostTimeBody
  simp only
  split
  · exact .refl s
  · have hjudged := (KeepsMeasures.setTuning (s := s) fun ht => ht.withLostTime v.toInt).trans (.forEach judgeAge_keepsMeasures _)
    exact acted_keepsMeasures (hjudged.trans (inSubjectOrder_keepsMeasures _)) _

theorem setWeakThresholdBody_keepsMeasures (v : BitVec 32) (s : State) : KeepsMeasures s (setWeakThresholdBody v s).state := by
  unfold setWeakThresholdBody
  simp only
  split
  · exact .setTuning fun ht => ht.withWeak v.toInt ‹_›
  · exact .refl s

theorem setPoorThresholdBody_keepsMeasures (v : BitVec 32) (s : State) : KeepsMeasures s (setPoorThresholdBody v s).state := by
  unfold setPoorThresholdBody
  simp only
  split
  · exact .setTuning fun ht => ht.withPoor v.toInt ‹_›
  · exact .refl s

theorem setHotDelayBody_keepsMeasures (v : BitVec 32) (s : State) : KeepsMeasures s (setHotDelayBody v s).state := by
  have hjudge : ∀ (n : Fin 200) (t : State), KeepsMeasures t (judgeHot n t) := fun n t => by
    unfold judgeHot
    split
    · exact .of_floorStep (hotReached_floorStep n t)
    · exact .refl t
  exact acted_keepsMeasures ((KeepsMeasures.setTuning fun ht => ht.withHotDelay v.toInt).trans (.forEach hjudge _)) _

/-- The items that have no range leave the laws of the others. -/
theorem setAutoRevokeBody_keepsMeasures (v : BitVec 32) (s : State) : KeepsMeasures s (setAutoRevokeBody v s).state := by
  unfold setAutoRevokeBody
  split
  · exact .setTuning fun ht => { ht with }
  · exact .refl s

theorem setPriorityFunctionBody_keepsMeasures (v : BitVec 32) (s : State) : KeepsMeasures s (setPriorityFunctionBody v s).state := by
  unfold setPriorityFunctionBody
  split
  · rename_i b _
    have hset : KeepsMeasures s (s.setTuning { s.tuning with priority := b }) := .setTuning fun ht => { ht with }
    exact acted_keepsMeasures (hset.trans (.of_floorStep (followClaim_floorStep _))) _
  · exact .refl s

theorem setPendingTypeBody_keepsMeasures (item : Byte) (v : BitVec 32) (s : State) :
    KeepsMeasures s (setPendingTypeBody item v s).state := by
  unfold setPendingTypeBody
  split
  · rename_i c t _ _
    have htypes : KeepsMeasures s (s.setTuning { s.tuning with pendingTypes := s.tuning.pendingTypes.withType c t }) :=
      .setTuning fun ht => { ht with }
    show KeepsMeasures s (changePendingType c t s)
    unfold changePendingType
    simp only
    split
    · exact htypes.trans (.keep rfl rfl rfl)
    · exact htypes
    · exact htypes
    · exact htypes
  · exact .refl s

/-! ### Handlings -/

theorem conclude_keepsMeasures {s : State} {h : Handling} (hs : KeepsMeasures s h.state) (i : Instr) : KeepsMeasures s (h.conclude i) := by
  cases h with
  | answered t r => exact hs.trans (.keep rfl rfl rfl)
  | acted t r => exact (hs.trans (.finish t)).trans (.keep rfl rfl rfl)

theorem next_keepsMeasures {s u t : State} (h : (.next u : Host.Outcome State Fault Refusal) = .next t) (hu : KeepsMeasures s u) :
    KeepsMeasures s t := by
  cases h; exact hu

/-- An event keeps the laws if its effect does. -/
theorem event_keepsMeasures {i : Instr} {s t : State} {due : Bool} {f : State → State} (he : exec i s = occur due f s)
    (h : exec i s = .next t) (hf : KeepsMeasures s (f s)) : KeepsMeasures s t := by
  refine next_keepsMeasures (he.symm.trans h) ?_
  split
  · exact .refl s
  · exact hf.trans (.finish _)

/-- A command keeps the laws if its body does, whatever it finds after the wake. -/
theorem command_keepsMeasures {i : Instr} {body : State → Handling} {s t : State} (he : exec i s = runCommand i body s)
    (h : exec i s = .next t) (hb : ∀ u, KeepsMeasures u (body u).state) : KeepsMeasures s t := by
  refine next_keepsMeasures (he.symm.trans h) ?_
  split
  · exact .refl s
  · exact (wakeIfDormant_keepsMeasures s).trans (conclude_keepsMeasures (hb _) i)

theorem onEntry_keepsMeasures {entry : Byte} {len : Nat} {f : Fin 200 → Entry → Handling} {s : State}
    (hf : ∀ n e, s.roster[n] = some e → KeepsMeasures s (f n e).state) : KeepsMeasures s (onEntry entry len f s).state := by
  unfold onEntry
  split
  · exact .refl s
  · split
    · exact .refl s
    · exact hf _ _ ‹_›

/-! ### Commands -/

theorem enrolBody_keepsMeasures (unit : UnitId) (seat group profile : Byte) (s : State) :
    KeepsMeasures s (enrolBody unit seat group profile s).state := by
  unfold enrolBody
  split
  · exact .refl s
  · split
    · exact .refl s
    · split
      · exact .refl s
      · split
        · exact .refl s
        · split
          · exact .refl s
          · exact enrolAt_keepsMeasures _ _ _ _ _ s

theorem enrolStrangerBody_keepsMeasures (position seat group profile : Byte) (s : State) :
    KeepsMeasures s (enrolStrangerBody position seat group profile s).state := by
  unfold enrolStrangerBody
  split
  · split
    · exact .refl s
    · split
      · exact .refl s
      · split
        · exact .refl s
        · exact enrolAt_keepsMeasures _ _ _ _ _ s
  · exact .refl s

theorem found_keepsMeasures (s : State) (n : Option (Fin 200)) : KeepsMeasures s (found s n).state := by
  cases n <;> exact .refl s

theorem findSeatBody_keepsMeasures (seat : Byte) (s : State) : KeepsMeasures s (findSeatBody seat s).state := by
  unfold findSeatBody
  split
  · exact .refl s
  · exact found_keepsMeasures s _

theorem amendEntryBody_keepsMeasures (entry seat group profile : Byte) (s : State) :
    KeepsMeasures s (amendEntryBody entry seat group profile s).state := by
  unfold amendEntryBody
  split
  · exact .refl s
  · refine onEntry_keepsMeasures fun n e he => ?_
    split
    · exact .refl s
    · exact amend_keepsMeasures _ _ _ he

theorem revokeBody_keepsMeasures (n : Fin 200) (s : State) : KeepsMeasures s (revokeBody n s).state := by
  unfold revokeBody
  split
  · exact .refl s
  · exact .of_floorStep ((freeSlot_floorStep n s).trans (derive_floorStep n _))

theorem setChairTo_keepsMeasures (chair : Option (Fin 200)) (s : State) : KeepsMeasures s (setChairTo chair s).state := by
  unfold setChairTo
  split
  · exact .refl s
  · exact changeChair_keepsMeasures chair s

theorem setChairBody_keepsMeasures (entry : Byte) (s : State) : KeepsMeasures s (setChairBody entry s).state := by
  unfold setChairBody
  split
  · exact setChairTo_keepsMeasures none s
  · exact onEntry_keepsMeasures fun n _ _ => setChairTo_keepsMeasures (some n) s

theorem enablePortOnBody_keepsMeasures (port : Byte) (s : State) : KeepsMeasures s (enablePortOnBody port s).state := by
  unfold enablePortOnBody
  split
  · exact .refl s
  · split
    · exact .refl s
    · exact .portBecomes s _ _

theorem enablePortOffBody_keepsMeasures (port value : Byte) (s : State) : KeepsMeasures s (enablePortOffBody port value s).state := by
  unfold enablePortOffBody
  split
  · exact .refl s
  · split
    · exact .refl s
    · split
      · exact (KeepsMeasures.portBecomes s _ _).trans (recheckAfterDisable_keepsMeasures _ _)
      · exact .refl s

theorem setModeRecessBody_keepsMeasures (value : Byte) (s : State) : KeepsMeasures s (setModeRecessBody value s).state := by
  unfold setModeRecessBody
  split
  · exact .refl s
  · split
    · exact acted_keepsMeasures (leaveSession_keepsMeasures s) _
    · exact .refl s
    · exact .refl s

theorem setModeSessionBody_keepsMeasures (s : State) : KeepsMeasures s (setModeSessionBody s).state := by
  unfold setModeSessionBody
  split
  · exact acted_keepsMeasures (enterSession_keepsMeasures s) _
  · exact .refl s
  · exact acted_keepsMeasures (enterSession_keepsMeasures s) _

theorem setModeDormantBody_keepsMeasures (s : State) : KeepsMeasures s (setModeDormantBody s).state := by
  unfold setModeDormantBody
  split
  · exact acted_keepsMeasures (enterDormant_keepsMeasures s) _
  · exact acted_keepsMeasures (enterDormant_keepsMeasures s) _
  · exact .refl s

/-! ### Each row -/

/-- Every row keeps the laws. -/
theorem exec_keepsMeasures (i : Instr) {s t : State} (h : exec i s = .next t) : KeepsMeasures s t := by
  cases i with
  | deviceReset => exact next_keepsMeasures h (deviceReset_keepsMeasures s)
  | resetEnd =>
    refine next_keepsMeasures h ?_
    split <;> exact .keep rfl rfl rfl
  | frameComplete p b => exact event_keepsMeasures (exec_frameComplete p b s) h (judgeFrame_keepsMeasures p _ s)
  | characterComplete p b => exact event_keepsMeasures (exec_characterComplete p b s) h (.keep rfl rfl rfl)
  | stopBitMissing p => exact event_keepsMeasures (exec_stopBitMissing p s) h (.keep rfl rfl rfl)
  | byteGapTimeout p => exact event_keepsMeasures (exec_byteGapTimeout p s) h (.keep rfl rfl rfl)
  | frameGapReject p => exact event_keepsMeasures (exec_frameGapReject p s) h (.keep rfl rfl rfl)
  | answerSent p => exact event_keepsMeasures (exec_answerSent p s) h (.keep rfl rfl rfl)
  | resyncIdle p => exact event_keepsMeasures (exec_resyncIdle p s) h (.keep rfl rfl rfl)
  | holdExpiry m => exact event_keepsMeasures (exec_holdExpiry m s) h (.keep rfl rfl rfl)
  | warmUpEnd p => exact event_keepsMeasures (exec_warmUpEnd p s) h (endWarmUp_keepsMeasures p s)
  | portSilenceExpiry p => exact event_keepsMeasures (exec_portSilenceExpiry p s) h (portFallsSilent_keepsMeasures p s)
  | frameTake => exact event_keepsMeasures (exec_frameTake s) h (takeFrame_keepsMeasures s)
  | strangerAgeExpiry i => exact event_keepsMeasures (exec_strangerAgeExpiry i s) h (.strangersBecome s _)
  | poolWindowExpiry i => exact event_keepsMeasures (exec_poolWindowExpiry i s) h (closeAt_keepsMeasures i s)
  | entryFading n => exact event_keepsMeasures (exec_entryFading n s) h (fadeEntry_keepsMeasures n s)
  | entryLost n => exact event_keepsMeasures (exec_entryLost n s) h (loseEntry_keepsMeasures n s)
  | sweepVisit => exact event_keepsMeasures (exec_sweepVisit s) h (sweepStep_keepsMeasures s)
  | silentExpiry k => exact event_keepsMeasures (exec_silentExpiry k s) h (.of_floorStep (silentExpires_floorStep k s))
  | hotDelayReached n => exact event_keepsMeasures (exec_hotDelayReached n s) h (.of_floorStep (hotReached_floorStep n s))
  | silenceDebounceExpiry => exact event_keepsMeasures (exec_silenceDebounceExpiry s) h (debounceExpires_keepsMeasures s)
  | blinkBoundary => exact event_keepsMeasures (exec_blinkBoundary s) h (blinkBoundary_keepsMeasures s)
  | lampFaultDetected m => exact event_keepsMeasures (exec_lampFaultDetected m s) h (lineFault_keepsMeasures m true s)
  | lampFaultCleared m => exact event_keepsMeasures (exec_lampFaultCleared m s) h (lineFault_keepsMeasures m false s)
  | senseInputChange => exact next_keepsMeasures h (.keep rfl rfl rfl)
  | silenceInputChange | waitingCommandStart | commandRefusedBusy | byteComplete =>
    refine next_keepsMeasures h ?_
    split <;> exact .keep rfl rfl rfl
  | csNFall | csNRise =>
    refine next_keepsMeasures h ?_
    (repeat' split) <;> exact .keep rfl rfl rfl
  | readStrangers => exact command_keepsMeasures (exec_readStrangers s) h .refl
  | readStatus => exact command_keepsMeasures (exec_readStatus s) h .refl
  | unknownCommand code => exact command_keepsMeasures (exec_unknownCommand code s) h .refl
  | readEntry entry => exact command_keepsMeasures (exec_readEntry entry s) h fun u => onEntry_keepsMeasures fun _ _ _ => .refl u
  | findUnit unit => exact command_keepsMeasures (exec_findUnit unit s) h fun u => found_keepsMeasures u _
  | findSeat seat => exact command_keepsMeasures (exec_findSeat seat s) h (findSeatBody_keepsMeasures seat)
  | readAttention position =>
    refine command_keepsMeasures (exec_readAttention position s) h fun u => ?_
    unfold readAttentionBody
    split <;> exact .refl u
  | readProfile profile =>
    refine command_keepsMeasures (exec_readProfile profile s) h fun u => ?_
    unfold readProfileBody
    split <;> exact .refl u
  | readTuning item =>
    refine command_keepsMeasures (exec_readTuning item s) h fun u => ?_
    unfold readTuningBody
    split <;> exact .refl u
  | readLine line =>
    refine command_keepsMeasures (exec_readLine line s) h fun u => ?_
    unfold readLineBody
    split <;> exact .refl u
  | readPort port =>
    refine command_keepsMeasures (exec_readPort port s) h fun u => ?_
    unfold readPortBody
    split <;> exact .keep rfl rfl rfl
  | enablePortOn port => exact command_keepsMeasures (exec_enablePortOn port s) h (enablePortOnBody_keepsMeasures port)
  | enablePortOff port value =>
    exact command_keepsMeasures (exec_enablePortOff port value s) h (enablePortOffBody_keepsMeasures port value)
  | stageLine line config =>
    refine command_keepsMeasures (exec_stageLine line config s) h fun u => ?_
    unfold stageLineBody
    split <;> exact .keep rfl rfl rfl
  | acknowledge kind index cls stamp =>
    refine command_keepsMeasures (exec_acknowledge kind index cls stamp s) h fun u => ?_
    unfold acknowledgeBody
    (repeat' split) <;> exact .keep rfl rfl rfl
  | applyLines => exact command_keepsMeasures (exec_applyLines s) h fun _ => .keep rfl rfl rfl
  | ackListed => exact command_keepsMeasures (exec_ackListed s) h fun _ => .keep rfl rfl rfl
  | enrol unit seat group profile =>
    exact command_keepsMeasures (exec_enrol unit seat group profile s) h (enrolBody_keepsMeasures unit seat group profile)
  | enrolStranger position seat group profile =>
    exact command_keepsMeasures (exec_enrolStranger position seat group profile s) h
      (enrolStrangerBody_keepsMeasures position seat group profile)
  | retire entry =>
    exact command_keepsMeasures (exec_retire entry s) h fun u => onEntry_keepsMeasures fun n _ _ => retireEntry_keepsMeasures n u
  | amendEntry entry seat group profile =>
    exact command_keepsMeasures (exec_amendEntry entry seat group profile s) h (amendEntryBody_keepsMeasures entry seat group profile)
  | grantFloor entry =>
    exact command_keepsMeasures (exec_grantFloor entry s) h fun u => onEntry_keepsMeasures fun n _ _ => grantBody_keepsMeasures n u
  | revokeFloor entry =>
    exact command_keepsMeasures (exec_revokeFloor entry s) h fun u => onEntry_keepsMeasures fun n _ _ => revokeBody_keepsMeasures n u
  | setFloorCapacity capacity =>
    refine command_keepsMeasures (exec_setFloorCapacity capacity s) h fun u => ?_
    unfold setFloorCapacityBody
    simp only
    split <;> exact .keep rfl rfl rfl
  | mute entry =>
    exact command_keepsMeasures (exec_mute entry s) h fun u => onEntry_keepsMeasures fun n _ _ => muteBody_keepsMeasures true n u
  | unmute entry =>
    exact command_keepsMeasures (exec_unmute entry s) h fun u => onEntry_keepsMeasures fun n _ _ => muteBody_keepsMeasures false n u
  | muteAll => exact command_keepsMeasures (exec_muteAll s) h fun u => acted_keepsMeasures (setAllMuted_keepsMeasures true u) _
  | unmuteAll => exact command_keepsMeasures (exec_unmuteAll s) h fun u => acted_keepsMeasures (setAllMuted_keepsMeasures false u) _
  | setChair entry => exact command_keepsMeasures (exec_setChair entry s) h (setChairBody_keepsMeasures entry)
  | setProfile profile fields =>
    exact command_keepsMeasures (exec_setProfile profile fields s) h (setProfileBody_keepsMeasures profile fields)
  | setPortSilenceTime v => exact command_keepsMeasures (exec_setPortSilenceTime v s) h (setPortSilenceTimeBody_keepsMeasures v)
  | setCombiningWindow v =>
    exact command_keepsMeasures (exec_setCombiningWindow v s) h fun _ => .setTuning fun ht => ht.withWindow v.toInt
  | setLostTime v => exact command_keepsMeasures (exec_setLostTime v s) h (setLostTimeBody_keepsMeasures v)
  | setSignalFloor v => exact command_keepsMeasures (exec_setSignalFloor v s) h fun _ => .setTuning fun ht => ht.withSignalFloor v.toInt
  | setSmoothingShift v => exact command_keepsMeasures (exec_setSmoothingShift v s) h fun _ => .setTuning fun ht => ht.withShift v.toInt
  | setWeakThreshold v => exact command_keepsMeasures (exec_setWeakThreshold v s) h (setWeakThresholdBody_keepsMeasures v)
  | setPoorThreshold v => exact command_keepsMeasures (exec_setPoorThreshold v s) h (setPoorThresholdBody_keepsMeasures v)
  | setSilentTime v => exact command_keepsMeasures (exec_setSilentTime v s) h fun _ => .setTuning fun ht => ht.withSilentTime v.toInt
  | setAutoRevoke v => exact command_keepsMeasures (exec_setAutoRevoke v s) h (setAutoRevokeBody_keepsMeasures v)
  | setHotDelay v => exact command_keepsMeasures (exec_setHotDelay v s) h (setHotDelayBody_keepsMeasures v)
  | setPriorityFunction v => exact command_keepsMeasures (exec_setPriorityFunction v s) h (setPriorityFunctionBody_keepsMeasures v)
  | setPendingType item v => exact command_keepsMeasures (exec_setPendingType item v s) h (setPendingTypeBody_keepsMeasures item v)
  | setIrqMask v => exact command_keepsMeasures (exec_setIrqMask v s) h fun _ => .setTuning fun ht => { ht with }
  | setModeRecess value => exact command_keepsMeasures (exec_setModeRecess value s) h (setModeRecessBody_keepsMeasures value)
  | setModeSession => exact command_keepsMeasures (exec_setModeSession s) h setModeSessionBody_keepsMeasures
  | setModeDormant =>
    refine next_keepsMeasures h ?_
    split
    · exact .refl s
    · exact conclude_keepsMeasures (setModeDormantBody_keepsMeasures s) _
  | chamberReset => exact command_keepsMeasures (exec_chamberReset s) h fun u => acted_keepsMeasures (chamberResetAll_keepsMeasures u) _

/-- Settles O57: an entry's evaluator fields are written by the evaluators, a re-classification, a loss and a fresh entry alone, each of
which keeps their laws; and a setting is stored only clamped and checked. -/
theorem stepsKeepTheEvaluatorLaw : Obligations.StepsKeepTheEvaluatorLaw := by
  intro s t hs h
  unfold step at h
  split at h
  · exact next_keepsMeasures h (autonomous_keepsMeasures s) hs
  · rename_i rest _
    exact exec_keepsMeasures _ h (KeepsMeasures.keep (s := s) (t := { s with pending := rest }) rfl rfl rfl hs)

end Sys2Proof.Machine
end

section
/-! PROOFS. The signal evaluator: one evaluation of an entry's signal fields, and the level with its rise hysteresis (O35). -/

namespace Sys2Proof.Machine

/-! ### One evaluation -/

theorem observedMargin_eq (t : Tuning) (best : Int) : observedMargin t best = max (-40) (min 60 (best - t.signalFloor)) :=
  clampInt_eq (by decide) _

/-- The first margin is taken whole and classified without hysteresis (R87, R88). -/
theorem evalSignal_first (t : Tuning) {g : Signal} (b : Int) (p : Fin 4) (h : g.margin = none) :
    evalSignal t g (some (b, p)) = ⟨some (observedMargin t b), classifyMargin t (observedMargin t b), some p⟩ := by
  simp only [evalSignal, h]

/-- A later margin is smoothed into Q, and the level follows Q (R87, R88). -/
theorem evalSignal_smoothed (t : Tuning) {g : Signal} {q : Int} (b : Int) (p : Fin 4) (h : g.margin = some q) :
    evalSignal t g (some (b, p)) =
      ⟨some (q + filterStep t.shift (observedMargin t b - q)),
        nextSigLevel t (q + filterStep t.shift (observedMargin t b - q)) g.level, some p⟩ := by
  simp only [evalSignal, h]

/-! ### The plain classification of a margin -/

theorem classifyMargin_eq_good (t : Tuning) (q : Int) : classifyMargin t q = .good ↔ t.weak ≤ q := by
  unfold classifyMargin
  split
  · simp; omega
  · split
    · simp; omega
    · simp; omega

theorem classifyMargin_eq_poor {t : Tuning} (ht : t.poor < t.weak) (q : Int) : classifyMargin t q = .poor ↔ q < t.poor := by
  unfold classifyMargin
  split
  · simp; omega
  · split
    · simp; omega
    · simp; omega

/-! ### The next level, by the level that stands -/

/-- The downward level where it is worse, else the upward level where it is better, else the level that stands (R88). -/
theorem nextSigLevel_eq (t : Tuning) (q : Int) (now : SigLevel) : nextSigLevel t q now =
    if (classifyMargin t q).worseThan now then classifyMargin t q
    else if now.worseThan (classifyMargin t (q - 3)) then classifyMargin t (q - 3) else now := rfl

/-- No level is better than GOOD, so the hysteresis has no part in what becomes of it. -/
theorem nextSigLevel_of_good (t : Tuning) (q : Int) : nextSigLevel t q .good = classifyMargin t q := by
  have hup : SigLevel.worseThan .good (classifyMargin t (q - 3)) = false := by cases classifyMargin t (q - 3) <;> rfl
  have hknown := classifyMargin_known t q
  rw [nextSigLevel_eq, hup]
  cases hdown : classifyMargin t q with
  | unknown => exact absurd hdown hknown
  | good | weak | poor => rfl

/-- No level is worse than POOR, so only Q less the hysteresis decides what becomes of it. -/
theorem nextSigLevel_of_poor (t : Tuning) (q : Int) : nextSigLevel t q .poor = classifyMargin t (q - 3) := by
  have hdown : (classifyMargin t q).worseThan .poor = false := by cases classifyMargin t q <;> rfl
  have hknown := classifyMargin_known t (q - 3)
  rw [nextSigLevel_eq, hdown]
  cases hup : classifyMargin t (q - 3) with
  | unknown => exact absurd hup hknown
  | good | weak | poor => rfl

/-- From WEAK the level falls where Q is below Pt, and rises where Q less the hysteresis reaches W. -/
theorem nextSigLevel_of_weak {t : Tuning} (ht : t.poor < t.weak) (q : Int) :
    nextSigLevel t q .weak = if q < t.poor then .poor else if t.weak + 3 ≤ q then .good else .weak := by
  have hfall : (classifyMargin t q).worseThan .weak = true ↔ q < t.poor := by
    rw [← classifyMargin_eq_poor ht]
    cases classifyMargin t q <;> decide
  have hrise : SigLevel.worseThan .weak (classifyMargin t (q - 3)) = true ↔ t.weak + 3 ≤ q := by
    rw [← le_sub_iff_add_le, ← classifyMargin_eq_good]
    cases classifyMargin t (q - 3) <;> decide
  simp only [nextSigLevel_eq, hfall, hrise]
  split
  · next h => exact (classifyMargin_eq_poor ht q).2 h
  · split
    · next h => exact (classifyMargin_eq_good t _).2 (le_sub_iff_add_le.2 h)
    · rfl

theorem nextSigLevel_eq_good {t : Tuning} (ht : t.poor < t.weak) (q : Int) {now : SigLevel} (hnow : now ≠ .unknown) :
    nextSigLevel t q now = .good ↔ t.weak + 3 ≤ q ∨ now = .good ∧ t.weak ≤ q := by
  cases now with
  | unknown => exact absurd rfl hnow
  | good => rw [nextSigLevel_of_good, classifyMargin_eq_good]; simp; omega
  | weak =>
    rw [nextSigLevel_of_weak ht]
    split
    · simp; omega
    · split
      · simpa
      · simp; omega
  | poor => rw [nextSigLevel_of_poor, classifyMargin_eq_good]; simp; omega

theorem nextSigLevel_eq_poor {t : Tuning} (ht : t.poor < t.weak) (q : Int) {now : SigLevel} (hnow : now ≠ .unknown) :
    nextSigLevel t q now = .poor ↔ q < t.poor ∨ now = .poor ∧ q < t.poor + 3 := by
  cases now with
  | unknown => exact absurd rfl hnow
  | good => rw [nextSigLevel_of_good, classifyMargin_eq_poor ht]; simp
  | weak =>
    rw [nextSigLevel_of_weak ht]
    split
    · simpa
    · split
      · simp; omega
      · simp; omega
  | poor => rw [nextSigLevel_of_poor, classifyMargin_eq_poor ht]; simp; omega

/-- Settles O35: the three branches of `evalSignal`, and the next level by the level that stands. -/
theorem signalIsEvaluated : Obligations.SignalIsEvaluated := by
  refine ⟨fun _ _ => rfl, fun t g b m p hm => ?_, fun t q now ht hnow => ?_⟩
  · obtain rfl : observedMargin t b = m := (observedMargin_eq t b).trans hm.symm
    exact ⟨evalSignal_first t b p, fun q hq => ⟨_, rfl, evalSignal_smoothed t b p hq⟩⟩
  · exact ⟨nextSigLevel_eq_good ht q hnow, nextSigLevel_eq_poor ht q hnow, nextSigLevel_known t q hnow⟩

end Sys2Proof.Machine
end

section
/-! PROOFS. One entry derived afresh (O40): its live slot, its hot-mic timer, and what is reported of the two. -/

namespace Sys2Proof.Machine

/-! ### Its live slot -/

theorem deriveSlot_none {n : Fin 200} {s : State} (h : s.floor.liveSlotOf n = none) : deriveSlot n s = s := by
  simp only [deriveSlot, h]

/-- A live slot with speaking derived afresh: a start of speaking reloads the silent timer and ends SILENT_FLOOR (R100, R103). -/
def LiveSlot.derived (x : LiveSlot) (speaks : Bool) (full : Nat) : LiveSlot where
  holder := x.holder
  timer := if speaks && !x.speaking then full else x.timer
  speaking := speaks
  expired := if speaks && !x.speaking then false else x.expired

/-- What is reported of a live slot derived afresh: SILENT_FLOOR false at a start of speaking that ends it (R103, R104). -/
def LiveSlot.startReports (x : LiveSlot) (n : Fin 200) (speaks : Bool) : List Posted :=
  if speaks = true ∧ x.speaking = false ∧ x.expired = true then [⟨.floor, .report ⟨.entry n, .silentFloor⟩ false⟩] else []

theorem deriveSlot_some {n : Fin 200} {s : State} {k : Fin 6} {x : LiveSlot} (hk : s.floor.liveSlotOf n = some k)
    (hx : s.floor.live[k] = some x) : deriveSlot n s = { s with
      floor := { s.floor with live := setAt s.floor.live k (some (x.derived (s.speaking n) s.tuning.silentTime)) }
      engine := { s.engine with posted := s.engine.posted ++ x.startReports n (s.speaking n) } } := by
  unfold deriveSlot LiveSlot.derived LiveSlot.startReports
  simp only [hk, hx]
  cases hs : s.speaking n with
  | false => simp [State.setLive]
  | true =>
    cases hsp : x.speaking with
    | true => simp [State.setLive]
    | false => cases hex : x.expired <;> simp [State.setLive, State.postChange, State.post, unitWarning]

/-- The live slots of an entry derived afresh: its own derived, and every other as it was. -/
theorem deriveSlot_live {s : State} (n : Fin 200) (k : Fin 6) : (deriveSlot n s).floor.live[k] = s.floor.live[k].map fun x =>
    if s.floor.liveSlotOf n = some k then x.derived (s.speaking n) s.tuning.silentTime else x := by
  cases hn : s.floor.liveSlotOf n with
  | none => simp only [deriveSlot_none hn, reduceCtorEq, if_false, Option.map_id']
  | some j =>
    obtain ⟨x, hx, -⟩ := liveSlotOf_holds hn
    rw [deriveSlot_some hn hx, setAt_get]
    by_cases e : j = k
    · subst e; simp only [if_true, hx, Option.map_some]
    · simp only [e, if_false, Option.some.injEq, Option.map_id']

/-- Deriving an entry afresh leaves who holds the live slots. -/
theorem deriveSlot_holder (n : Fin 200) (s : State) (k : Fin 6) : (deriveSlot n s).floor.liveHolder k = s.floor.liveHolder k :=
  liveHolder_of_map (fun x => by split <;> rfl) (deriveSlot_live n k)

theorem deriveSlot_hotTerms (n m : Fin 200) (s : State) (e : Entry) : (deriveSlot n s).hotTerms m e = s.hotTerms m e :=
  (deriveSlot_floorStep n s).hotTerms (deriveSlot_holder n s) (fun k => by rw [deriveSlot_held]) m e

/-! ### The entry -/

theorem derive_live (n : Fin 200) (s : State) (k : Fin 6) : (derive n s).floor.live[k] = s.floor.live[k].map fun x =>
    if s.floor.liveSlotOf n = some k then x.derived (s.speaking n) s.tuning.silentTime else x := by
  rw [derive, deriveHot_floor, deriveSlot_live]

theorem derive_holder (n : Fin 200) (s : State) (k : Fin 6) : (derive n s).floor.liveHolder k = s.floor.liveHolder k := by
  rw [derive, deriveHot_floor, deriveSlot_holder]

theorem derive_speaking (n m : Fin 200) (s : State) : (derive n s).speaking m = s.speaking m :=
  (derive_floorStep n s).speaking (derive_holder n s) m

theorem derive_hotTerms (n m : Fin 200) (s : State) (e : Entry) : (derive n s).hotTerms m e = s.hotTerms m e :=
  (derive_floorStep n s).hotTerms (derive_holder n s) (fun k => by rw [derive_held]) m e

/-- An entry derived afresh: its hot-mic timer by its terms; and every other as it was (R106). -/
theorem derive_roster (n m : Fin 200) (s : State) : (derive n s).roster[m] = s.roster[m].map fun e =>
    if m = n then { e with hot := timerDerived (s.hotTerms n e) s.tuning.hotDelay e.hot } else e := by
  rw [derive, deriveHot_roster, deriveSlot_roster, (deriveSlot_floorStep n s).tuning]
  simp only [deriveSlot_hotTerms]

/-- What is reported of the live slot of an entry derived afresh. -/
def State.startReports (s : State) (n : Fin 200) : List Posted :=
  match s.floor.liveSlotOf n with
  | some k => (match s.floor.live[k] with
    | some x => x.startReports n (s.speaking n)
    | none => [])
  | none => []

theorem deriveSlot_posted (n : Fin 200) (s : State) :
    (deriveSlot n s).engine = { s.engine with posted := s.engine.posted ++ s.startReports n } := by
  unfold State.startReports
  cases hn : s.floor.liveSlotOf n with
  | none => rw [deriveSlot_none hn, List.append_nil]
  | some k =>
    obtain ⟨x, hx, -⟩ := liveSlotOf_holds hn
    simp only [hx]
    rw [deriveSlot_some hn hx]

theorem derive_engine {n : Fin 200} {s : State} {e : Entry} (he : s.roster[n] = some e) : (derive n s).engine =
    { s.engine with posted := s.engine.posted ++ s.startReports n ++ timerReports n (s.hotTerms n e) s.tuning.hotDelay e.hot } := by
  have hslot : (deriveSlot n s).roster[n] = some e := by rw [deriveSlot_roster, he]
  rw [derive, deriveHot_eq hslot, deriveSlot_hotTerms, deriveSlot_posted, (deriveSlot_floorStep n s).tuning]

/-! ### Speaking and the terms of the timer -/

theorem speaking_iff {s : State} {n : Fin 200} {e : Entry} (he : s.roster[n] = some e) : s.speaking n = true ↔
    (s.floor.liveSlotOf n).isSome ∧ e.switch = .opened ∧ (e.presence = .live ∨ e.presence = .fading) ∧ e.muted = false ∧
      s.mode = .session := by
  unfold State.speaking
  simp only [he, Bool.and_eq_true, keyOn_iff, Bool.not_eq_true', beq_iff_eq, and_assoc]

theorem hotTerms_iff {s : State} {n : Fin 200} {e : Entry} : s.hotTerms n e = true ↔
    e.switch = .opened ∧ (e.presence = .live ∨ e.presence = .fading) ∧ s.mode = .session ∧ s.floor.chair ≠ some n ∧
      s.speaking n = false ∧ s.floor.heldSlotOf n = none := by
  unfold State.hotTerms
  simp only [Bool.and_eq_true, keyOn_iff, bne_iff_ne, Bool.not_eq_true', beq_iff_eq, Option.isNone_iff_eq_none, and_assoc]

/-- The reports of a hot-mic timer derived afresh, by whether it runs (R106). -/
theorem timerReports_eq (n : Fin 200) (runs : Bool) (delay : Nat) (h : Option HotTimer) : timerReports n runs delay h =
    match h with
    | none => if runs = true ∧ delay = 0 then [⟨.floor, .report ⟨.entry n, .hotMic⟩ true⟩] else []
    | some x => if runs = false ∧ x.reached = true then [⟨.floor, .report ⟨.entry n, .hotMic⟩ false⟩] else [] := by
  cases runs <;> cases h <;> simp [timerReports]

/-- Settles O40, by the equations of the two parts of `derive`: of the live slot, and of the hot-mic timer. -/
theorem speakingIsDerivedAfresh : Obligations.SpeakingIsDerivedAfresh := by
  intro s n e he
  have hfloor : (derive n s).floor = (deriveSlot n s).floor := by rw [derive, deriveHot_floor]
  refine ⟨fun k x hk hx => ?_, fun hk => ?_, table_ext fun m => ?_, speaking_iff he, hotTerms_iff, ?_, (derive_floorStep n s).rest⟩
  · rw [hfloor, deriveSlot_some hk hx]; rfl
  · rw [hfloor, deriveSlot_none hk]
  · rw [derive_roster, setAt_get]
    by_cases h : n = m
    · subst h; simp only [he, if_true, Option.map_some]; rfl
    · simp only [if_neg h, if_neg (Ne.symm h), Option.map_id']
  · rw [derive_engine he, timerReports_eq]
    rfl

end Sys2Proof.Machine
end

section
/-! PROOFS. The two moves of the floor (O41): the slots that change sides, the holders derived afresh one after another, and what is
reported, holder by holder in the order of the roster. -/

namespace Sys2Proof.Machine

/-! ### Holders in the order of the roster -/

/-- The holders of a table of slots, in the order of the roster. -/
def holdersInOrder (v : Fin 6 → Option (Fin 200)) : List (Fin 200) := ((List.finRange 6).filterMap v).insertionSort (· ≤ ·)

theorem mem_holdersInOrder {v : Fin 6 → Option (Fin 200)} {n : Fin 200} : n ∈ holdersInOrder v ↔ ∃ k, v k = some n := by
  simp only [holdersInOrder, List.mem_insertionSort, List.mem_filterMap, List.mem_finRange, true_and]

theorem heldByHolder_eq (f : Floor) : f.heldByHolder = holdersInOrder fun k => f.held[k] := rfl

theorem liveByHolder_holders (f : Floor) : f.liveByHolder.map (·.holder) = holdersInOrder f.liveHolder := by
  rw [Floor.liveByHolder, List.map_insertionSort (s := (· ≤ ·)) _ _ _ fun _ _ _ _ => Iff.rfl, List.map_filterMap]
  rfl

section
variable {v : Fin 6 → Option (Fin 200)} (once : ∀ (j k : Fin 6) (n : Fin 200), v j = some n → v k = some n → j = k)
include once

theorem holdersInOrder_nodup : (holdersInOrder v).Nodup :=
  (List.perm_insertionSort _ _).nodup_iff.2 ((List.nodup_finRange 6).filterMap fun j k n hj hk => once j k n hj hk)

/-- The holders in order are those of all entries that hold a slot. -/
theorem holdersInOrder_eq_filter : holdersInOrder v = (List.finRange 200).filter (· ∈ holdersInOrder v) := by
  have hsorted : (holdersInOrder v).Pairwise (· < ·) :=
    ((List.pairwise_insertionSort (· ≤ ·) _).and (holdersInOrder_nodup once)).imp fun h => lt_of_le_of_ne h.1 h.2
  refine hsorted.eq_of_mem_iff ((List.pairwise_lt_finRange 200).filter _) fun n => ?_
  simp only [List.mem_filter, List.mem_finRange, true_and, decide_eq_true_eq]

/-- A list made entry by entry, of the holders alone, goes in their order. -/
theorem flatMap_finRange_holders {α : Type} (f : Fin 200 → List α) (hf : ∀ n, (∀ k, v k ≠ some n) → f n = []) :
    (List.finRange 200).flatMap f = (holdersInOrder v).flatMap f := by
  have hfilter : ∀ l : List (Fin 200), l.flatMap f = (l.filter (· ∈ holdersInOrder v)).flatMap f := by
    intro l
    induction l with
    | nil => rfl
    | cons n l ih =>
      rw [List.flatMap_cons, ih, List.filter_cons]
      split
      · rfl
      · rename_i hn
        rw [hf n fun k hk => hn (decide_eq_true (mem_holdersInOrder.2 ⟨k, hk⟩)), List.nil_append]
  rw [hfilter, ← holdersInOrder_eq_filter once]

end

theorem liveSlotOf_eq_none {f : Floor} {n : Fin 200} : f.liveSlotOf n = none ↔ ∀ k, f.liveHolder k ≠ some n := by
  rw [Floor.liveSlotOf, firstIndex_eq_none]
  exact forall_congr' fun k => beq_eq_false_iff_ne

theorem liveHolder_eq_some {f : Floor} {k : Fin 6} {n : Fin 200} :
    f.liveHolder k = some n ↔ ∃ x : LiveSlot, f.live[k] = some x ∧ x.holder = n := by
  rw [Floor.liveHolder, Option.map_eq_some_iff]

/-- In a floor that keeps its law no entry holds two live slots. -/
theorem FloorLaw.liveHolder_once {s : State} (hs : FloorLaw s) (j k : Fin 6) (n : Fin 200) (hj : s.floor.liveHolder j = some n)
    (hk : s.floor.liveHolder k = some n) : j = k := by
  obtain ⟨x, hx, hxn⟩ := liveHolder_eq_some.1 hj
  obtain ⟨y, hy, hyn⟩ := liveHolder_eq_some.1 hk
  exact hs.liveOnce j k x y hx hy (hxn.trans hyn.symm)

/-! ### The move to the held floor -/

/-- The floor as a move to held finds it once the slots have changed sides, before its holders are derived afresh (R108). -/
def withheld (s : State) : State :=
  { s with floor := { s.floor with
    live := Vector.replicate 6 none
    held := mapTable s.floor.held fun k h => match s.floor.live[k] with
      | some x => some x.holder
      | none => h } }

/-- A holder of a slot that has become a held one: a true SILENT_FLOOR reported false, and the entry derived afresh (R108). -/
def withhold (x : LiveSlot) (s : State) : State :=
  derive x.holder (s.postChange .floor (unitWarning x.holder .silentFloor) x.expired false)

theorem moveToHeld_eq (s : State) : moveToHeld s = forList withhold s.floor.liveByHolder (withheld s) := rfl

theorem withheld_live (s : State) (k : Fin 6) : (withheld s).floor.live[k] = none := Vector.getElem_replicate _

theorem withheld_held (s : State) (k : Fin 6) : (withheld s).floor.held[k] = (s.floor.liveHolder k).or s.floor.held[k] := by
  rw [withheld, mapTable_get, Floor.liveHolder]
  cases s.floor.live[k] <;> rfl

/-- An operation that derives entries afresh leaves who holds the slots. -/
structure HoldersStay (s t : State) : Prop where
  live : ∀ k : Fin 6, t.floor.liveHolder k = s.floor.liveHolder k
  held : t.floor.held = s.floor.held
  cause : t.floor.cause = s.floor.cause

theorem HoldersStay.refl (s : State) : HoldersStay s s := ⟨fun _ => rfl, rfl, rfl⟩

theorem HoldersStay.trans {s t u : State} (h₁ : HoldersStay s t) (h₂ : HoldersStay t u) : HoldersStay s u :=
  ⟨fun k => (h₂.live k).trans (h₁.live k), h₂.held.trans h₁.held, h₂.cause.trans h₁.cause⟩

theorem derive_holdersStay (n : Fin 200) (s : State) : HoldersStay s (derive n s) :=
  ⟨derive_holder n s, derive_held n s, derive_cause n s⟩

theorem postChange_holdersStay (s : State) (b : Block) (id : WarnId) (old new : Bool) : HoldersStay s (s.postChange b id old new) := by
  rw [postChange_eq]; exact ⟨fun _ => rfl, rfl, rfl⟩

theorem withhold_holdersStay (x : LiveSlot) (s : State) : HoldersStay s (withhold x s) :=
  (postChange_holdersStay s _ _ _ _).trans (derive_holdersStay _ _)

theorem HoldersStay.forList {α : Type} {f : α → State → State} (hf : ∀ a t, HoldersStay t (f a t)) (l : List α) (s : State) :
    HoldersStay s (forList f l s) :=
  forList_induct (P := HoldersStay s) l s (.refl s) fun a _ t ht => ht.trans (hf a t)

theorem moveToHeld_holdersStay (s : State) : HoldersStay (withheld s) (moveToHeld s) := .forList withhold_holdersStay _ _

theorem moveBack_holdersStay (s : State) : HoldersStay (returned s) (moveBack s) := .forList derive_holdersStay _ _

theorem live_none_iff {f : Floor} {k : Fin 6} : f.liveHolder k = none ↔ f.live[k] = none := Option.map_eq_none_iff

/-- After a move to held no live slot is taken. -/
theorem moveToHeld_live (s : State) (k : Fin 6) : (moveToHeld s).floor.live[k] = none :=
  live_none_iff.1 (((moveToHeld_holdersStay s).live k).trans (live_none_iff.2 (withheld_live s k)))

/-- A move to held gives each live holder the held slot of its number. -/
theorem moveToHeld_held (s : State) (k : Fin 6) :
    (moveToHeld s).floor.held[k] = (s.floor.liveHolder k).or s.floor.held[k] := by
  rw [(moveToHeld_holdersStay s).held, withheld_held]

/-- A slot that a move back has filled: full, and its holder's. -/
theorem moveBack_filled {s : State} {k : Fin 6} {n : Fin 200} (hk : s.floor.held[k] = some n) : ∃ x : LiveSlot,
    (moveBack s).floor.live[k] = some x ∧ x.holder = n ∧ x.timer = s.tuning.silentTime ∧ x.expired = false := by
  have hload : (returned s).floor.live[k] = some (loadedSlot s n) := by
    rw [returned, mapTable_get, hk]
  have hrun := forList_induct (f := derive) (P := fun t => FloorStep s t ∧ ∃ x : LiveSlot,
      t.floor.live[k] = some x ∧ x.holder = n ∧ x.timer = s.tuning.silentTime ∧ x.expired = false)
    s.floor.heldByHolder (returned s) ⟨.slots s _ _ s.floor.cause, _, hload, rfl, rfl, rfl⟩ fun m _ t ht => by
      obtain ⟨hstep, x, hx, hhold, htime, hexp⟩ := ht
      refine ⟨hstep.trans (derive_floorStep m t), _, (derive_live m t k).trans (congrArg _ hx), ?_⟩
      split
      · refine ⟨hhold, ?_, ?_⟩
        · simp only [LiveSlot.derived, hstep.tuning, htime, ite_self]
        · simp only [LiveSlot.derived, hexp, ite_self]
      · exact ⟨hhold, htime, hexp⟩
  exact hrun.2

/-- All that a move can do to a state (R108). -/
theorem FloorStep.move {s t : State} (h : FloorStep s t) (hcause : t.floor.cause = s.floor.cause) : t = { s with
    roster := t.roster, engine := t.engine
    floor := { s.floor with live := t.floor.live, held := t.floor.held } } := by
  have hfloor : t.floor = { s.floor with live := t.floor.live, held := t.floor.held } := by
    conv_lhs => rw [h.floor, hcause]
  rw [← hfloor]; exact h.rest

theorem moveToHeld_cause (s : State) : (moveToHeld s).floor.cause = s.floor.cause := (moveToHeld_holdersStay s).cause

theorem moveBack_cause (s : State) : (moveBack s).floor.cause = s.floor.cause := (moveBack_holdersStay s).cause

theorem movesKeepSlots : Claims.MovesKeepSlots := by
  intro s
  refine ⟨moveToHeld_live s, fun k x hx => ?_, fun k hk => ?_, fun k => ?_, fun k n => moveBack_filled, fun m e he =>
    ⟨(moveToHeld_floorStep s).entry he, (moveBack_floorStep s).entry he⟩, (moveToHeld_floorStep s).move (moveToHeld_cause s),
    (moveBack_floorStep s).move (moveBack_cause s)⟩
  · rw [moveToHeld_held, liveHolder_eq_some.2 ⟨x, hx, rfl⟩, Option.some_or]
  · rw [moveToHeld_held, live_none_iff.2 hk, Option.none_or]
  · simp only [(moveBack_holdersStay s).held]
    exact Vector.getElem_replicate _

/-! ### What a move to held reports -/

/-- What is reported of a holder whose live slot becomes a held one (R104, R106). -/
def LiveSlot.withholdReports (x : LiveSlot) (y : Option Entry) : List Posted :=
  changeReport .floor (unitWarning x.holder .silentFloor) x.expired false ++ (match y with
    | some e => timerReports x.holder false 0 e.hot
    | none => [])

/-- A hot-mic timer that does not run reports the same whatever the hot delay. -/
theorem timerReports_stopped (n : Fin 200) (d d' : Nat) (h : Option HotTimer) : timerReports n false d h = timerReports n false d' h := rfl

/-- An entry whose slot is a held one speaks not, and its hot-mic timer stops (R100, R106). -/
theorem hotTerms_held {s : State} {n : Fin 200} (h : s.floor.heldSlotOf n ≠ none) (e : Entry) : s.hotTerms n e = false := by
  rw [Bool.eq_false_iff, Ne, hotTerms_iff]
  exact fun ⟨_, _, _, _, _, hno⟩ => h hno

theorem withhold_eq {x : LiveSlot} {s : State} (hlive : s.floor.liveSlotOf x.holder = none) (hheld : s.floor.heldSlotOf x.holder ≠ none) :
    withhold x s = { s with
      roster := setAt s.roster x.holder (s.roster[x.holder].map fun e => { e with hot := none })
      engine := { s.engine with posted := s.engine.posted ++ x.withholdReports s.roster[x.holder] } } := by
  have hslot : ∀ p, deriveSlot x.holder { s with engine := { s.engine with posted := p } } =
      { s with engine := { s.engine with posted := p } } := fun p => deriveSlot_none hlive
  have hterms : ∀ p e, State.hotTerms { s with engine := { s.engine with posted := p } } x.holder e = false := fun p => hotTerms_held hheld
  unfold withhold derive LiveSlot.withholdReports
  rw [postChange_eq, hslot, deriveHot_slot, State.hotDerived]
  cases s.roster[x.holder] with
  | none => simp only [State.hotReports, Option.map_none, List.append_nil]
  | some e =>
    simp only [State.hotReports, hterms, timerDerived, Option.map_some, Bool.false_eq_true, if_false,
      timerReports_stopped _ s.tuning.hotDelay 0, List.append_assoc]

/-- Holders of slots that have become held ones, derived one after another: each timer stopped, and reported in their order. -/
theorem forList_withhold {l : List LiveSlot} (hl : (l.map (·.holder)).Nodup) {s : State} (hlive : ∀ k : Fin 6, s.floor.live[k] = none)
    (hheld : ∀ x ∈ l, s.floor.heldSlotOf x.holder ≠ none) : forList withhold l s = { s with
      roster := mapTable s.roster fun m y => if m ∈ l.map (·.holder) then y.map (fun e => { e with hot := none }) else y
      engine := { s.engine with posted := s.engine.posted ++ l.flatMap fun x => x.withholdReports s.roster[x.holder] } } := by
  induction l generalizing s with
  | nil =>
    have h : (mapTable s.roster fun m y => if m ∈ ([] : List LiveSlot).map (·.holder) then y.map (fun e => { e with hot := none }) else y) =
        s.roster := table_ext fun m => by simp only [mapTable_get, List.map_nil, List.not_mem_nil, if_false]
    rw [h, List.flatMap_nil, List.append_nil]; rfl
  | cons x l ih =>
    rw [List.map_cons, List.nodup_cons] at hl
    obtain ⟨hx, hl⟩ := hl
    have hown := withhold_eq (s := s) (liveSlotOf_eq_none.2 fun k => by rw [live_none_iff.2 (hlive k)]; nofun)
      (hheld x (List.mem_cons_self ..))
    have hposts : (l.flatMap fun y => y.withholdReports (withhold x s).roster[y.holder]) =
        l.flatMap fun y => y.withholdReports s.roster[y.holder] := List.flatMap_congr fun y hy => by
      rw [hown, setAt_get_ne _ fun e => hx (by rw [e]; exact List.mem_map_of_mem hy)]
    have hroster : (mapTable (withhold x s).roster fun m y =>
          if m ∈ l.map (·.holder) then y.map (fun e => { e with hot := none }) else y) =
        mapTable s.roster fun m y => if m ∈ (x :: l).map (·.holder) then y.map (fun e => { e with hot := none }) else y := by
      refine table_ext fun m => ?_
      rw [mapTable_get, mapTable_get, hown, setAt_get, List.map_cons]
      by_cases e : x.holder = m
      · subst e; rw [if_neg hx, if_pos rfl, if_pos (List.mem_cons_self ..)]
      · simp only [if_neg e, List.mem_cons, Ne.symm e, false_or]
    show forList withhold l (withhold x s) = _
    rw [ih hl (fun k => by rw [hown]; exact hlive k) (fun y hy => by rw [hown]; exact hheld y (List.mem_cons_of_mem _ hy)), hposts, hroster,
      hown, List.flatMap_cons, ← List.append_assoc]

/-- What a move to held reports of one entry: nothing unless it holds a live slot (R104, R106). -/
def State.withholdReports (s : State) (n : Fin 200) : List Posted :=
  match s.floor.liveSlotOf n with
  | some k => (match s.floor.live[k] with
    | some x => x.withholdReports s.roster[n]
    | none => [])
  | none => []

section
variable {s : State} (once : ∀ (j k : Fin 6) (n : Fin 200), s.floor.liveHolder j = some n → s.floor.liveHolder k = some n → j = k)
include once

/-- A move to held, from a floor in which no entry holds two live slots: each holder's timer stopped, and reported in order (R108). -/
theorem moveToHeld_run : moveToHeld s = { withheld s with
    roster := mapTable s.roster fun m y => if m ∈ holdersInOrder s.floor.liveHolder then y.map (fun e => { e with hot := none }) else y
    engine := { s.engine with
      posted := s.engine.posted ++ s.floor.liveByHolder.flatMap fun x => x.withholdReports s.roster[x.holder] } } := by
  rw [moveToHeld_eq, forList_withhold (by rw [liveByHolder_holders]; exact holdersInOrder_nodup once) (withheld_live s) fun x hx => ?_,
    liveByHolder_holders]
  · rfl
  · obtain ⟨k, hk⟩ := mem_holdersInOrder.1 (liveByHolder_holders s.floor ▸ List.mem_map_of_mem hx)
    exact fun hno => heldSlotOf_none_iff.1 hno k (by rw [withheld_held, hk, Option.some_or])

theorem moveToHeld_roster (m : Fin 200) : (moveToHeld s).roster[m] = s.roster[m].map fun e =>
    if s.floor.liveSlotOf m = none then e else { e with hot := none } := by
  have hmem : m ∈ holdersInOrder s.floor.liveHolder ↔ ¬ s.floor.liveSlotOf m = none := by
    rw [mem_holdersInOrder, liveSlotOf_eq_none]; push Not; rfl
  rw [moveToHeld_run once, mapTable_get]
  simp only [hmem, ite_not]
  split
  · rw [Option.map_id']
  · rfl

theorem moveToHeld_engine : (moveToHeld s).engine =
    { s.engine with posted := s.engine.posted ++ (List.finRange 200).flatMap s.withholdReports } := by
  have hslot : ∀ x ∈ s.floor.liveByHolder, ∃ k, s.floor.liveSlotOf x.holder = some k ∧ s.floor.live[k] = some x := by
    intro x hx
    simp only [Floor.liveByHolder, List.mem_insertionSort, List.mem_filterMap, List.mem_finRange, true_and] at hx
    obtain ⟨k, hk⟩ := hx
    have hheld : s.floor.liveHolder k = some x.holder := liveHolder_eq_some.2 ⟨x, hk, rfl⟩
    obtain ⟨j, hj⟩ := Option.ne_none_iff_exists'.1 fun h => liveSlotOf_eq_none.1 h k hheld
    exact ⟨k, once j k _ (liveHolder_eq_some.2 (liveSlotOf_holds hj)) hheld ▸ hj, hk⟩
  rw [moveToHeld_run once, flatMap_finRange_holders once _ fun n hn => by rw [State.withholdReports, liveSlotOf_eq_none.2 hn],
    ← liveByHolder_holders, List.flatMap_map]
  refine congrArg (fun l => { s.engine with posted := s.engine.posted ++ l }) (List.flatMap_congr fun x hx => ?_)
  obtain ⟨k, hk, hl⟩ := hslot x hx
  simp only [State.withholdReports, hk, hl]

end

theorem moveToHeldReports : Claims.MoveToHeldReports := by
  intro s hs
  have once := hs.liveHolder_once
  refine ⟨fun m e he => ?_, ?_⟩
  · rw [moveToHeld_roster once, he, Option.map_some]
  · rw [moveToHeld_engine once]
    refine congrArg (fun l => { s.engine with posted := s.engine.posted ++ l }) (List.flatMap_congr fun n _ => ?_)
    unfold State.withholdReports
    cases hn : s.floor.liveSlotOf n with
    | none => rfl
    | some k =>
      obtain ⟨x, hx, rfl⟩ := liveSlotOf_holds hn
      have hsilent : changeReport .floor (unitWarning x.holder .silentFloor) x.expired false =
          if x.expired then [⟨.floor, .report ⟨.entry x.holder, .silentFloor⟩ false⟩] else [] := by
        cases x.expired <;> rfl
      simp only [hx, LiveSlot.withholdReports, hsilent]
      rfl

/-! ### What a move back reports -/

/-- A move with no held slot moves nothing. -/
theorem moveBack_of_heldEmpty {s : State} (h : ∀ k : Fin 6, s.floor.held[k] = none) : moveBack s = s := by
  have hmoved : s.floor.heldByHolder = [] := List.eq_nil_iff_forall_not_mem.2 fun n hn => by
    obtain ⟨k, hk⟩ := mem_heldByHolder_iff.1 hn
    rw [h] at hk; cases hk
  have hheld : Vector.replicate 6 none = s.floor.held := table_ext fun k => by rw [h]; exact Vector.getElem_replicate _
  have hlive : (mapTable s.floor.live fun k y => match s.floor.held[k] with
      | some n => some (loadedSlot s n)
      | none => y) = s.floor.live := table_ext fun k => by rw [mapTable_get, h]
  rw [moveBack_eq, hmoved, returned, hheld]
  exact congrArg (fun v => { s with floor := { s.floor with live := v } }) hlive

/-- Among loaded slots, nothing is reported of the slot of an entry derived afresh: no SILENT_FLOOR condition is true there. -/
theorem startReports_loaded {s : State} (hs : Loaded s) (n : Fin 200) : s.startReports n = [] := by
  unfold State.startReports
  cases hn : s.floor.liveSlotOf n with
  | none => rfl
  | some k =>
    obtain ⟨x, hx, -⟩ := liveSlotOf_holds hn
    simp only [hx, LiveSlot.startReports, (hs.full k x hx).2, Bool.false_eq_true, and_false, if_false]

theorem derive_empty {s : State} {n : Fin 200} (hn : s.roster[n] = none) : derive n s = deriveSlot n s :=
  deriveHot_none (by rw [deriveSlot_roster, hn])

theorem derive_loaded_engine {s : State} (hs : Loaded s) (n : Fin 200) :
    (derive n s).engine = { s.engine with posted := s.engine.posted ++ s.hotReports n s.roster[n] } := by
  cases hn : s.roster[n] with
  | none => rw [derive_empty hn, deriveSlot_posted, startReports_loaded hs]; rfl
  | some e => rw [derive_engine hn, startReports_loaded hs, List.append_nil]; rfl

/-- Holders of loaded slots derived one after another, each once: what is reported of them, in their order. -/
theorem forList_derive_loaded_engine {l : List (Fin 200)} (hl : l.Nodup) {s : State} (hs : Loaded s) : (forList derive l s).engine =
    { s.engine with posted := s.engine.posted ++ l.flatMap fun n => s.hotReports n s.roster[n] } := by
  induction l generalizing s with
  | nil => rw [List.flatMap_nil, List.append_nil]; rfl
  | cons n l ih =>
    obtain ⟨hn, hl⟩ := List.nodup_cons.1 hl
    have hposts : (l.flatMap fun m => (derive n s).hotReports m (derive n s).roster[m]) = l.flatMap fun m => s.hotReports m s.roster[m] := by
      refine List.flatMap_congr fun m hm => ?_
      have hroster : (derive n s).roster[m] = s.roster[m] := (derive_floorActs n s).apart m fun e => hn (e ▸ hm)
      rw [hroster]
      cases s.roster[m] with
      | none => rfl
      | some e => simp only [State.hotReports, derive_hotTerms, (derive_floorStep n s).tuning]
    show (forList derive l (derive n s)).engine = _
    rw [ih hl (derive_keepsLoaded hs n), hposts, derive_loaded_engine hs, List.flatMap_cons, ← List.append_assoc]

/-- What a move back reports of one entry: nothing unless it holds a held slot (R106). -/
theorem moveBack_engine {s : State} (hempty : ∀ k : Fin 6, s.floor.live[k] = none)
    (honce : ∀ (j k : Fin 6) (n : Fin 200), s.floor.held[j] = some n → s.floor.held[k] = some n → j = k) : (moveBack s).engine =
      { s.engine with posted := s.engine.posted ++ (List.finRange 200).flatMap fun n =>
        if s.floor.heldSlotOf n = none then [] else (moveBack s).hotReports n s.roster[n] } := by
  have hstep : FloorStep (returned s) (moveBack s) := .forList (fun n t => derive_floorStep n t) _ _
  have hterms : ∀ n e, (moveBack s).hotTerms n e = (returned s).hotTerms n e :=
    hstep.hotTerms (moveBack_holdersStay s).live fun k => by rw [(moveBack_holdersStay s).held]
  have hreports : ∀ n y, (moveBack s).hotReports n y = (returned s).hotReports n y := fun n y => by
    cases y with
    | none => rfl
    | some e => simp only [State.hotReports, hterms, (moveBack_floorStep s).tuning]; rfl
  rw [flatMap_finRange_holders honce _ fun n hn => by rw [if_pos (heldSlotOf_none_iff.2 hn)], moveBack_eq, heldByHolder_eq,
    forList_derive_loaded_engine (holdersInOrder_nodup honce) (returned_loaded hempty honce), ← heldByHolder_eq, ← moveBack_eq]
  refine congrArg (fun l => { s.engine with posted := s.engine.posted ++ l }) (List.flatMap_congr fun n hn => ?_)
  obtain ⟨k, hk⟩ := mem_holdersInOrder.1 hn
  rw [hreports, if_neg fun h => heldSlotOf_none_iff.1 h k hk]
  rfl

theorem moveBackReports : Claims.MoveBackReports := by
  rintro s _ hs rfl
  by_cases hc : s.floor.cause = .none
  · have hheld := hs.heldEmpty hc
    have hslot : ∀ n, s.floor.heldSlotOf n = none := fun n => heldSlotOf_none_iff.2 fun k => by rw [hheld]; nofun
    rw [moveBack_of_heldEmpty hheld]
    refine ⟨fun k n hk => ?_, fun _ _ => rfl, fun m e he => ?_, ?_⟩
    · rw [hheld] at hk; cases hk
    · rw [if_pos (hslot m), he]
    · have hnil : ∀ l : List (Fin 200), (l.flatMap fun _ => ([] : List Posted)) = [] := fun l => by
        rw [List.flatMap_eq_nil_iff]; exact fun _ _ => rfl
      simp only [hslot, hnil, List.append_nil]
  · have hempty := hs.liveEmpty hc
    refine ⟨fun k n hk => ?_, fun k hk => ?_, fun m e he => ?_, ?_⟩
    · rw [moveBack_live hempty hs.heldOnce, hk, Option.map_some]
    · rw [moveBack_live hempty hs.heldOnce, hk, hempty, Option.map_none]
    · rw [moveBack_roster hempty hs.heldOnce, he, Option.map_some]; rfl
    · conv_lhs => rw [moveBack_engine hempty hs.heldOnce]
      refine congrArg (fun l => { s.engine with posted := s.engine.posted ++ l }) (List.flatMap_congr fun n _ => ?_)
      cases hn : s.floor.heldSlotOf n with
      | none => rfl
      | some k =>
        cases he : s.roster[n] with
        | none => rfl
        | some e =>
          have htuning := (moveBack_floorStep s).tuning
          cases hh : e.hot with
          | none => simp only [reduceCtorEq, if_false, State.hotReports, timerReports_eq, hh, htuning]
          | some x => simp only [reduceCtorEq, if_false, State.hotReports, timerReports_eq, hh, htuning]

/-- Settles O41: the slots by the tables the moves make, timers and reports by the loops over the holders in the order of the roster. -/
theorem floorMovesKeepSlots : Obligations.FloorMovesKeepSlots := ⟨movesKeepSlots, moveToHeldReports, moveBackReports⟩

end Sys2Proof.Machine
end

section
/-! PROOFS. The commands of the floor: GRANT_FLOOR, REVOKE_FLOOR and SET_FLOOR_CAPACITY (O42), and the mutes (O43). -/

namespace Sys2Proof.Machine

/-! ### GRANT_FLOOR -/

/-- A command that names an occupied entry alone acts on it as its body says. -/
theorem brings_onEntry {i : Instr} {b : Byte} {n : Fin 200} {e : Entry} {s s' : State} {len : Nat} {r : Reply}
    {f : State → Fin 200 → Entry → Handling} (hs : Ready s) (hi : exec i s = runCommand i (fun s => onEntry b len (f s) s) s)
    (hb : b.toNat = n.1) (he : s.roster[n] = some e) (h : f s n e = .acted s' r) : Brings i s s' r :=
  brings_of hs hi ((onEntry_occupied hb he len (f s)).trans h)

theorem onlyAnswers_onEntry {i : Instr} {b : Byte} {n : Fin 200} {e : Entry} {s : State} {len : Nat} {r : Reply}
    {f : State → Fin 200 → Entry → Handling} (hs : Ready s) (hi : exec i s = runCommand i (fun s => onEntry b len (f s) s) s)
    (hb : b.toNat = n.1) (he : s.roster[n] = some e) (h : f s n e = .answered s r) : OnlyAnswers i s r :=
  onlyAnswers_of hs hi ((onEntry_occupied hb he len (f s)).trans h)

section
variable {n : Fin 200} {s : State} (hm : s.mode = .session) (hc : s.floor.cause = .none) (hch : s.floor.chair ≠ some n)
include hm hc hch

/-- A grant to an entry that holds a live slot already is answered that slot (R96). -/
theorem grantBody_again {k : Fin 6} (hk : s.floor.liveSlotOf n = some k) : grantBody n s = .answered s (okReply [natByte k.1]) := by
  simp only [grantBody, hm, hc, hch, hk, ne_eq, not_true_eq_false, if_false]

theorem grantBody_full (hk : s.floor.liveSlotOf n = none) (hfull : s.floor.freeLiveSlot = none) :
    grantBody n s = refuse s .floorFull 1 := by
  simp only [grantBody, hm, hc, hch, hk, hfull, ne_eq, not_true_eq_false, if_false]

theorem grantBody_granted {k : Fin 6} (hk : s.floor.liveSlotOf n = none) (hfree : s.floor.freeLiveSlot = some k) :
    grantBody n s = .acted (grant n k s) (okReply [natByte k.1]) := by
  simp only [grantBody, hm, hc, hch, hk, hfree, ne_eq, not_true_eq_false, if_false]

end

theorem freeLiveSlot_none {f : Floor} (h : ∀ k : Fin 6, k.1 < f.capacity → f.live[k] ≠ none) : f.freeLiveSlot = none := by
  refine firstIndex_eq_none.2 fun k => ?_
  rw [Bool.and_eq_false_iff, decide_eq_false_iff_not, Option.isNone_eq_false_iff, Option.isSome_iff_ne_none]
  exact or_iff_not_imp_left.2 fun hk => h k (not_not.1 hk)

theorem freeLiveSlot_some {f : Floor} {k : Fin 6} (hk : k.1 < f.capacity) (hfree : f.live[k] = none)
    (hbelow : ∀ j : Fin 6, j < k → f.live[j] ≠ none) : f.freeLiveSlot = some k := by
  refine firstIndex_eq_some.2 ⟨?_, fun j hj => ?_⟩
  · rw [hfree, decide_eq_true hk]; rfl
  · rw [Option.isNone_eq_false_iff.2 (Option.isSome_iff_ne_none.2 (hbelow j hj)), Bool.and_false]

/-! ### REVOKE_FLOOR -/

theorem freeLive_none {n : Fin 200} {s : State} (h : s.floor.liveSlotOf n = none) : freeLive n s = s := by
  simp only [freeLive, h]

theorem freeLive_some {n : Fin 200} {s : State} {k : Fin 6} {x : LiveSlot} (hk : s.floor.liveSlotOf n = some k)
    (hx : s.floor.live[k] = some x) : freeLive n s =
      (s.setLive k none).postChange .floor (unitWarning n .silentFloor) x.expired false := by
  simp only [freeLive, hk, hx]

theorem freeHeld_none {n : Fin 200} {s : State} (h : s.floor.heldSlotOf n = none) : freeHeld n s = s := by
  simp only [freeHeld, h]

theorem freeHeld_some {n : Fin 200} {s : State} {k : Fin 6} (h : s.floor.heldSlotOf n = some k) : freeHeld n s = s.setHeld k none := by
  simp only [freeHeld, h]

theorem freeSlot_of_live {n : Fin 200} {s : State} {k : Fin 6} {x : LiveSlot} (hk : s.floor.liveSlotOf n = some k)
    (hx : s.floor.live[k] = some x) (hh : s.floor.heldSlotOf n = none) : freeSlot n s =
      (s.setLive k none).postChange .floor (unitWarning n .silentFloor) x.expired false := by
  rw [freeSlot, freeLive_some hk hx, freeHeld_none (by rw [State.postChange_floor]; exact hh)]

theorem freeSlot_of_held {n : Fin 200} {s : State} {k : Fin 6} (hk : s.floor.liveSlotOf n = none) (hh : s.floor.heldSlotOf n = some k) :
    freeSlot n s = s.setHeld k none := by
  rw [freeSlot, freeLive_none hk, freeHeld_some hh]

theorem revokeBody_of_slot {n : Fin 200} {s : State} (h : s.floor.liveSlotOf n ≠ none ∨ s.floor.heldSlotOf n ≠ none) :
    revokeBody n s = .acted (revoke n s) (okReply []) := by
  refine if_neg ?_
  rw [Bool.and_eq_true, Option.isNone_iff_eq_none, Option.isNone_iff_eq_none]
  exact fun ⟨hl, hh⟩ => h.elim (· hl) (· hh)

theorem floorIsGrantedAndRevoked : Claims.FloorIsGrantedAndRevoked := by
  intro b n e s hs hb he
  have hgrant : exec (.grantFloor b) s = runCommand (.grantFloor b) (fun s => onEntry b 1 (fun n _ => grantBody n s) s) s := rfl
  have hrevoke : exec (.revokeFloor b) s = runCommand (.revokeFloor b) (fun s => onEntry b 0 (fun n _ => revokeBody n s) s) s := rfl
  refine ⟨fun hm => onlyAnswers_onEntry hs hgrant hb he (if_pos hm),
    fun hm hc => onlyAnswers_onEntry hs hgrant hb he ((if_neg (not_not.2 hm)).trans (if_pos hc)),
    fun hm hc hch => onlyAnswers_onEntry hs hgrant hb he
      ((if_neg (not_not.2 hm)).trans ((if_neg (not_not.2 hc)).trans (if_pos hch))),
    fun hm hc hch => ⟨fun k hk => ?_, fun hk => ⟨fun hfull => ?_, fun k hlt hfree hbelow => ?_⟩⟩,
    fun hl hh => onlyAnswers_onEntry hs hrevoke hb he (if_pos ?_), fun k x hk hx hh => ?_, fun k hk hh => ?_⟩
  · exact onlyAnswers_onEntry hs hgrant hb he (grantBody_again hm hc hch hk)
  · exact onlyAnswers_onEntry hs hgrant hb he (grantBody_full hm hc hch hk (freeLiveSlot_none hfull))
  · exact brings_onEntry hs hgrant hb he (grantBody_granted hm hc hch hk (freeLiveSlot_some hlt hfree hbelow))
  · rw [hl, hh]; rfl
  · refine brings_onEntry hs hrevoke hb he ((revokeBody_of_slot (.inl (by rw [hk]; nofun))).trans ?_)
    rw [revoke, freeSlot_of_live hk hx hh]; rfl
  · refine brings_onEntry hs hrevoke hb he ((revokeBody_of_slot (.inr (by rw [hh]; nofun))).trans ?_)
    rw [revoke, freeSlot_of_held hk hh]; rfl

/-! ### SET_FLOOR_CAPACITY -/

theorem occupiedFrom_iff {f : Floor} {c : Nat} :
    f.occupiedFrom c = true ↔ ∃ k : Fin 6, c ≤ k.1 ∧ (f.live[k] ≠ none ∨ f.held[k] ≠ none) := by
  simp only [Floor.occupiedFrom, List.any_eq_true, List.mem_finRange, true_and, Bool.and_eq_true, decide_eq_true_eq, Bool.or_eq_true,
    Option.isSome_iff_ne_none]

theorem capacityIsClampedThenChecked : Claims.CapacityIsClampedThenChecked := by
  intro b s hs
  refine ⟨clampNat 1 6 b.toNat, rfl, fun hocc => ?_, fun hfree => ?_⟩
  · refine onlyAnswers_of hs (exec_setFloorCapacity b s) ?_
    rw [setFloorCapacityBody, if_pos (occupiedFrom_iff.2 hocc)]; rfl
  · have hno : ¬ s.floor.occupiedFrom (clampNat 1 6 b.toNat) = true := by
      rw [occupiedFrom_iff]
      rintro ⟨k, hk, hl | hh⟩
      · exact hl (hfree k hk).1
      · exact hh (hfree k hk).2
    refine brings_of hs (exec_setFloorCapacity b s) ?_
    rw [setFloorCapacityBody, if_neg hno, storedReply]
    by_cases h : clampNat 1 6 b.toNat = b.toNat <;> simp [h]

/-- Settles O42: the checks of the three commands in their order, and the slot each of them takes or frees. -/
theorem floorIsGrantedRevokedAndSized : Obligations.FloorIsGrantedRevokedAndSized :=
  ⟨floorIsGrantedAndRevoked, capacityIsClampedThenChecked⟩

/-! ### MUTE and UNMUTE -/

theorem setMuted_none {v : Bool} {n : Fin 200} {s : State} (he : s.roster[n] = none) : setMuted v n s = s := by
  simp only [setMuted, he]

theorem setMuted_some {v : Bool} {n : Fin 200} {s : State} {e : Entry} (he : s.roster[n] = some e) :
    setMuted v n s = if e.muted = v then s else derive n (s.setSlot n (some { e with muted := v })) := by
  simp only [setMuted, he]

theorem entryIsMuted : Claims.EntryIsMuted := by
  intro b n e s hs hb he
  have hmute : exec (.mute b) s = runCommand (.mute b) (fun s => onEntry b 0 (fun n _ => muteBody true n s) s) s := rfl
  have hunmute : exec (.unmute b) s = runCommand (.unmute b) (fun s => onEntry b 0 (fun n _ => muteBody false n s) s) s := rfl
  refine ⟨fun hc => ⟨onlyAnswers_onEntry hs hmute hb he (if_pos hc), onlyAnswers_onEntry hs hunmute hb he (if_pos hc)⟩,
    fun hc => ⟨brings_onEntry hs hmute hb he ((if_neg hc).trans ?_), brings_onEntry hs hunmute hb he ((if_neg hc).trans ?_)⟩⟩
  · rw [setMuted_some he]; rfl
  · rw [setMuted_some he]
    cases hm : e.muted <;> rfl

/-! ### MUTE_ALL and UNMUTE_ALL -/

/-- All that the mutes can do to a state beside the roster: live slots and posted acts. -/
structure MuteStep (s t : State) : Prop where
  rest : t = { s with roster := t.roster, floor := t.floor, engine := t.engine }
  floor : t.floor = { s.floor with live := t.floor.live }

theorem MuteStep.refl (s : State) : MuteStep s s := ⟨rfl, rfl⟩

theorem MuteStep.trans {s t u : State} (h₁ : MuteStep s t) (h₂ : MuteStep t u) : MuteStep s u where
  rest := by rw [h₂.rest, h₁.rest]
  floor := by rw [h₂.floor, h₁.floor]

theorem derive_muteStep (n : Fin 200) (s : State) : MuteStep s (derive n s) where
  rest := (derive_floorStep n s).rest
  floor := by conv_lhs => rw [(derive_floorStep n s).floor, derive_held, derive_cause]

theorem setMuted_muteStep (v : Bool) (n : Fin 200) (s : State) : MuteStep s (setMuted v n s) := by
  cases he : s.roster[n] with
  | none => rw [setMuted_none he]; exact .refl s
  | some e =>
    rw [setMuted_some he]
    split
    · exact .refl s
    · exact MuteStep.trans (t := s.setSlot n _) ⟨rfl, rfl⟩ (derive_muteStep n _)

/-- One entry muted or unmuted: every other as it was, and of its own fields the flag and the hot-mic timer alone change (R98). -/
theorem setMuted_roster (v : Bool) (n m : Fin 200) (s : State) : ∃ h : Entry → Option HotTimer, (setMuted v n s).roster[m] =
    s.roster[m].map fun e => if m = n then { e with muted := v, hot := h e } else e := by
  cases he : s.roster[n] with
  | none =>
    rw [setMuted_none he]
    refine ⟨fun _ => none, ?_⟩
    by_cases h : m = n
    · subst h; rw [he]; rfl
    · simp only [if_neg h, Option.map_id']
  | some e =>
    rw [setMuted_some he]
    by_cases hv : e.muted = v
    · rw [if_pos hv]
      refine ⟨fun e => e.hot, ?_⟩
      by_cases h : m = n
      · subst h; simp only [he, Option.map_some, if_true, ← hv]
      · simp only [if_neg h, Option.map_id']
    · rw [if_neg hv]
      refine ⟨fun f => timerDerived ((s.setSlot n (some { e with muted := v })).hotTerms n { f with muted := v }) s.tuning.hotDelay f.hot, ?_⟩
      rw [derive_roster, State.setSlot_roster, setAt_get]
      by_cases h : m = n
      · subst h; simp only [if_true, he, Option.map_some]; rfl
      · simp only [if_neg h, if_neg (Ne.symm h)]

/-- One turn of MUTE_ALL or UNMUTE_ALL: the chair is passed by (R99). -/
def muteTurn (v : Bool) (n : Fin 200) (s : State) : State := if s.floor.chair = some n then s else setMuted v n s

theorem setAllMuted_eq (v : Bool) (s : State) : setAllMuted v s = forList (muteTurn v) (List.finRange 200) s := rfl

theorem muteTurn_muteStep (v : Bool) (n : Fin 200) (s : State) : MuteStep s (muteTurn v n s) := by
  unfold muteTurn
  split
  · exact .refl s
  · exact setMuted_muteStep v n s

theorem MuteStep.chair {s t : State} (h : MuteStep s t) : t.floor.chair = s.floor.chair := by rw [h.floor]

theorem muteTurns_muteStep (v : Bool) (l : List (Fin 200)) (s : State) : MuteStep s (forList (muteTurn v) l s) :=
  forList_induct (P := MuteStep s) l s (.refl s) fun n _ _ h => h.trans (muteTurn_muteStep v n _)

/-- The entries after the turns of a list: each of the list but the chair has the flag, and no other field but the timer changes. -/
theorem muteTurns_roster (v : Bool) (l : List (Fin 200)) (s : State) (m : Fin 200) : ∃ h : Entry → Option HotTimer,
    (forList (muteTurn v) l s).roster[m] = s.roster[m].map fun e =>
      { e with muted := if m ∈ l ∧ s.floor.chair ≠ some m then v else e.muted, hot := h e } := by
  induction l generalizing s with
  | nil =>
    refine ⟨fun e => e.hot, ?_⟩
    simp only [List.not_mem_nil, false_and, if_false, Option.map_id']
    rfl
  | cons n l ih =>
    obtain ⟨h, hh⟩ := ih (muteTurn v n s)
    have hchair := (muteTurn_muteStep v n s).chair
    show ∃ h, (forList (muteTurn v) l (muteTurn v n s)).roster[m] = _
    rw [hh, hchair]
    unfold muteTurn
    by_cases hc : s.floor.chair = some n
    · refine ⟨h, ?_⟩
      rw [if_pos hc]
      refine congrArg (fun f => s.roster[m].map f) (funext fun e => ?_)
      by_cases hm : m = n
      · subst hm; simp only [hc, ne_eq, not_true_eq_false, and_false]
      · simp only [List.mem_cons, hm, false_or]
    · obtain ⟨g, hg⟩ := setMuted_roster v n m s
      rw [if_neg hc, hg, Option.map_map]
      by_cases hm : m = n
      · subst hm
        refine ⟨fun e => h { e with muted := v, hot := g e }, congrArg (fun f => s.roster[m].map f) (funext fun e => ?_)⟩
        simp only [Function.comp, if_true, List.mem_cons, true_or, ne_eq, hc, not_false_eq_true, and_self, and_true, ite_self]
      · refine ⟨h, congrArg (fun f => s.roster[m].map f) (funext fun e => ?_)⟩
        simp only [Function.comp, List.mem_cons, hm, false_or, if_false]

/-- Two loops whose turns agree wherever an invariant holds that the first keeps. -/
theorem foldl_eq_of_invariant {α : Type} {f g : State → α → State} {P : State → Prop} (l : List α) {s : State} (hs : P s)
    (h : ∀ u a, P u → P (f u a) ∧ f u a = g u a) : l.foldl f s = l.foldl g s := by
  induction l generalizing s with
  | nil => rfl
  | cons a l ih => rw [List.foldl_cons, List.foldl_cons, ih (h s a hs).1, (h s a hs).2]

theorem allAreMuted : Claims.AllAreMuted := by
  intro i v s hs hi
  have hexec : exec i s = runCommand i (fun s => .acted (setAllMuted v s) (okReply [])) s := by
    rcases hi with ⟨rfl, rfl⟩ | ⟨rfl, rfl⟩ <;> rfl
  have hbrings : Brings i s (setAllMuted v s) ⟨.ok, []⟩ := brings_of hs hexec rfl
  have hstep := muteTurns_muteStep v (List.finRange 200) s
  rw [← setAllMuted_eq] at hstep
  have hmode : ModeStep s (setAllMuted v s) := by
    refine hstep.rest.trans ?_
    rw [hstep.rest]
  have hframe := complete_modeStep hmode i ⟨.ok, []⟩
  have h1 : (setAllMuted v s).mode = s.mode := by rw [hstep.rest]
  have h2 : (setAllMuted v s).clockRunning = s.clockRunning := by rw [hstep.rest]
  have h3 : (setAllMuted v s).combiner = s.combiner := by rw [hstep.rest]
  rw [h1, h2, h3] at hframe
  refine ⟨?_, _, hbrings, fun n hn => ?_, fun n e he => ?_, ?_⟩
  · refine Eq.mp (congrArg (fun u => Brings i s u ⟨.ok, []⟩) ?_) hbrings
    rw [setAllMuted_eq, forList]
    refine foldl_eq_of_invariant (P := fun u => u.floor.chair = s.floor.chair) _ rfl fun u n hu =>
      ⟨(muteTurn_muteStep v n u).chair.trans hu, ?_⟩
    rw [muteTurn, hu]
    cases he : u.roster[n] with
    | none => rw [setMuted_none he, ite_self]
    | some e =>
      rw [setMuted_some he]
      by_cases hc : s.floor.chair = some n <;> by_cases hv : e.muted = v <;> simp only [hc, hv, true_or, or_true, or_self, if_true, if_false]
  · obtain ⟨h, hh⟩ := muteTurns_roster v (List.finRange 200) s n
    rw [complete_roster, finish_roster, setAllMuted_eq, hh, hn]; rfl
  · obtain ⟨h, hh⟩ := muteTurns_roster v (List.finRange 200) s n
    refine ⟨h e, ?_⟩
    rw [complete_roster, finish_roster, setAllMuted_eq, hh, he]
    simp only [Option.map_some, List.mem_finRange, true_and, ne_eq, ite_not]
  · simp only [complete_roster, complete_floor, complete_engine, complete_choice, complete_lines, finish_roster, finish_floor]
    rw [← hstep.floor]
    exact hframe

/-- Settles O43: one entry by the check of the chair and the flag; all entries by what one turn of the loop leaves. -/
theorem mutesAreSetAndCleared : Obligations.MutesAreSetAndCleared := ⟨entryIsMuted, allAreMuted⟩

end Sys2Proof.Machine
end

section
/-! PROOFS. The timers of the floor and the silence key (O45): the silent expiry, the hot delay, and the debounce of SILENCE_N. -/

namespace Sys2Proof.Machine

/-! ### The timers -/

theorem postChange_true (s : State) (b : Block) (id : WarnId) : s.postChange b id false true = s.post b (.report id true) := rfl

theorem postChange_false (s : State) (b : Block) (id : WarnId) : s.postChange b id true false = s.post b (.report id false) := rfl

/-- The expiry of a silent timer reports SILENT_FLOOR (R104). -/
theorem silentExpires_reports {s : State} {k : Fin 6} {x : LiveSlot} (hx : s.floor.live[k] = some x) (hexp : x.expired = false)
    (hauto : s.tuning.autoRevoke = false) : silentExpires k s =
      (s.setLive k (some { x with expired := true })).post .floor (.report ⟨.entry x.holder, .silentFloor⟩ true) := by
  simp only [silentExpires, hx, hexp, postChange_true, State.post_tuning, State.setLive_tuning, hauto, Bool.false_eq_true, if_false]
  rfl

/-- Under auto-revoke it frees the slot as well (R104). -/
theorem silentExpires_revokes {s : State} {k : Fin 6} {x : LiveSlot} (hx : s.floor.live[k] = some x) (hexp : x.expired = false)
    (hauto : s.tuning.autoRevoke = true) (hk : s.floor.liveSlotOf x.holder = some k) (hh : s.floor.heldSlotOf x.holder = none) :
    silentExpires k s = derive x.holder (((s.setLive k none).post .floor (.report ⟨.entry x.holder, .silentFloor⟩ true)).post .floor
      (.report ⟨.entry x.holder, .silentFloor⟩ false)) := by
  generalize hu : (s.setLive k (some { x with expired := true })).post .floor (.report (unitWarning x.holder .silentFloor) true) = u
  have hlive : u.floor.live[k] = some { x with expired := true } := by rw [← hu]; exact setAt_get_same _ _ _
  have hholder : ∀ j : Fin 6, u.floor.liveHolder j = s.floor.liveHolder j := fun j => by
    rw [← hu]
    show ((setAt s.floor.live k (some { x with expired := true }))[j]).map _ = _
    rw [setAt_get]
    by_cases e : k = j
    · subst e; rw [if_pos rfl, Floor.liveHolder, hx]; rfl
    · rw [if_neg e]; rfl
  have hslot : u.floor.liveSlotOf x.holder = some k := by
    rw [← hk]; unfold Floor.liveSlotOf; simp only [hholder]
  have hfree := freeSlot_of_live (s := u) hslot hlive (by rw [← hu]; exact hh)
  have hrun : silentExpires k s = derive x.holder (freeSlot x.holder u) := by
    have hauto' : u.tuning.autoRevoke = true := by rw [← hu]; exact hauto
    simp only [silentExpires, hx, hexp, postChange_true, hu, hauto', if_true]
  rw [hrun, hfree, postChange_false, ← hu]
  simp only [State.setLive, State.post, setAt_setAt]
  rfl

theorem hotReached_reports {s : State} {n : Fin 200} {e : Entry} {h : HotTimer} (he : s.roster[n] = some e) (hh : e.hot = some h)
    (hr : h.reached = false) : hotReached n s =
      (s.setSlot n (some { e with hot := some { h with reached := true } })).post .floor (.report ⟨.entry n, .hotMic⟩ true) := by
  simp only [hotReached, he, hh, hr]
  rfl

theorem silentDue_of {x : LiveSlot} (hs : x.speaking = false) (ht : x.timer = 0) (he : x.expired = false) : silentDue (some x) = true := by
  simp only [silentDue, hs, ht, he]; rfl

theorem floorTimersReport : Claims.FloorTimersReport := by
  intro s hs
  have hrun := running_of_ticking hs
  refine ⟨fun k x hx hspeak htime hexp => ?_, fun n e h he hh hr hle => ?_⟩
  · have hdue : (s.running && silentDue s.floor.live[k]) = true := by rw [hrun, hx, silentDue_of hspeak htime hexp]; rfl
    rw [exec_silentExpiry, occur_due hs.1 hdue]
    exact ⟨fun hauto => by rw [silentExpires_reports hx hexp hauto], fun hauto hk hh => by
      rw [silentExpires_revokes hx hexp hauto hk hh]⟩
  · have hdue : (s.running && hotDue s.tuning.hotDelay s.roster[n]) = true := by
      rw [hrun, he, (hotDue_iff _ _).2 ⟨e, h, rfl, hh, hle, hr⟩]; rfl
    rw [exec_hotDelayReached, occur_due hs.1 hdue, hotReached_reports he hh hr]

/-! ### The silence key -/

theorem withPin_eq (f : Floor) (high : Bool) :
    f.withPin high = { f with pinHigh := high, stability := if high = f.asserted then f.stability else 0 } := by
  unfold Floor.withPin Floor.opposite
  by_cases h : high = f.asserted <;> simp [h]

theorem debounceDue_of {f : Floor} (hpin : f.pinHigh = f.asserted) (hst : 20 ≤ f.stability) : f.debounceDue = true := by
  rw [Floor.debounceDue, Floor.opposite, hpin, beq_self_eq_true, Bool.true_and]
  exact decide_eq_true hst

theorem debounceExpires_asserted {s : State} (h : s.floor.asserted = false) :
    debounceExpires s = silenceAsserted { s with floor := { s.floor with asserted := true, stability := 0 } } := by
  simp only [debounceExpires, h, Bool.not_false, if_true]

theorem debounceExpires_released {s : State} (h : s.floor.asserted = true) :
    debounceExpires s = silenceReleased { s with floor := { s.floor with asserted := false, stability := 0 } } := by
  simp only [debounceExpires, h, Bool.not_true, Bool.false_eq_true, if_false]

theorem silenceAsserted_none {s : State} (h : s.floor.cause = .none) : silenceAsserted s = (moveToHeld s).setCause .silence := by
  simp only [silenceAsserted, h]

theorem silenceAsserted_held {s : State} (h : s.floor.cause ≠ .none) : silenceAsserted s = s.setCause .silence := by
  unfold silenceAsserted
  split
  · exact absurd ‹_› h
  · rfl
  · rfl

theorem silenceKeyHoldsTheFloor : Claims.SilenceKeyHoldsTheFloor := by
  intro s hs
  have hrun := running_of_ticking hs
  have hexec : s.floor.debounceDue = true → exec .silenceDebounceExpiry s = .next (finish (debounceExpires s)) := fun hdue => by
    rw [exec_silenceDebounceExpiry]
    exact occur_due hs.1 (by rw [hrun, hdue]; rfl) debounceExpires
  refine ⟨fun high => ?_, fun hpin hass hst s' hs' => ?_, fun hpin hass hst s' hs' => ?_⟩
  · rw [exec_silenceInputChange, if_pos hrun, withPin_eq]
  · rw [hexec (debounceDue_of (hpin.trans hass.symm) hst), debounceExpires_asserted hass, ← hs']
    have hcause : s'.floor.cause = s.floor.cause := by rw [hs']
    exact ⟨fun hc => by rw [silenceAsserted_none (hcause.trans hc)], fun hc => by rw [silenceAsserted_held (hcause ▸ hc)]⟩
  · rw [hexec (debounceDue_of (hpin.trans hass.symm) hst), debounceExpires_released hass, ← hs', silenceReleased]
    have hclaim : (s'.chairKeyOn && s'.tuning.priority) = (s.chairKeyOn && s.tuning.priority) := by rw [hs']; rfl
    rw [hclaim]
    refine ⟨fun hk hp => by rw [hk, hp]; rfl, fun h => ?_⟩
    have hno : (s.chairKeyOn && s.tuning.priority) = false := Bool.and_eq_false_iff.2 h
    rw [hno]; rfl

theorem stoppedClockHoldsTheDebounce : Claims.StoppedClockHoldsTheDebounce := by
  intro s high _ hclock
  have hrun : s.running ≠ true := by rw [State.running, hclock]; nofun
  rw [exec_silenceInputChange, if_neg hrun]

/-- Settles O45: the timers' rows by what an expiry posts, the key's by the debounced level and the cause that it finds. -/
theorem floorTimersAndSilenceKeyAct : Obligations.FloorTimersAndSilenceKeyAct :=
  ⟨floorTimersReport, silenceKeyHoldsTheFloor, stoppedClockHoldsTheDebounce⟩

end Sys2Proof.Machine
end

section
/-! PROOFS. The laws of the floor, table by table of slots; what the floor arbiter derives of one entry; and that each operation of the
arbiter keeps both. -/

namespace Sys2Proof.Machine

/-! ### One collection of slots -/

/-- The laws of one collection of slots, by its table of holders (R94, R95, R102). -/
structure HoldersLaw (s : State) (v : Fin 6 → Option (Fin 200)) : Prop where
  below : ∀ (k : Fin 6) (n : Fin 200), v k = some n → k.1 < s.floor.capacity
  once : ∀ (j k : Fin 6) (n : Fin 200), v j = some n → v k = some n → j = k
  enrolled : ∀ (k : Fin 6) (n : Fin 200), v k = some n → s.roster[n].isSome
  apart : ∀ (k : Fin 6) (n : Fin 200), v k = some n → s.floor.chair ≠ some n

theorem HoldersLaw.of_empty {s : State} {v : Fin 6 → Option (Fin 200)} (h : ∀ k, v k = none) : HoldersLaw s v where
  below k n hk := by rw [h] at hk; cases hk
  once j k n hj _ := by rw [h] at hj; cases hj
  enrolled k n hk := by rw [h] at hk; cases hk
  apart k n hk := by rw [h] at hk; cases hk

/-- A collection that gains no holder keeps its laws. -/
theorem HoldersLaw.carry {s t : State} {v w : Fin 6 → Option (Fin 200)} (h : HoldersLaw s v)
    (hv : ∀ (k : Fin 6) (n : Fin 200), w k = some n → v k = some n) (hcap : t.floor.capacity = s.floor.capacity)
    (hroster : ∀ (k : Fin 6) (n : Fin 200), w k = some n → s.roster[n].isSome → t.roster[n].isSome)
    (hchair : ∀ (k : Fin 6) (n : Fin 200), w k = some n → t.floor.chair = some n → s.floor.chair = some n) : HoldersLaw t w where
  below k n hk := hcap ▸ h.below k n (hv k n hk)
  once j k n hj hk := h.once j k n (hv j n hj) (hv k n hk)
  enrolled k n hk := hroster k n hk (h.enrolled k n (hv k n hk))
  apart k n hk hc := h.apart k n (hv k n hk) (hchair k n hk hc)

/-- A collection keeps its laws under another designation, if it holds no slot. -/
theorem HoldersLaw.carry_chair {s : State} {v : Fin 6 → Option (Fin 200)} {c : Option (Fin 200)} (h : HoldersLaw s v)
    (hc : ∀ (k : Fin 6) (n : Fin 200), v k = some n → c ≠ some n) : HoldersLaw { s with floor := { s.floor with chair := c } } v :=
  ⟨h.below, h.once, h.enrolled, hc⟩

theorem FloorLaw.liveLaw {s : State} (hs : FloorLaw s) : HoldersLaw s s.floor.liveHolder where
  below k n hk := by
    obtain ⟨x, hx, -⟩ := liveHolder_eq_some.1 hk
    exact hs.liveBelow k x hx
  once := hs.liveHolder_once
  enrolled k n hk := by
    obtain ⟨x, hx, rfl⟩ := liveHolder_eq_some.1 hk
    exact hs.liveEnrolled k x hx
  apart k n hk := by
    obtain ⟨x, hx, rfl⟩ := liveHolder_eq_some.1 hk
    exact hs.chairLive k x hx

theorem FloorLaw.heldLaw {s : State} (hs : FloorLaw s) : HoldersLaw s fun k => s.floor.held[k] :=
  ⟨hs.heldBelow, hs.heldOnce, hs.heldEnrolled, hs.chairHeld⟩

theorem FloorLaw.liveHolder_empty {s : State} (hs : FloorLaw s) (hc : s.floor.cause ≠ .none) (k : Fin 6) : s.floor.liveHolder k = none :=
  live_none_iff.2 (hs.liveEmpty hc k)

/-- The laws of the floor, by the laws of its two collections and of what bears on them. -/
theorem FloorLaw.of_holders {s : State} (capacity : 1 ≤ s.floor.capacity ∧ s.floor.capacity ≤ 6)
    (live : HoldersLaw s s.floor.liveHolder) (held : HoldersLaw s fun k => s.floor.held[k])
    (heldEmpty : s.floor.cause = .none → ∀ k : Fin 6, s.floor.held[k] = none)
    (liveEmpty : s.floor.cause ≠ .none → ∀ k : Fin 6, s.floor.liveHolder k = none)
    (chair : ∀ n : Fin 200, s.floor.chair = some n → s.roster[n].isSome)
    (sitting : s.mode ≠ .session → ∀ k : Fin 6, s.floor.liveHolder k = none ∧ s.floor.held[k] = none)
    (silence : s.floor.asserted = true ↔ s.floor.cause = .silence) : FloorLaw s where
  capacity := capacity
  liveBelow k x hx := live.below k x.holder (liveHolder_eq_some.2 ⟨x, hx, rfl⟩)
  heldBelow := held.below
  liveOnce j k x y hx hy h := live.once j k y.holder (liveHolder_eq_some.2 ⟨x, hx, h⟩) (liveHolder_eq_some.2 ⟨y, hy, rfl⟩)
  heldOnce := held.once
  heldEmpty := heldEmpty
  liveEmpty hc k := live_none_iff.1 (liveEmpty hc k)
  liveEnrolled k x hx := live.enrolled k x.holder (liveHolder_eq_some.2 ⟨x, hx, rfl⟩)
  heldEnrolled := held.enrolled
  chairEnrolled := chair
  chairLive k x hx := live.apart k x.holder (liveHolder_eq_some.2 ⟨x, hx, rfl⟩)
  chairHeld := held.apart
  sitting hm k := ⟨live_none_iff.1 (sitting hm k).1, (sitting hm k).2⟩
  silence := silence

/-- An empty floor with no hold of the chair keeps its laws. -/
theorem FloorLaw.of_empty {s : State} (capacity : 1 ≤ s.floor.capacity ∧ s.floor.capacity ≤ 6) (hempty : FloorEmpty s.floor)
    (chair : ∀ n : Fin 200, s.floor.chair = some n → s.roster[n].isSome)
    (silence : s.floor.asserted = true ↔ s.floor.cause = .silence) : FloorLaw s :=
  have hlive := fun k => live_none_iff.2 (hempty.live k)
  .of_holders capacity (.of_empty hlive) (.of_empty hempty.held) (fun _ => hempty.held) (fun _ => hlive) chair
    (fun _ k => ⟨hlive k, hempty.held k⟩) silence

/-! ### Steps in which no slot gains a holder -/

/-- A step that gives no slot a holder, and leaves capacity, designation, cause and key; no entry and no sitting comes to an end. -/
structure SlotsShrink (s t : State) : Prop where
  capacity : t.floor.capacity = s.floor.capacity
  chair : t.floor.chair = s.floor.chair
  cause : t.floor.cause = s.floor.cause
  asserted : t.floor.asserted = s.floor.asserted
  live : ∀ (k : Fin 6) (n : Fin 200), t.floor.liveHolder k = some n → s.floor.liveHolder k = some n
  held : ∀ (k : Fin 6) (n : Fin 200), t.floor.held[k] = some n → s.floor.held[k] = some n
  roster : ∀ n : Fin 200, s.roster[n].isSome → t.roster[n].isSome
  mode : s.mode = .session → t.mode = .session

theorem none_of_shrink {a b : Option (Fin 200)} (h : ∀ n, b = some n → a = some n) (ha : a = none) : b = none := by
  cases b with
  | none => rfl
  | some n => rw [h n rfl] at ha; cases ha

theorem SlotsShrink.floorLaw {s t : State} (h : SlotsShrink s t) (hs : FloorLaw s) : FloorLaw t := by
  have hchair : ∀ n : Fin 200, t.floor.chair = some n → s.floor.chair = some n := fun n hn => h.chair ▸ hn
  refine .of_holders (by rw [h.capacity]; exact hs.capacity)
    (hs.liveLaw.carry h.live h.capacity (fun _ n _ => h.roster n) fun _ n _ => hchair n)
    (hs.heldLaw.carry h.held h.capacity (fun _ n _ => h.roster n) fun _ n _ => hchair n) (fun hc k => ?_) (fun hc k => ?_)
    (fun n hn => h.roster n (hs.chairEnrolled n (hchair n hn))) (fun hm k => ?_) (by rw [h.asserted, h.cause]; exact hs.silence)
  · exact none_of_shrink (h.held k) (hs.heldEmpty (h.cause ▸ hc) k)
  · exact none_of_shrink (h.live k) (hs.liveHolder_empty (h.cause ▸ hc) k)
  · obtain ⟨hl, hh⟩ := hs.sitting (fun e => hm (h.mode e)) k
    exact ⟨none_of_shrink (h.live k) (live_none_iff.2 hl), none_of_shrink (h.held k) hh⟩

theorem FloorStep.occupied {s t : State} (h : FloorStep s t) (n : Fin 200) (hn : s.roster[n].isSome) : t.roster[n].isSome := by
  rw [Option.isSome_iff_ne_none] at hn ⊢
  exact fun e => hn (h.empty.1 e)

/-- An operation of the floor arbiter that frees slots or leaves them. -/
theorem FloorStep.slotsShrink {s t : State} (h : FloorStep s t) (cause : t.floor.cause = s.floor.cause)
    (live : ∀ (k : Fin 6) (n : Fin 200), t.floor.liveHolder k = some n → s.floor.liveHolder k = some n)
    (held : ∀ (k : Fin 6) (n : Fin 200), t.floor.held[k] = some n → s.floor.held[k] = some n) : SlotsShrink s t :=
  ⟨h.capacity, h.chair, cause, h.asserted, live, held, h.occupied, fun e => h.mode.trans e⟩

theorem HoldersStay.slotsShrink {s t : State} (h : HoldersStay s t) (hstep : FloorStep s t) : SlotsShrink s t :=
  hstep.slotsShrink h.cause (fun k n hk => h.live k ▸ hk) fun k n hk => by rw [← h.held]; exact hk

/-! ### What is derived of one entry -/

/-- The holder of a live slot, with whether it was speaking when that was last derived. -/
def Floor.liveView (f : Floor) (k : Fin 6) : Option (Fin 200 × Bool) := f.live[k].map fun x => (x.holder, x.speaking)

theorem liveView_eq_some {f : Floor} {k : Fin 6} {n : Fin 200} {b : Bool} :
    f.liveView k = some (n, b) ↔ ∃ x : LiveSlot, f.live[k] = some x ∧ x.holder = n ∧ x.speaking = b := by
  simp only [Floor.liveView, Option.map_eq_some_iff, Prod.mk.injEq]

theorem liveHolder_eq_some_iff_view {f : Floor} {k : Fin 6} {n : Fin 200} :
    f.liveHolder k = some n ↔ ∃ b : Bool, f.liveView k = some (n, b) := by
  rw [liveHolder_eq_some]
  simp only [liveView_eq_some]
  exact ⟨fun ⟨x, hx, hn⟩ => ⟨x.speaking, x, hx, hn, rfl⟩, fun ⟨_, x, hx, hn, _⟩ => ⟨x, hx, hn⟩⟩

theorem liveSlotOf_isSome {f : Floor} {n : Fin 200} : (f.liveSlotOf n).isSome ↔ ∃ k, f.liveHolder k = some n := by
  rw [Option.isSome_iff_ne_none, Ne, liveSlotOf_eq_none]
  push Not; rfl

theorem timerDerived_isSome (runs : Bool) (d : Nat) (h : Option HotTimer) : (timerDerived runs d h).isSome = runs := by
  cases runs <;> rfl

/-- What is stored of an entry agrees with what is derived: speaking in its live slots, and its hot-mic timer (R100, R106). -/
structure DerivedAt (n : Fin 200) (s : State) : Prop where
  live : ∀ (k : Fin 6) (b : Bool), s.floor.liveView k = some (n, b) → b = s.speaking n
  hot : ∀ e : Entry, s.roster[n] = some e → e.hot.isSome = s.hotTerms n e

theorem speakingLaw_iff {s : State} : SpeakingLaw s ↔ ∀ n, DerivedAt n s := by
  refine ⟨fun h n => ⟨fun k b hk => ?_, h.hot n⟩, fun h => ⟨fun k x hx => ?_, fun n => (h n).hot⟩⟩
  · obtain ⟨x, hx, rfl, rfl⟩ := liveView_eq_some.1 hk
    exact h.live k x hx
  · exact (h x.holder).live k x.speaking (liveView_eq_some.2 ⟨x, hx, rfl, rfl⟩)

/-- What the floor arbiter reads of an entry. -/
def Entry.floorFields (e : Entry) : Bool × Bool × Bool := (e.keyOn, e.muted, e.hot.isSome)

/-- Two states in which the floor arbiter reads the same of an entry. -/
structure SameFor (n : Fin 200) (s t : State) : Prop where
  mode : (t.mode == .session) = (s.mode == .session)
  chair : t.floor.chair = some n ↔ s.floor.chair = some n
  held : ∀ k : Fin 6, t.floor.held[k] = some n ↔ s.floor.held[k] = some n
  live : ∀ (k : Fin 6) (b : Bool), t.floor.liveView k = some (n, b) ↔ s.floor.liveView k = some (n, b)
  entry : t.roster[n].map Entry.floorFields = s.roster[n].map Entry.floorFields

theorem SameFor.refl (n : Fin 200) (s : State) : SameFor n s s := ⟨rfl, .rfl, fun _ => .rfl, fun _ _ => .rfl, rfl⟩

theorem SameFor.trans {n : Fin 200} {s t u : State} (h₁ : SameFor n s t) (h₂ : SameFor n t u) : SameFor n s u where
  mode := h₂.mode.trans h₁.mode
  chair := h₂.chair.trans h₁.chair
  held k := (h₂.held k).trans (h₁.held k)
  live k b := (h₂.live k b).trans (h₁.live k b)
  entry := h₂.entry.trans h₁.entry

section
variable {n : Fin 200} {s t : State} (h : SameFor n s t)
include h

theorem SameFor.liveSlotOf : (t.floor.liveSlotOf n).isSome = (s.floor.liveSlotOf n).isSome := by
  rw [Bool.eq_iff_iff, liveSlotOf_isSome, liveSlotOf_isSome]
  simp only [liveHolder_eq_some_iff_view, h.live]

theorem SameFor.heldSlotOf : (t.floor.heldSlotOf n).isNone = (s.floor.heldSlotOf n).isNone := by
  rw [Bool.eq_iff_iff, Option.isNone_iff_eq_none, Option.isNone_iff_eq_none, heldSlotOf_none_iff, heldSlotOf_none_iff]
  exact forall_congr' fun k => not_congr (h.held k)

theorem SameFor.fields {f : Entry} (hf : t.roster[n] = some f) : ∃ e : Entry, s.roster[n] = some e ∧ f.keyOn = e.keyOn ∧
    f.muted = e.muted ∧ f.hot.isSome = e.hot.isSome := by
  have hentry := h.entry
  rw [hf, Option.map_some, eq_comm, Option.map_eq_some_iff] at hentry
  obtain ⟨e, he, heq⟩ := hentry
  simp only [Entry.floorFields, Prod.mk.injEq] at heq
  obtain ⟨hk, hm, hh⟩ := heq
  exact ⟨e, he, hk.symm, hm.symm, hh.symm⟩

theorem SameFor.speaking : t.speaking n = s.speaking n := by
  unfold State.speaking
  cases hf : t.roster[n] with
  | none =>
    have hentry := h.entry
    rw [hf, Option.map_none, eq_comm, Option.map_eq_none_iff] at hentry
    rw [hentry]
  | some f =>
    obtain ⟨e, he, hk, hm, -⟩ := h.fields hf
    simp only [he, hk, hm, h.liveSlotOf, h.mode]

theorem SameFor.hotTerms {e f : Entry} (hk : f.keyOn = e.keyOn) : t.hotTerms n f = s.hotTerms n e := by
  have hchair : (t.floor.chair != some n) = (s.floor.chair != some n) := by
    rw [Bool.eq_iff_iff, bne_iff_ne, bne_iff_ne]
    exact not_congr h.chair
  unfold State.hotTerms
  rw [hk, h.mode, hchair, h.speaking, h.heldSlotOf]

/-- What agrees with what is derived goes on agreeing where the arbiter reads the same. -/
theorem SameFor.derivedAt (hs : DerivedAt n s) : DerivedAt n t where
  live k b hk := by rw [h.speaking]; exact hs.live k b ((h.live k b).1 hk)
  hot f hf := by
    obtain ⟨e, he, hk, -, hh⟩ := h.fields hf
    rw [hh, h.hotTerms hk, hs.hot e he]

end

/-- What leaves floor and roster alone leaves what the arbiter reads of every entry. -/
theorem SameFor.keep {s t : State} (hm : (t.mode == .session) = (s.mode == .session)) (hf : t.floor = s.floor) (hr : t.roster = s.roster)
    (n : Fin 200) : SameFor n s t :=
  ⟨hm, by rw [hf], fun k => by rw [hf], fun k b => by rw [hf], by rw [hr]⟩

/-! ### Operations on one entry -/

theorem setSlot_sameFor {m n : Fin 200} (h : m ≠ n) (x : Option Entry) (s : State) : SameFor m s (s.setSlot n x) :=
  ⟨rfl, .rfl, fun _ => .rfl, fun _ _ => .rfl, by rw [State.setSlot_roster, setAt_get_ne _ (Ne.symm h)]⟩

theorem derive_sameFor {m n : Fin 200} (h : m ≠ n) (s : State) : SameFor m s (derive n s) where
  mode := by rw [(derive_floorStep n s).mode]
  chair := by rw [(derive_floorStep n s).chair]
  held k := by rw [derive_held]
  live k b := by
    rw [Floor.liveView, derive_live, Option.map_map, Floor.liveView]
    cases hx : s.floor.live[k] with
    | none => rfl
    | some x =>
      simp only [Option.map_some, Function.comp]
      by_cases hk : s.floor.liveSlotOf n = some k
      · obtain ⟨y, hy, hyn⟩ := liveSlotOf_holds hk
        cases hx.symm.trans hy
        rw [if_pos hk]
        have hne : x.holder ≠ m := fun e => h (e.symm.trans hyn)
        exact ⟨fun e => absurd (congrArg Prod.fst (Option.some.inj e)) hne, fun e => absurd (congrArg Prod.fst (Option.some.inj e)) hne⟩
      · rw [if_neg hk]
  entry := by rw [(derive_floorActs n s).apart m h]

/-- An entry derived afresh agrees, in a floor where it holds one live slot at most. -/
theorem derive_derivedAt {s : State} (hs : FloorLaw s) (n : Fin 200) : DerivedAt n (derive n s) where
  live k b hk := by
    obtain ⟨x, hx, hxn, rfl⟩ := liveView_eq_some.1 hk
    rw [derive_live, Option.map_eq_some_iff] at hx
    obtain ⟨y, hy, rfl⟩ := hx
    have hyn : y.holder = n := by rw [← hxn]; split <;> rfl
    have hheld : s.floor.liveHolder k = some n := liveHolder_eq_some.2 ⟨y, hy, hyn⟩
    obtain ⟨j, hj⟩ := Option.ne_none_iff_exists'.1 fun h => liveSlotOf_eq_none.1 h k hheld
    obtain rfl := hs.liveHolder_once j k n (liveHolder_eq_some.2 (liveSlotOf_holds hj)) hheld
    rw [if_pos hj, derive_speaking]; rfl
  hot e he := by
    rw [derive_roster, Option.map_eq_some_iff] at he
    obtain ⟨f, hf, rfl⟩ := he
    rw [if_pos rfl, derive_hotTerms]
    exact timerDerived_isSome _ _ _

/-- The laws of the floor, and where it is asked for (`p`) everything as derived, but for one entry at most. -/
structure DerivedBut (p : Prop) (o : Option (Fin 200)) (s : State) : Prop where
  floor : FloorLaw s
  derived : p → ∀ m, o ≠ some m → DerivedAt m s

section
variable {p : Prop} {o o' : Option (Fin 200)} {s t : State}

theorem DerivedBut.weaken (h : DerivedBut p none s) (o : Option (Fin 200)) : DerivedBut p o s :=
  ⟨h.floor, fun hp m _ => h.derived hp m nofun⟩

/-- A step that gives no slot a holder, and after which the arbiter reads the same of all entries but one. -/
theorem DerivedBut.carry (h : DerivedBut p o s) (hslots : SlotsShrink s t) (hsame : ∀ m, o' ≠ some m → o ≠ some m ∧ SameFor m s t) :
    DerivedBut p o' t :=
  ⟨hslots.floorLaw h.floor, fun hp m hm => (hsame m hm).2.derivedAt (h.derived hp m (hsame m hm).1)⟩

/-- What leaves floor and roster alone, and whether there is a sitting. -/
theorem DerivedBut.keep (h : DerivedBut p o s) (hm : (t.mode == .session) = (s.mode == .session)) (hf : t.floor = s.floor)
    (hr : t.roster = s.roster) : DerivedBut p o t := by
  refine h.carry ⟨by rw [hf], by rw [hf], by rw [hf], by rw [hf], fun _ _ hk => hf ▸ hk, fun _ _ hk => ?_, fun n hn => ?_, fun he => ?_⟩
    fun m hm' => ⟨hm', .keep hm hf hr m⟩
  · rwa [hf] at hk
  · rwa [hr]
  · rwa [he, beq_self_eq_true, beq_iff_eq] at hm

theorem DerivedBut.keep_floorStep (h : DerivedBut p o s) (hstep : FloorStep s t) (hf : t.floor = s.floor) (hr : t.roster = s.roster) :
    DerivedBut p o t := h.keep (by rw [hstep.mode]) hf hr

theorem DerivedBut.postChange (h : DerivedBut p o s) (b : Block) (id : WarnId) (old new : Bool) :
    DerivedBut p o (s.postChange b id old new) :=
  h.keep_floorStep (.postChange _ _ _ _ _) (State.postChange_floor ..) (State.postChange_roster ..)

theorem DerivedBut.post (h : DerivedBut p o s) (b : Block) (a : Act) : DerivedBut p o (s.post b a) := h.keep rfl rfl rfl

/-- An entry whose fields are replaced has yet to be derived. -/
theorem DerivedBut.setSlot {n : Fin 200} (h : DerivedBut p (some n) s) {x : Option Entry} (hx : x.isSome) :
    DerivedBut p (some n) (s.setSlot n x) := by
  refine h.carry ⟨rfl, rfl, rfl, rfl, fun _ _ hk => hk, fun _ _ hk => hk, fun m hm => ?_, id⟩
    fun m hm => ⟨hm, setSlot_sameFor (fun e => hm (by rw [e])) x s⟩
  rw [State.setSlot_roster, setAt_get]
  split
  · exact hx
  · exact hm

/-- The entry that has yet to be derived turns out to agree with what is derived. -/
theorem DerivedBut.settle {n : Fin 200} (h : DerivedBut p (some n) s) (hn : DerivedAt n s) : DerivedBut p none s := by
  refine ⟨h.floor, fun hp m _ => ?_⟩
  by_cases hm : m = n
  · exact hm ▸ hn
  · exact h.derived hp m fun e => hm (Option.some.inj e).symm

/-- The entry that has yet to be derived, derived. -/
theorem DerivedBut.derive {n : Fin 200} (h : DerivedBut p (some n) s) : DerivedBut p none (derive n s) := by
  have hslots := (derive_holdersStay n s).slotsShrink (derive_floorStep n s)
  have hother : DerivedBut p (some n) (Machine.derive n s) :=
    h.carry hslots fun m hm => ⟨hm, derive_sameFor (fun e => hm (by rw [e])) s⟩
  exact hother.settle (derive_derivedAt h.floor n)

end

/-! ### The moves of the floor -/

/-- The state with another debounced level of the silence key (R110). -/
def State.keyed (s : State) (asserted : Bool) (stability : Nat) : State :=
  { s with floor := { s.floor with asserted := asserted, stability := stability } }

/-- The floor moved to held under a cause, with the key at a debounced level (R108, R109, R111). -/
def heldUnder (s : State) (a : Bool) (d : Nat) (c : Cause) : State := (moveToHeld (s.keyed a d)).setCause c

/-- The floor moved back, with the key at a debounced level (R108, R109, R111). -/
def freedFromHold (s : State) (a : Bool) (d : Nat) : State := (moveBack (s.keyed a d)).setCause .none

section
variable {s : State} (a : Bool) (d : Nat)

theorem heldUnder_floorStep (c : Cause) : FloorStep (s.keyed a d) (heldUnder s a d c) :=
  (moveToHeld_floorStep _).trans (.setCause _ _)

theorem freedFromHold_floorStep : FloorStep (s.keyed a d) (freedFromHold s a d) := endHold_floorStep _

theorem heldUnder_holder (c : Cause) (k : Fin 6) : (heldUnder s a d c).floor.liveHolder k = none :=
  live_none_iff.2 (moveToHeld_live (s.keyed a d) k)

theorem heldUnder_held (hs : FloorLaw s) (hc : s.floor.cause = .none) (c : Cause) (k : Fin 6) :
    (heldUnder s a d c).floor.held[k] = s.floor.liveHolder k := by
  have h := moveToHeld_held (s.keyed a d) k
  have hempty : (s.keyed a d).floor.held[k] = none := hs.heldEmpty hc k
  rw [hempty, Option.or_none] at h
  exact h

theorem heldUnder_roster (hs : FloorLaw s) (c : Cause) (m : Fin 200) : (heldUnder s a d c).roster[m] = s.roster[m].map fun e =>
    if s.floor.liveSlotOf m = none then e else { e with hot := none } :=
  moveToHeld_roster (s := s.keyed a d) hs.liveHolder_once m

theorem freedFromHold_live (hs : FloorLaw s) (hc : s.floor.cause ≠ .none) (k : Fin 6) : (freedFromHold s a d).floor.live[k] =
    s.floor.held[k].map fun m => ⟨m, s.tuning.silentTime, (freedFromHold s a d).speaking m, false⟩ :=
  moveBack_live (s := s.keyed a d) (hs.liveEmpty hc) hs.heldOnce k

theorem freedFromHold_held (hs : FloorLaw s) (hc : s.floor.cause ≠ .none) (k : Fin 6) : (freedFromHold s a d).floor.held[k] = none :=
  moveBack_held (s := s.keyed a d) (hs.liveEmpty hc) hs.heldOnce k

theorem freedFromHold_holder (hs : FloorLaw s) (hc : s.floor.cause ≠ .none) (k : Fin 6) :
    (freedFromHold s a d).floor.liveHolder k = s.floor.held[k] := by
  rw [Floor.liveHolder, freedFromHold_live a d hs hc, Option.map_map]
  simp only [Function.comp_def, Option.map_id']

theorem freedFromHold_roster (hs : FloorLaw s) (hc : s.floor.cause ≠ .none) (m : Fin 200) : (freedFromHold s a d).roster[m] =
    s.roster[m].map fun e => if s.floor.heldSlotOf m = none then e
      else { e with hot := timerDerived ((freedFromHold s a d).hotTerms m e) s.tuning.hotDelay e.hot } :=
  moveBack_roster (s := s.keyed a d) (hs.liveEmpty hc) hs.heldOnce m

/-- The arbiter reads the same of an entry that the move to held does not move. -/
theorem heldUnder_sameFor (hs : FloorLaw s) (hc : s.floor.cause = .none) (c : Cause) {m : Fin 200}
    (hm : s.floor.liveSlotOf m = none) : SameFor m s (heldUnder s a d c) where
  mode := by rw [(heldUnder_floorStep a d c).mode]; rfl
  chair := by rw [(heldUnder_floorStep a d c).chair]; rfl
  held k := by
    rw [heldUnder_held a d hs hc, hs.heldEmpty hc]
    exact ⟨fun h => absurd h (liveSlotOf_eq_none.1 hm k), nofun⟩
  live k b := by
    refine ⟨fun h => ?_, fun h => absurd (liveHolder_eq_some_iff_view.2 ⟨b, h⟩) (liveSlotOf_eq_none.1 hm k)⟩
    have := liveHolder_eq_some_iff_view.2 ⟨b, h⟩
    rw [heldUnder_holder] at this; cases this
  entry := by simp only [heldUnder_roster a d hs, hm, if_true, Option.map_id']

/-- The arbiter reads the same of an entry that the move back does not move. -/
theorem freedFromHold_sameFor (hs : FloorLaw s) (hc : s.floor.cause ≠ .none) {m : Fin 200} (hm : s.floor.heldSlotOf m = none) :
    SameFor m s (freedFromHold s a d) where
  mode := by rw [(freedFromHold_floorStep a d).mode]; rfl
  chair := by rw [(freedFromHold_floorStep a d).chair]; rfl
  held k := by
    rw [freedFromHold_held a d hs hc]
    exact ⟨nofun, fun h => absurd h (heldSlotOf_none_iff.1 hm k)⟩
  live k b := by
    refine ⟨fun h => ?_, fun h => ?_⟩
    · have := liveHolder_eq_some_iff_view.2 ⟨b, h⟩
      rw [freedFromHold_holder a d hs hc] at this
      exact absurd this (heldSlotOf_none_iff.1 hm k)
    · have := liveHolder_eq_some_iff_view.2 ⟨b, h⟩
      rw [hs.liveHolder_empty hc] at this; cases this
  entry := by simp only [freedFromHold_roster a d hs hc, hm, if_true, Option.map_id']

theorem heldUnder_floorLaw (hs : FloorLaw s) (hc : s.floor.cause = .none) {c : Cause} (hcause : c ≠ .none)
    (ha : a = true ↔ c = .silence) : FloorLaw (heldUnder s a d c) := by
  have hstep := heldUnder_floorStep (s := s) a d c
  have hlive := heldUnder_holder (s := s) a d c
  have hheld := heldUnder_held a d hs hc c
  have hchair : ∀ n : Fin 200, (heldUnder s a d c).floor.chair = some n → s.floor.chair = some n := fun n hn => hstep.chair ▸ hn
  refine .of_holders (by rw [hstep.capacity]; exact hs.capacity) (.of_empty hlive)
    (hs.liveLaw.carry (fun k n hk => (hheld k).symm.trans hk) hstep.capacity (fun _ n _ => hstep.occupied n) fun _ n _ => hchair n)
    (fun e => absurd e hcause) (fun _ => hlive) (fun n hn => hstep.occupied n (hs.chairEnrolled n (hchair n hn))) (fun hm k => ?_)
    (by rw [hstep.asserted]; exact ha)
  rw [hstep.mode] at hm
  exact ⟨hlive k, (hheld k).trans (live_none_iff.2 (hs.sitting hm k).1)⟩

theorem freedFromHold_floorLaw (hs : FloorLaw s) (hc : s.floor.cause ≠ .none) : FloorLaw (freedFromHold s false d) := by
  have hstep := freedFromHold_floorStep (s := s) false d
  have hheld := freedFromHold_held false d hs hc
  have hlive := freedFromHold_holder false d hs hc
  have hchair : ∀ n : Fin 200, (freedFromHold s false d).floor.chair = some n → s.floor.chair = some n := fun n hn => hstep.chair ▸ hn
  refine .of_holders (by rw [hstep.capacity]; exact hs.capacity)
    (hs.heldLaw.carry (fun k n hk => (hlive k).symm.trans hk) hstep.capacity (fun _ n _ => hstep.occupied n) fun _ n _ => hchair n)
    (.of_empty hheld) (fun _ => hheld) (fun h => absurd rfl h) (fun n hn => hstep.occupied n (hs.chairEnrolled n (hchair n hn)))
    (fun hm k => ?_) (by rw [hstep.asserted]; exact ⟨nofun, nofun⟩)
  rw [hstep.mode] at hm
  exact ⟨(hlive k).trans (hs.sitting hm k).2, hheld k⟩

variable {p : Prop}

/-- A move to the held floor under a cause keeps the laws, and leaves everything as derived. -/
theorem DerivedBut.heldUnder (h : DerivedBut p none s) (hc : s.floor.cause = .none) {c : Cause} (hcause : c ≠ .none)
    (ha : a = true ↔ c = .silence) : DerivedBut p none (heldUnder s a d c) := by
  have hs := h.floor
  refine ⟨heldUnder_floorLaw a d hs hc hcause ha, fun hp m _ => ?_⟩
  by_cases hm : s.floor.liveSlotOf m = none
  · exact (heldUnder_sameFor a d hs hc c hm).derivedAt (h.derived hp m nofun)
  · refine ⟨fun k b hk => ?_, fun e he => ?_⟩
    · have := liveHolder_eq_some_iff_view.2 ⟨b, hk⟩
      rw [heldUnder_holder] at this; cases this
    · have hheld : (Machine.heldUnder s a d c).floor.heldSlotOf m ≠ none := by
        rw [liveSlotOf_eq_none] at hm
        push Not at hm
        obtain ⟨k, hk⟩ := hm
        exact fun hno => heldSlotOf_none_iff.1 hno k ((heldUnder_held a d hs hc c k).trans hk)
      rw [heldUnder_roster a d hs, Option.map_eq_some_iff] at he
      obtain ⟨f, -, rfl⟩ := he
      rw [if_neg hm, hotTerms_held hheld]; rfl

/-- A move back keeps the laws, and leaves everything as derived. -/
theorem DerivedBut.freedFromHold (h : DerivedBut p none s) (hc : s.floor.cause ≠ .none) :
    DerivedBut p none (freedFromHold s false d) := by
  have hs := h.floor
  refine ⟨freedFromHold_floorLaw d hs hc, fun hp m _ => ?_⟩
  by_cases hm : s.floor.heldSlotOf m = none
  · exact (freedFromHold_sameFor false d hs hc hm).derivedAt (h.derived hp m nofun)
  · refine ⟨fun k b hk => ?_, fun e he => ?_⟩
    · obtain ⟨x, hx, rfl, rfl⟩ := liveView_eq_some.1 hk
      rw [freedFromHold_live false d hs hc, Option.map_eq_some_iff] at hx
      obtain ⟨n, -, rfl⟩ := hx
      rfl
    · rw [freedFromHold_roster false d hs hc, Option.map_eq_some_iff] at he
      obtain ⟨f, -, rfl⟩ := he
      rw [if_neg hm]
      exact timerDerived_isSome _ _ _

end

/-! ### The holds -/

section
variable {p : Prop} {s : State}

theorem asserted_false {s : State} (hs : FloorLaw s) (hc : s.floor.cause ≠ .silence) : s.floor.asserted = false :=
  Bool.eq_false_iff.2 fun h => hc (hs.silence.1 h)

theorem DerivedBut.beginHold (h : DerivedBut p none s) (hc : s.floor.cause = .none) : DerivedBut p none (beginHold s) :=
  h.heldUnder s.floor.asserted s.floor.stability hc (c := .chair) nofun
    ⟨fun ha => absurd ((asserted_false h.floor (by rw [hc]; nofun)).symm.trans ha) nofun, nofun⟩

theorem DerivedBut.endHold (h : DerivedBut p none s) (hc : s.floor.cause = .chair) : DerivedBut p none (endHold s) := by
  have hkey : s.keyed false s.floor.stability = s := by rw [← asserted_false h.floor (by rw [hc]; nofun)]; rfl
  have hfreed := h.freedFromHold s.floor.stability (by rw [hc]; nofun)
  rw [Machine.freedFromHold, hkey] at hfreed
  exact hfreed

theorem DerivedBut.followClaim (h : DerivedBut p none s) : DerivedBut p none (followClaim s) := by
  rw [followClaim_eq]
  cases hc : s.floor.cause with
  | none =>
    cases s.chairClaims
    · exact h
    · exact h.beginHold hc
  | chair =>
    cases s.chairClaims
    · exact h.endHold hc
    · exact h
  | silence => exact h

/-- The floor arbiter's answer to an entry's new presence derives it, and moves the floor with the chair's claim (R49, R53). -/
theorem DerivedBut.floorTakes {n : Fin 200} (h : DerivedBut p (some n) s) : DerivedBut p none (floorTakes n s) := by
  by_cases hc : s.floor.chair = some n
  · rw [floorTakes_chair hc]; exact h.derive.followClaim
  · rw [floorTakes_other hc]; exact h.derive

/-- The debounced level changes, and the cause with it (R110, R111). -/
theorem DerivedBut.debounceExpires (h : DerivedBut p none s) : DerivedBut p none (debounceExpires s) := by
  have hs := h.floor
  have hrekey : ∀ (a : Bool) (c : Cause), s.floor.cause ≠ .none → c ≠ .none → (a = true ↔ c = .silence) →
      DerivedBut p none ((s.keyed a 0).setCause c) := fun a c hc hcause ha => by
    refine ⟨.of_holders hs.capacity (hs.liveLaw.carry (fun _ _ => id) rfl (fun _ _ _ => id) fun _ _ _ => id)
      (hs.heldLaw.carry (fun _ _ => id) rfl (fun _ _ _ => id) fun _ _ _ => id) (fun e => absurd e hcause)
      (fun _ => hs.liveHolder_empty hc) hs.chairEnrolled (fun hm k => ?_) ha, fun hp m _ => ?_⟩
    · exact ⟨live_none_iff.2 (hs.sitting hm k).1, (hs.sitting hm k).2⟩
    · exact SameFor.derivedAt (s := s) ⟨rfl, .rfl, fun _ => .rfl, fun _ _ => .rfl, rfl⟩ (h.derived hp m nofun)
  cases hkey : s.floor.asserted with
  | false =>
    rw [debounceExpires_asserted hkey]
    by_cases hc : s.floor.cause = .none
    · show DerivedBut p none (silenceAsserted (s.keyed true 0))
      rw [silenceAsserted_none (s := s.keyed true 0) hc]
      exact h.heldUnder true 0 hc (c := .silence) nofun ⟨fun _ => rfl, fun _ => rfl⟩
    · show DerivedBut p none (silenceAsserted (s.keyed true 0))
      rw [silenceAsserted_held (s := s.keyed true 0) hc]
      exact hrekey true .silence hc nofun ⟨fun _ => rfl, fun _ => rfl⟩
  | true =>
    have hc : s.floor.cause ≠ .none := by rw [hs.silence.1 hkey]; nofun
    rw [debounceExpires_released hkey, silenceReleased]
    split
    · exact hrekey false .chair hc nofun ⟨nofun, nofun⟩
    · exact h.freedFromHold 0 hc

end

end Sys2Proof.Machine
end

section
/-! PROOFS. The laws of the floor and what is derived, through the operations on entries and slots, and through the changes of mode. -/

namespace Sys2Proof.Machine

/-! ### An entry's fields -/

section
variable {p : Prop} {o : Option (Fin 200)} {s t : State}

/-- A step that gives no slot a holder, and after which the arbiter reads the same of every entry. -/
theorem DerivedBut.carryAll (h : DerivedBut p o s) (hslots : SlotsShrink s t) (hsame : ∀ m, SameFor m s t) : DerivedBut p o t :=
  h.carry hslots fun m hm => ⟨hm, hsame m⟩

/-- An entry takes fields in which the floor arbiter reads the same. -/
theorem DerivedBut.setFields (h : DerivedBut p o s) {n : Fin 200} {e f : Entry} (he : s.roster[n] = some e)
    (hf : f.floorFields = e.floorFields) : DerivedBut p o (s.setSlot n (some f)) := by
  refine h.carryAll ⟨rfl, rfl, rfl, rfl, fun _ _ hk => hk, fun _ _ hk => hk, fun m hm => ?_, id⟩ fun m =>
    ⟨rfl, .rfl, fun _ => .rfl, fun _ _ => .rfl, ?_⟩
  · rw [State.setSlot_roster, setAt_get]
    split
    · rfl
    · exact hm
  · rw [State.setSlot_roster, setAt_get]
    split
    · rename_i hnm
      rw [← hnm, he, Option.map_some, Option.map_some, hf]
    · rfl

/-- The roster's entries and the slots count on, and the arbiter reads the same of them. -/
theorem DerivedBut.mapped (h : DerivedBut p o s) {g : Entry → Entry} (hg : ∀ e, (g e).floorFields = e.floorFields)
    (hm : (t.mode == .session) = (s.mode == .session)) (hr : ∀ n : Fin 200, t.roster[n] = s.roster[n].map g)
    (hcap : t.floor.capacity = s.floor.capacity) (hchair : t.floor.chair = s.floor.chair) (hcause : t.floor.cause = s.floor.cause)
    (hkey : t.floor.asserted = s.floor.asserted) (hheld : t.floor.held = s.floor.held)
    (hlive : ∀ k : Fin 6, t.floor.liveView k = s.floor.liveView k) : DerivedBut p o t := by
  refine h.carryAll ⟨hcap, hchair, hcause, hkey, fun k n hk => ?_, fun k n hk => hheld ▸ hk, fun n hn => ?_, fun he => ?_⟩ fun m =>
    ⟨hm, by rw [hchair], fun k => by rw [hheld], fun k b => by rw [hlive], ?_⟩
  · rw [liveHolder_eq_some_iff_view] at hk ⊢
    rwa [hlive] at hk
  · rw [hr, Option.isSome_map]; exact hn
  · rwa [he, beq_self_eq_true, beq_iff_eq] at hm
  · rw [hr, Option.map_map]
    exact congrArg (fun f => s.roster[m].map f) (funext hg)

end

/-! ### Reports -/

section
variable {p : Prop} {o : Option (Fin 200)} {s : State}

theorem DerivedBut.postBattery (h : DerivedBut p o s) (n : Fin 200) (a b : BattLevel) : DerivedBut p o (postBattery n a b s) :=
  h.keep_floorStep (postBattery_floorStep n a b s) (postBattery_floor n a b s) (postBattery_roster n a b s)

theorem DerivedBut.postIf (h : DerivedBut p o s) (c : Bool) (b : Block) (a : Act) : DerivedBut p o (if c then s.post b a else s) := by
  split
  · exact h.post b a
  · exact h

end

/-! ### What the roster hands over -/

section
variable {p : Prop} {s : State} (h : DerivedBut p none s)
include h

/-- An entry's new switch and presence are taken by the floor arbiter in the same handling (R49). -/
theorem DerivedBut.applyObservation (n : Fin 200) (o : Observation) : DerivedBut p none (applyObservation n o s) := by
  unfold Machine.applyObservation
  split
  · exact h
  · exact (((((h.weaken (some n)).setSlot rfl).postChange _ _ _ _).postBattery _ _ _).postIf _ _ _ |>.postChange _ _ _ _).floorTakes

theorem DerivedBut.fadeEntry (n : Fin 200) : DerivedBut p none (fadeEntry n s) := by
  unfold Machine.fadeEntry
  split
  · exact h
  · exact ((h.weaken (some n)).setSlot rfl).floorTakes

theorem DerivedBut.loseEntry (n : Fin 200) : DerivedBut p none (loseEntry n s) := by
  unfold Machine.loseEntry
  split
  · exact h
  · exact ((((h.weaken (some n)).setSlot rfl).postChange _ _ _ _).postChange _ _ _ _).floorTakes

theorem DerivedBut.judgeAge (n : Fin 200) : DerivedBut p none (judgeAge n s) := by
  unfold Machine.judgeAge
  split
  · exact h
  · split
    · exact h.loseEntry n
    · split
      · exact h.fadeEntry n
      · exact h

theorem DerivedBut.reclassifyEntry (n : Fin 200) : DerivedBut p none (reclassifyEntry n s) := by
  unfold Machine.reclassifyEntry
  split
  · exact h
  · rename_i e he
    exact (h.setFields (f := { e with battery := reclassify s.profiles[e.battery.profile] e.battery }) he rfl).postBattery _ _ _

theorem DerivedBut.amend {n : Fin 200} {e : Entry} (he : s.roster[n] = some e) (seat : Nat) (group : Fin 8) (profile : Fin 4) :
    DerivedBut p none (amend n e seat group profile s) := by
  have hslot : DerivedBut p none (s.setSlot n (some (e.amended seat group profile))) := h.setFields he rfl
  unfold Machine.amend
  simp only
  split
  · exact hslot
  · exact hslot.reclassifyEntry n

theorem DerivedBut.strangersBecome (v : Vector (Option Stranger) 8) : DerivedBut p none (s.strangersBecome v) :=
  (h.keep (t := { s with combiner := { s.combiner with strangers := v } }) rfl rfl rfl).postChange _ _ _ _

end

/-! ### Slots -/

/-- An entry without a slot agrees with what is derived if its timer does. -/
theorem DerivedAt.of_unslotted {n : Fin 200} {s : State} (hn : ¬ s.floor.Slotted n)
    (hhot : ∀ e : Entry, s.roster[n] = some e → e.hot.isSome = s.hotTerms n e) : DerivedAt n s where
  live k b hk := by
    obtain ⟨x, hx, hh, -⟩ := liveView_eq_some.1 hk
    exact absurd (.inl ⟨k, x, hx, hh⟩) hn
  hot := hhot

theorem FloorLaw.unslotted_of_empty {s : State} (hs : FloorLaw s) {n : Fin 200} (hn : s.roster[n] = none) : ¬ s.floor.Slotted n := by
  rintro (⟨k, x, hk, rfl⟩ | ⟨k, hk⟩)
  · have := hs.liveEnrolled k x hk
    rw [hn] at this; cases this
  · have := hs.heldEnrolled k n hk
    rw [hn] at this; cases this

theorem FloorLaw.unslotted_of_chair {s : State} (hs : FloorLaw s) {n : Fin 200} (hn : s.floor.chair = some n) : ¬ s.floor.Slotted n := by
  rintro (⟨k, x, hk, rfl⟩ | ⟨k, hk⟩)
  · exact hs.chairLive k x hk hn
  · exact hs.chairHeld k n hk hn

theorem setLive_liveHolder (s : State) (k j : Fin 6) (x : Option LiveSlot) :
    (s.setLive k x).floor.liveHolder j = if k = j then x.map (·.holder) else s.floor.liveHolder j := by
  rw [Floor.liveHolder, State.setLive_floor, setAt_get]
  split <;> rfl

theorem setLive_liveView (s : State) (k j : Fin 6) (x : Option LiveSlot) :
    (s.setLive k x).floor.liveView j = if k = j then x.map fun y => (y.holder, y.speaking) else s.floor.liveView j := by
  rw [Floor.liveView, State.setLive_floor, setAt_get]
  split <;> rfl

section
variable {p : Prop} {s : State} (h : DerivedBut p none s)
include h

/-- A new entry has no slot, and its switch is not open (R37). -/
theorem DerivedBut.enrolAt {n : Fin 200} (hn : s.roster[n] = none) (unit : UnitId) (seat : Nat) (group : Fin 8) (profile : Fin 4) :
    DerivedBut p none (enrolAt n unit seat group profile s) := by
  have hslot : DerivedBut p none (s.setSlot n (some (Entry.fresh unit seat group profile))) := by
    refine ((h.weaken (some n)).setSlot rfl).settle (.of_unslotted (h.floor.unslotted_of_empty hn) fun e he => ?_)
    rw [State.setSlot_roster, setAt_get_same] at he
    cases he
    rfl
  unfold Machine.enrolAt State.forgetStranger
  split
  · exact hslot.strangersBecome _
  · exact hslot

theorem DerivedBut.freeSlot (n : Fin 200) : DerivedBut p (some n) (freeSlot n s) := by
  have hstep := freeSlot_floorStep n s
  have hlive := freeSlot_live h.floor n
  have hheld := freeSlot_held h.floor n
  refine h.carry (hstep.slotsShrink (freeSlot_cause n s) (fun k m hk => ?_) fun k m hk => ((hheld k m).1 hk).1) fun m hm =>
    ⟨nofun, by rw [hstep.mode], by rw [hstep.chair], fun k => (hheld k m).trans (and_iff_left fun e => hm (by rw [e])), fun k b => ?_,
      by rw [freeSlot_roster]⟩
  · obtain ⟨x, hx, hh⟩ := liveHolder_eq_some.1 hk
    exact liveHolder_eq_some.2 ⟨x, ((hlive k x).1 hx).1, hh⟩
  · simp only [liveView_eq_some, hlive, and_assoc]
    exact exists_congr fun x => and_congr_right fun _ => ⟨fun ⟨_, hx⟩ => hx, fun hx => ⟨fun e => hm (by rw [← e, hx.1]), hx⟩⟩

theorem freeSlot_unslotted (n : Fin 200) : ¬ (freeSlot n s).floor.Slotted n := by
  rintro (⟨k, x, hk, hx⟩ | ⟨k, hk⟩)
  · exact ((freeSlot_live h.floor n k x).1 hk).2 hx
  · exact ((freeSlot_held h.floor n k n).1 hk).2 rfl

theorem DerivedBut.revoke (n : Fin 200) : DerivedBut p none (revoke n s) := (h.freeSlot n).derive

/-- A free slot goes to an entry that holds none and is not the chair (R96). -/
theorem DerivedBut.grant {n : Fin 200} {k : Fin 6} (hm : s.mode = .session) (hc : s.floor.cause = .none) (hchair : s.floor.chair ≠ some n)
    (hn : s.floor.liveSlotOf n = none) (he : s.roster[n].isSome) (hk : k.1 < s.floor.capacity) (hfree : s.floor.live[k] = none) :
    DerivedBut p none (grant n k s) := by
  have hs := h.floor
  have hgain : ∀ (j : Fin 6) (m : Fin 200), (s.setLive k (some (loadedSlot s n))).floor.liveHolder j = some m →
      k = j ∧ n = m ∨ s.floor.liveHolder j = some m ∧ m ≠ n := fun j m hj => by
    rw [setLive_liveHolder] at hj
    split at hj
    · exact .inl ⟨‹_›, Option.some.inj hj⟩
    · exact .inr ⟨hj, fun e => liveSlotOf_eq_none.1 hn j (e ▸ hj)⟩
  have hlaw : HoldersLaw (s.setLive k (some (loadedSlot s n))) (s.setLive k (some (loadedSlot s n))).floor.liveHolder := by
    refine ⟨fun j m hj => ?_, fun i j m hi hj => ?_, fun j m hj => ?_, fun j m hj => ?_⟩
    · rcases hgain j m hj with ⟨rfl, -⟩ | ⟨hj, -⟩
      · exact hk
      · exact hs.liveLaw.below j m hj
    · rcases hgain i m hi with ⟨rfl, rfl⟩ | ⟨hi, hmn⟩ <;> rcases hgain j _ hj with ⟨rfl, hnm⟩ | ⟨hj, hmn'⟩
      · rfl
      · exact absurd rfl hmn'
      · exact absurd hnm.symm hmn
      · exact hs.liveLaw.once i j m hi hj
    · rcases hgain j m hj with ⟨-, rfl⟩ | ⟨hj, -⟩
      · exact he
      · exact hs.liveLaw.enrolled j m hj
    · rcases hgain j m hj with ⟨-, rfl⟩ | ⟨hj, -⟩
      · exact hchair
      · exact hs.liveLaw.apart j m hj
  have hother : ∀ m, m ≠ n → SameFor m s (s.setLive k (some (loadedSlot s n))) := fun m hmn => by
    refine ⟨rfl, .rfl, fun _ => .rfl, fun j b => ?_, rfl⟩
    rw [setLive_liveView]
    split
    · rename_i hkj
      subst hkj
      rw [Floor.liveView, hfree]
      exact ⟨fun hv => absurd (congrArg Prod.fst (Option.some.inj hv)).symm hmn, nofun⟩
    · rfl
  exact DerivedBut.derive ⟨.of_holders (s := s.setLive k (some (loadedSlot s n))) hs.capacity hlaw
    (hs.heldLaw.carry (fun _ _ => id) rfl (fun _ _ _ => id) fun _ _ _ => id) hs.heldEmpty (fun e => absurd hc e) hs.chairEnrolled
    (fun e => absurd hm e) hs.silence, fun hp m hmn => (hother m fun e => hmn (by rw [e])).derivedAt (h.derived hp m nofun)⟩

/-- A capacity that leaves every occupied slot (R95). -/
theorem DerivedBut.resize {c : Nat} (hc : 1 ≤ c ∧ c ≤ 6) (hfits : s.floor.occupiedFrom c = false) :
    DerivedBut p none { s with floor := { s.floor with capacity := c } } := by
  have hs := h.floor
  have hbelow : ∀ k : Fin 6, s.floor.live[k] ≠ none ∨ s.floor.held[k] ≠ none → k.1 < c := fun k hk => by
    by_contra hge
    rw [occupiedFrom_iff.2 ⟨k, not_lt.1 hge, hk⟩] at hfits
    cases hfits
  exact ⟨⟨hc, fun k x hk => hbelow k (.inl (by rw [hk]; nofun)), fun k n hk => hbelow k (.inr (by rw [hk]; nofun)), hs.liveOnce, hs.heldOnce,
    hs.heldEmpty, hs.liveEmpty, hs.liveEnrolled, hs.heldEnrolled, hs.chairEnrolled, hs.chairLive, hs.chairHeld, hs.sitting, hs.silence⟩,
    fun hp m hm => SameFor.derivedAt (s := s) ⟨rfl, .rfl, fun _ => .rfl, fun _ _ => .rfl, rfl⟩ (h.derived hp m hm)⟩

theorem DerivedBut.setMuted (v : Bool) (n : Fin 200) : DerivedBut p none (setMuted v n s) := by
  unfold Machine.setMuted
  split
  · exact h
  · split
    · exact h
    · exact ((h.weaken (some n)).setSlot rfl).derive

/-- A silent expiry frees the slot or leaves its holder (R104). -/
theorem DerivedBut.silentExpires (k : Fin 6) : DerivedBut p none (silentExpires k s) := by
  unfold Machine.silentExpires
  split
  · exact h
  · rename_i x hx
    have hview : ∀ j, (s.setLive k (some { x with expired := true })).floor.liveView j = s.floor.liveView j := fun j => by
      rw [setLive_liveView]
      split
      · rename_i hkj; rw [← hkj, Floor.liveView, hx]; rfl
      · rfl
    have hexpired : DerivedBut p none (s.setLive k (some { x with expired := true })) :=
      h.mapped (g := id) (fun _ => rfl) rfl (fun n => by rw [Option.map_id]; rfl) rfl rfl rfl rfl rfl hview
    simp only
    split
    · exact ((hexpired.postChange _ _ _ _).freeSlot _).derive
    · exact hexpired.postChange _ _ _ _

theorem DerivedBut.hotReached (n : Fin 200) : DerivedBut p none (hotReached n s) := by
  unfold Machine.hotReached
  split
  · rename_i e he
    split
    · rename_i t ht
      have hfields : ({ e with hot := some { t with reached := true } } : Entry).floorFields = e.floorFields := by
        simp only [Entry.floorFields, ht]; rfl
      exact (h.setFields he hfields).postChange _ _ _ _
    · exact h
  · exact h

/-- The key's pin and its stability time are read by nothing but the debounce (R110). -/
theorem DerivedBut.repinned (high : Bool) (d : Nat) :
    DerivedBut p none { s with floor := { s.floor with pinHigh := high, stability := d } } :=
  h.mapped (g := id) (fun _ => rfl) rfl (fun n => by rw [Option.map_id]; rfl) rfl rfl rfl rfl rfl fun _ => rfl

theorem DerivedBut.withPin (high : Bool) : DerivedBut p none { s with floor := s.floor.withPin high } := by
  rw [withPin_eq]
  exact h.repinned high _

end

/-! ### The designation -/

section
variable {p : Prop} {s : State}

/-- A designation of none, or of an entry with no slot and no timer; the former chair has yet to be derived (R102). -/
theorem DerivedBut.designated {o c : Option (Fin 200)} (h : DerivedBut p o s) (ho : o = c ∨ o = s.floor.chair)
    (hc : ∀ n, c = some n → s.roster[n].isSome ∧ ¬ s.floor.Slotted n ∧ ∀ e : Entry, s.roster[n] = some e → e.hot = none) :
    DerivedBut p s.floor.chair { s with floor := { s.floor with chair := c } } := by
  have hs := h.floor
  refine ⟨.of_holders hs.capacity (hs.liveLaw.carry_chair ?_) (hs.heldLaw.carry_chair ?_) hs.heldEmpty
    (fun hcause => hs.liveHolder_empty hcause) (fun n hn => (hc n hn).1)
    (fun hm k => ⟨live_none_iff.2 (hs.sitting hm k).1, (hs.sitting hm k).2⟩) hs.silence, fun hp m hm => ?_⟩
  · intro k n hk hn
    obtain ⟨x, hx, hh⟩ := liveHolder_eq_some.1 hk
    exact (hc n hn).2.1 (.inl ⟨k, x, hx, hh⟩)
  · exact fun k n hk hn => (hc n hn).2.1 (.inr ⟨k, hk⟩)
  · by_cases hmc : c = some m
    · refine .of_unslotted (hc m hmc).2.1 fun e he => ?_
      rw [(hc m hmc).2.2 e he]
      simp [State.hotTerms, hmc]
    · have hom : o ≠ some m := by
        rcases ho with rfl | rfl
        · exact hmc
        · exact hm
      exact SameFor.derivedAt (s := s) ⟨rfl, ⟨fun e => absurd e hmc, fun e => absurd e hm⟩, fun _ => .rfl, fun _ _ => .rfl, rfl⟩
        (h.derived hp m hom)

theorem DerivedBut.clearMute {n : Fin 200} (h : DerivedBut p (some n) s) : DerivedBut p (some n) (clearMute n s) := by
  unfold Machine.clearMute
  split
  · exact h
  · exact h.setSlot rfl

theorem DerivedBut.stopHot {n : Fin 200} (h : DerivedBut p (some n) s) : DerivedBut p (some n) (stopHot n s) := by
  unfold Machine.stopHot
  split
  · exact h
  · exact (h.setSlot rfl).postChange _ _ _ _

theorem DerivedBut.designate {c : Option (Fin 200)} (h : DerivedBut p c s) (hc : ∀ n, c = some n → s.roster[n].isSome ∧
    ¬ s.floor.Slotted n ∧ ∀ e : Entry, s.roster[n] = some e → e.hot = none) : DerivedBut p none (designate c s) := by
  have hd := h.designated (.inl rfl) hc
  unfold Machine.designate
  simp only
  cases hf : s.floor.chair with
  | none => rw [hf] at hd; exact hd
  | some m => rw [hf] at hd; exact hd.derive

theorem DerivedBut.prepareChair (h : DerivedBut p none s) (n : Fin 200) : DerivedBut p (some n) (prepareChair n s) :=
  (h.freeSlot n).clearMute.stopHot

theorem prepareChair_floor (n : Fin 200) (s : State) : (prepareChair n s).floor = (freeSlot n s).floor := by
  rw [prepareChair, stopHot_floor]
  unfold clearMute
  split <;> rfl

theorem prepareChair_roster {n : Fin 200} {e : Entry} (he : s.roster[n] = some e) (m : Fin 200) :
    (prepareChair n s).roster[m] = if n = m then some { e with muted := false, hot := none } else s.roster[m] := by
  rw [prepareChair_eq he, setAt_get]

/-- The new chair, made ready, has no slot and no timer (R102). -/
theorem DerivedBut.newChair (h : DerivedBut p none s) {n : Fin 200} (hn : s.roster[n].isSome) :
    DerivedBut p none (Machine.designate (some n) (Machine.prepareChair n s)) := by
  obtain ⟨e, he⟩ := Option.isSome_iff_exists.1 hn
  have hroster := prepareChair_roster he n
  rw [if_pos rfl] at hroster
  refine (h.prepareChair n).designate fun m hm => ?_
  obtain rfl := Option.some.inj hm
  rw [prepareChair_floor, hroster]
  exact ⟨rfl, freeSlot_unslotted h n, fun f hf => by cases hf; rfl⟩

theorem DerivedBut.changeChair (h : DerivedBut p none s) {c : Option (Fin 200)} (hc : ∀ n, c = some n → s.roster[n].isSome) :
    DerivedBut p none (changeChair c s) := by
  have hhold : ∀ {t : State}, DerivedBut p none t → DerivedBut p none (match t.floor.cause with
      | .chair => Machine.endHold t
      | .none => t
      | .silence => t) := fun {t} ht => by
    split
    · exact ht.endHold ‹_›
    · exact ht
    · exact ht
  have hclaim : ∀ {t : State}, DerivedBut p none t → DerivedBut p none (match t.floor.cause with
      | .none => if t.chairClaims then Machine.beginHold t else t
      | .chair => t
      | .silence => t) := fun {t} ht => by
    split
    · split
      · exact ht.beginHold ‹_›
      · exact ht
    · exact ht
    · exact ht
  cases c with
  | none => exact hclaim (hhold (h.designate nofun))
  | some n => exact hclaim (hhold (h.newChair (hc n rfl)))

end

/-! ### Retirement -/

section
variable {p : Prop} {s : State}

/-- An entry with no slot and no designation leaves the roster (R46). -/
theorem DerivedBut.emptySlot {n : Fin 200} (h : DerivedBut p (some n) s) (hn : ¬ s.floor.Slotted n) (hc : s.floor.chair ≠ some n) :
    DerivedBut p none (s.setSlot n none) := by
  have hs := h.floor
  have hother : ∀ m : Fin 200, m ≠ n → s.roster[m].isSome → (s.setSlot n none).roster[m].isSome := fun m hm hsome => by
    rw [State.setSlot_roster, setAt_get_ne _ (Ne.symm hm)]
    exact hsome
  have hlive : HoldersLaw (s.setSlot n none) s.floor.liveHolder :=
    hs.liveLaw.carry (fun _ _ => id) rfl (fun k m hk => hother m fun e => by
      obtain ⟨x, hx, hh⟩ := liveHolder_eq_some.1 hk
      exact hn (.inl ⟨k, x, hx, hh.trans e⟩)) fun _ _ _ => id
  have hheld : HoldersLaw (s.setSlot n none) fun k => s.floor.held[k] :=
    hs.heldLaw.carry (fun _ _ => id) rfl (fun k m hk => hother m fun e => hn (.inr ⟨k, e ▸ hk⟩)) fun _ _ _ => id
  refine ⟨.of_holders (s := s.setSlot n none) hs.capacity hlive hheld hs.heldEmpty (fun hcause => hs.liveHolder_empty hcause)
    (fun m hm => hother m (fun e => hc (e ▸ hm)) (hs.chairEnrolled m hm))
    (fun hm k => ⟨live_none_iff.2 (hs.sitting hm k).1, (hs.sitting hm k).2⟩) hs.silence, fun hp m _ => ?_⟩
  by_cases hm : m = n
  · subst hm
    refine .of_unslotted hn fun e he => ?_
    rw [State.setSlot_roster, setAt_get_same] at he
    cases he
  · exact (setSlot_sameFor hm none s).derivedAt (h.derived hp m fun e => hm (Option.some.inj e).symm)

/-- With the entry go its slots and its designation (R46, R47, R102). -/
theorem DerivedBut.vacated (h : DerivedBut p none s) (n : Fin 200) : DerivedBut p none (vacated n s) := by
  have hdrop : DerivedBut p none (dropPool n s) := h.keep rfl rfl rfl
  have hfree := hdrop.freeSlot n
  have hunslotted := freeSlot_unslotted hdrop n
  have hchair : (Machine.freeSlot n (dropPool n s)).floor.chair = s.floor.chair := (freeSlot_floorStep n _).chair
  unfold Machine.vacated
  by_cases hc : s.floor.chair = some n
  · have hnone := hfree.designated (c := none) (.inr (by rw [hchair, hc])) nofun
    rw [hchair, hc] at hnone
    rw [if_pos hc]
    exact hnone.emptySlot hunslotted nofun
  · rw [if_neg hc, ← hchair]
    exact hfree.emptySlot hunslotted (by rw [hchair]; exact hc)

theorem DerivedBut.retireEntry (h : DerivedBut p none s) (n : Fin 200) : DerivedBut p none (retireEntry n s) := by
  rw [retireEntry_eq]
  refine DerivedBut.post ?_ _ _
  split
  · rename_i hc
    exact (h.vacated n).endHold (by rw [vacated_cause]; exact hc.2)
  · exact h.vacated n

end

/-! ### Modes and resets -/

/-- Outside SESSION no hot-mic timer runs and no slot is taken, so an empty floor with no timer is as derived (R106, R114). -/
theorem DerivedBut.of_empty {p : Prop} {s : State} (hs : FloorLaw s) (hempty : FloorEmpty s.floor)
    (hhot : ∀ (n : Fin 200) (e : Entry), s.roster[n] = some e → e.hot.isSome = s.hotTerms n e) : DerivedBut p none s :=
  ⟨hs, fun _ m _ => .of_unslotted (not_slotted (hempty.liveSlotOf m) (hempty.heldSlotOf m)) (hhot m)⟩

theorem FloorLaw.empty {s : State} (hs : FloorLaw s) (hm : s.mode ≠ .session) : FloorEmpty s.floor :=
  ⟨fun k => (hs.sitting hm k).1, fun k => (hs.sitting hm k).2⟩

section
variable {p : Prop} {s : State}

/-- A sitting begins with an empty floor and every hot-mic timer derived (R114, R159). -/
theorem DerivedBut.enterSession (h : DerivedBut p none s) (hm : s.mode ≠ .session) : DerivedBut p none (enterSession s) := by
  have hs := h.floor
  have hempty : FloorEmpty (seated s).floor := (seated_floor s).symm ▸ hs.empty hm
  rw [enterSession_eq]
  refine DerivedBut.followClaim (.of_empty (.of_empty ?_ hempty (fun n hn => ?_) ?_) hempty fun n e he => ?_)
  · rw [seated_floor]; exact hs.capacity
  · rw [seated_floor] at hn
    rw [seated_roster, State.hotDerived, Option.isSome_map]
    exact hs.chairEnrolled n hn
  · rw [seated_floor]; exact hs.silence
  · rw [seated_roster, State.hotDerived, Option.map_eq_some_iff] at he
    obtain ⟨f, -, rfl⟩ := he
    rw [hempty.hotTerms, seated_floor, seated_mode]
    exact (timerDerived_isSome _ _ _).trans (FloorEmpty.hotTerms (s := s.setMode .session) (hs.empty hm) n f)

/-- A sitting ends with the floor emptied and every hot-mic timer stopped (R114, R159). -/
theorem DerivedBut.leaveSession (h : DerivedBut p none s) : DerivedBut p none (leaveSession s) := by
  have hs := h.floor
  have hempty : FloorEmpty (Machine.leaveSession s).floor := (leaveSession_floor s).symm ▸ emptied_empty s.floor
  refine .of_empty (.of_empty ?_ hempty (fun n hn => ?_) ?_) hempty fun n e he => ?_
  · rw [leaveSession_floor]; exact hs.capacity
  · rw [leaveSession_floor] at hn
    rw [leaveSession_roster, Option.isSome_map]
    exact hs.chairEnrolled n hn
  · rw [leaveSession_floor]
    show s.floor.asserted = true ↔ (if s.floor.cause = .silence then Cause.silence else .none) = .silence
    rw [hs.silence]
    by_cases hc : s.floor.cause = .silence
    · rw [if_pos hc, hc]
    · rw [if_neg hc]; exact ⟨fun h => absurd h hc, nofun⟩
  · rw [leaveSession_roster, Option.map_eq_some_iff] at he
    obtain ⟨f, -, rfl⟩ := he
    rw [hempty.hotTerms, leaveSession_mode]
    simp

/-- A wake stands where there is no sitting (R164). -/
theorem DerivedBut.wake (h : DerivedBut p none s) (hm : s.mode = .dormant) : DerivedBut p none (wake s) :=
  h.mapped (g := Entry.woken) (fun _ => rfl) (by rw [hm]; rfl) (wake_roster s) rfl rfl rfl rfl rfl fun _ => rfl

theorem DerivedBut.tick (h : DerivedBut p none s) : DerivedBut p none (tick s) := by
  refine h.mapped (g := Entry.tick) (fun e => ?_) rfl (tick_roster s) rfl rfl rfl rfl rfl fun k => ?_
  · simp only [Entry.floorFields, Entry.tick, Option.isSome_map]; rfl
  · rw [Floor.liveView, tick_live, Option.map_map, Floor.liveView]
    refine congrArg (fun f => s.floor.live[k].map f) (funext fun x => ?_)
    simp only [Function.comp, LiveSlot.tick]
    split <;> rfl

theorem floorReset_empty (b : Bool) : FloorEmpty (Floor.reset b) := ⟨floorReset_live b, floorReset_held b⟩

theorem DerivedBut.deviceReset (s : State) : DerivedBut p none (deviceReset s) := by
  have hempty : FloorEmpty (Machine.deviceReset s).floor := floorReset_empty s.floor.pinHigh
  exact .of_empty (.of_empty reset_floorLaw.capacity hempty nofun ⟨nofun, nofun⟩) hempty fun _ _ he => absurd he reset_no_entry

theorem DerivedBut.endReset (h : DerivedBut p none s) (hm : s.mode = .recess) : DerivedBut p none (endReset s) :=
  h.keep (by rw [hm]; rfl) rfl rfl

/-- CHAMBER_RESET leaves capacity and designation, and every entry as new (R59, R116). -/
theorem DerivedBut.chamberResetAll (h : DerivedBut p none s) : DerivedBut p none (chamberResetAll s) := by
  have hroster : ∀ n : Fin 200, (Machine.chamberResetAll s).roster[n] = s.roster[n].map Entry.chamberReset := fun n => mapTable_get _ _ _
  have hempty : FloorEmpty (Machine.chamberResetAll s).floor :=
    ⟨(floorReset_empty s.floor.pinHigh).live, (floorReset_empty s.floor.pinHigh).held⟩
  refine .of_empty (.of_empty h.floor.capacity hempty (fun n hn => ?_) ⟨nofun, nofun⟩) hempty fun n e he => ?_
  · rw [hroster, Option.isSome_map]
    exact h.floor.chairEnrolled n hn
  · rw [hroster, Option.map_eq_some_iff] at he
    obtain ⟨f, -, rfl⟩ := he
    rfl

end

end Sys2Proof.Machine
end

section
/-! PROOFS. Every step keeps the laws of the floor and what is derived of every entry, on a clock that keeps its own (O58, O59). -/

namespace Sys2Proof.Machine

/-! ### The laws that a step keeps -/

/-- The laws of the clock and of the floor, and where it is asked for (`p`) everything as it is derived. -/
structure FloorLaws (p : Prop) (s : State) : Prop where
  clock : ClockLaw s
  slots : DerivedBut p none s

/-- The laws of O58 and of O59, by what is asked for. -/
theorem floorLaws_false_iff {s : State} : FloorLaws False s ↔ ClockLaw s ∧ FloorLaw s :=
  ⟨fun h => ⟨h.clock, h.slots.floor⟩, fun h => ⟨h.1, h.2, nofun⟩⟩

theorem floorLaws_true_iff {s : State} : FloorLaws True s ↔ ClockLaw s ∧ FloorLaw s ∧ SpeakingLaw s := by
  rw [speakingLaw_iff]
  exact ⟨fun h => ⟨h.clock, h.slots.floor, fun n => h.slots.derived trivial n nofun⟩, fun h => ⟨h.1, h.2.1, fun _ n _ => h.2.2 n⟩⟩

/-- A change of state that keeps the laws. -/
def KeepsFloor (p : Prop) (s t : State) : Prop := FloorLaws p s → FloorLaws p t

/-- The clock's laws stand where mode, clock and RESET_N stand. -/
theorem ClockLaw.keep {s t : State} (h : ClockLaw s) (hm : t.mode = s.mode) (hr : t.inReset = s.inReset)
    (hc : t.clockRunning = s.clockRunning) : ClockLaw t :=
  ⟨by rw [hc, hm, hr]; exact h.runs, fun e => hm.trans (h.reset (hr.symm.trans e))⟩

section
variable {p : Prop}

namespace KeepsFloor

theorem refl (s : State) : KeepsFloor p s s := id

theorem trans {s t u : State} (h₁ : KeepsFloor p s t) (h₂ : KeepsFloor p t u) : KeepsFloor p s u := h₂ ∘ h₁

/-- Mode, clock, floor and roster stand. -/
theorem keep {s t : State} (hm : t.mode = s.mode) (hr : t.inReset = s.inReset) (hc : t.clockRunning = s.clockRunning)
    (hf : t.floor = s.floor) (hro : t.roster = s.roster) : KeepsFloor p s t := fun h =>
  ⟨h.clock.keep hm hr hc, h.slots.keep (by rw [hm]) hf hro⟩

/-- The handling of a sighting, of an age or of a reading leaves the clock. -/
theorem of_entryStep {s t : State} (h : EntryStep s t) (hd : DerivedBut p none s → DerivedBut p none t) : KeepsFloor p s t := fun hs =>
  ⟨hs.clock.keep h.mode h.inReset h.clockRunning, hd hs.slots⟩

/-- An operation of the floor arbiter leaves the clock. -/
theorem of_floorStep {s t : State} (h : FloorStep s t) (hd : DerivedBut p none s → DerivedBut p none t) : KeepsFloor p s t :=
  .of_entryStep h.entryStep hd

/-- A step that opens no pool entry leaves the clock. -/
theorem of_noneOpens {s t : State} (h : NoneOpens s t) (hd : DerivedBut p none s → DerivedBut p none t) : KeepsFloor p s t := fun hs =>
  ⟨hs.clock.keep h.mode h.inReset h.clockRunning, hd hs.slots⟩

theorem portBecomes (s : State) (q : Fin 4) (x : AntennaPort) : KeepsFloor p s (s.portBecomes q x) :=
  .of_noneOpens (.portBecomes s q x) fun h => (h.keep (t := s.setPort q x) rfl rfl rfl).postChange _ _ _ _

theorem strangersBecome (s : State) (v : Vector (Option Stranger) 8) : KeepsFloor p s (s.strangersBecome v) :=
  .of_noneOpens (.strangersBecome s v) fun h => h.strangersBecome v

theorem takeReports (s : State) : KeepsFloor p s s.takeReports :=
  .keep (takeReports_mode s) (takeReports_inReset s) (takeReports_clockRunning s) (takeReports_floor s) (takeReports_roster s)

theorem finish (s : State) : KeepsFloor p s (finish s) :=
  .keep (finish_mode s) (finish_inReset s) (finish_clockRunning s) (finish_floor s) (finish_roster s)

theorem complete (i : Instr) (r : Reply) (s : State) : KeepsFloor p s (complete i r s) := .keep rfl rfl rfl rfl rfl

theorem forList {α : Type} {f : α → State → State} (hf : ∀ a t, KeepsFloor p t (f a t)) (l : List α) (s : State) :
    KeepsFloor p s (forList f l s) :=
  forList_induct (P := KeepsFloor p s) l s (.refl s) fun a _ t ht => ht.trans (hf a t)

theorem forEach {n : Nat} {f : Fin n → State → State} (hf : ∀ a t, KeepsFloor p t (f a t)) (s : State) : KeepsFloor p s (forEach f s) :=
  .forList hf (List.finRange n) s

/-- The tuning items are no part of the laws. -/
theorem setTuning (s : State) (t : Tuning) : KeepsFloor p s (s.setTuning t) := .keep rfl rfl rfl rfl rfl

end KeepsFloor

/-! ### Observations and the pool -/

theorem closeAt_keepsFloor (i : Fin 12) (s : State) : KeepsFloor p s (closeAt i s) :=
  .of_entryStep (closeAt_entryStep i s) fun h => by
    unfold closeAt
    split
    · exact (h.keep (t := s.setPool i none) rfl rfl rfl).applyObservation _ _
    · exact h

theorem coverageTest_keepsFloor (i : Fin 12) (s : State) : KeepsFloor p s (coverageTest i s) := by
  unfold coverageTest
  split
  · split
    · exact closeAt_keepsFloor i s
    · exact .refl s
  · exact .refl s

theorem recheckCoverage_keepsFloor (s : State) : KeepsFloor p s (recheckCoverage s) := .forList closeAt_keepsFloor _ s

theorem recheckAfterDisable_keepsFloor (was : PortState) (s : State) : KeepsFloor p s (recheckAfterDisable was s) := by
  unfold recheckAfterDisable
  split
  · exact recheckCoverage_keepsFloor s
  · exact .refl s

theorem makeRoom_keepsFloor (s : State) : KeepsFloor p s (makeRoom s) := by
  unfold makeRoom
  split
  · exact .refl s
  · split
    · exact closeAt_keepsFloor _ s
    · exact .refl s

/-- A pool position is written, and its coverage tested. -/
theorem setPool_keepsFloor (i : Fin 12) (x : Option PoolEntry) (s : State) : KeepsFloor p s (coverageTest i (s.setPool i x)) :=
  (KeepsFloor.keep (s := s) (t := s.setPool i x) rfl rfl rfl rfl rfl).trans (coverageTest_keepsFloor i _)

theorem openPool_keepsFloor (n : Fin 200) (x : Sighting) (s : State) : KeepsFloor p s (openPool n x s) := by
  unfold openPool
  simp only
  split
  · exact (makeRoom_keepsFloor s).trans (setPool_keepsFloor _ _ _)
  · exact makeRoom_keepsFloor s

theorem takeEnrolled_keepsFloor (n : Fin 200) (x : Sighting) (s : State) : KeepsFloor p s (takeEnrolled n x s) := by
  unfold takeEnrolled
  split
  · split
    · split
      · exact setPool_keepsFloor _ _ s
      · split
        · exact (closeAt_keepsFloor _ s).trans (openPool_keepsFloor _ _ _)
        · exact .refl s
    · exact .refl s
  · split
    · split
      · exact openPool_keepsFloor _ _ s
      · exact .refl s
    · exact .refl s

theorem takeFrame_keepsFloor (s : State) : KeepsFloor p s (takeFrame s) := by
  unfold takeFrame
  split
  · exact .refl s
  · rename_i q _
    split
    · exact .refl s
    · rename_i rest _
      refine KeepsFloor.trans (t := { s.setPort q { s.ports[q] with inbox := rest } with
        combiner := { s.combiner with nextPort := q + 1 } }) (.keep rfl rfl rfl rfl rfl) ?_
      simp only
      split
      · unfold takeSighting
        split
        · exact takeEnrolled_keepsFloor _ _ _
        · exact .strangersBecome _ _
      · exact .refl _

/-! ### Ports -/

theorem portFallsSilent_keepsFloor (q : Fin 4) (s : State) : KeepsFloor p s (portFallsSilent q s) :=
  (KeepsFloor.portBecomes s _ _).trans (recheckCoverage_keepsFloor _)

theorem endWarmUp_keepsFloor (q : Fin 4) (s : State) : KeepsFloor p s (endWarmUp q s) := by
  unfold endWarmUp
  split
  · exact .keep rfl rfl rfl rfl rfl
  · exact portFallsSilent_keepsFloor q s

theorem judgeSilence_keepsFloor (s : State) : KeepsFloor p s (judgeSilence s) := by
  unfold judgeSilence
  simp only
  split
  · exact .forList (fun _ _ => .portBecomes _ _ _) _ s
  · exact (KeepsFloor.forList (fun _ _ => .portBecomes _ _ _) _ s).trans (recheckCoverage_keepsFloor _)

/-! ### The wake -/

theorem wake_keepsFloor {s : State} (hr : s.inReset = false) (hm : s.mode = .dormant) : KeepsFloor p s (wake s) := fun h =>
  ⟨⟨by rw [show (wake s).inReset = s.inReset from rfl, hr]; rfl, fun _ => rfl⟩, h.slots.wake hm⟩

theorem wakeIfDormant_keepsFloor {s : State} (hr : s.inReset = false) : KeepsFloor p s (wakeIfDormant s) := by
  unfold wakeIfDormant
  split
  · exact wake_keepsFloor hr ‹_›
  · exact .refl s
  · exact .refl s

/-- A frame on a line wakes a DORMANT part (R163). -/
theorem judgeFrame_keepsFloor (q : Fin 4) (f : List Byte) {s : State} (hr : s.inReset = false) : KeepsFloor p s (judgeFrame q f s) := by
  unfold judgeFrame
  split
  · split
    · exact (wake_keepsFloor hr ‹_›).trans (.portBecomes _ _ _)
    · exact .portBecomes _ _ _
    · exact .portBecomes _ _ _
  · exact .keep rfl rfl rfl rfl rfl

/-! ### The roster -/

theorem fadeEntry_keepsFloor (n : Fin 200) (s : State) : KeepsFloor p s (fadeEntry n s) :=
  .of_entryStep (fadeEntry_entryStep n s) fun h => h.fadeEntry n

theorem loseEntry_keepsFloor (n : Fin 200) (s : State) : KeepsFloor p s (loseEntry n s) :=
  .of_entryStep (loseEntry_entryStep n s) fun h => h.loseEntry n

theorem judgeAge_keepsFloor (n : Fin 200) (s : State) : KeepsFloor p s (judgeAge n s) :=
  .of_entryStep (judgeAge_entryStep n s) fun h => h.judgeAge n

theorem reclassifyEntry_keepsFloor (n : Fin 200) (s : State) : KeepsFloor p s (reclassifyEntry n s) :=
  .of_entryStep (reclassifyEntry_entryStep n s) fun h => h.reclassifyEntry n

theorem sweepStep_keepsFloor (s : State) : KeepsFloor p s (sweepStep s) := by
  unfold sweepStep
  split
  · exact .keep rfl rfl rfl rfl rfl
  · rename_i w _
    refine KeepsFloor.trans (t := { s with sweep := w.advanced, sweepDue := false }) (.keep rfl rfl rfl rfl rfl) ?_
    unfold visitSlot
    split
    · split
      · exact reclassifyEntry_keepsFloor _ _
      · exact .refl _
    · exact .refl _

theorem enrolAt_keepsFloor {n : Fin 200} {s : State} (hn : s.freeEntry = some n) (unit : UnitId) (seat : Nat) (group : Fin 8)
    (profile : Fin 4) : KeepsFloor p s (enrolAt n unit seat group profile s) :=
  .of_noneOpens (enrolAt_noneOpens n unit seat group profile s) fun h =>
    h.enrolAt (Option.isNone_iff_eq_none.1 (firstIndex_eq_some.1 hn).1) unit seat group profile

theorem retireEntry_keepsFloor (n : Fin 200) (s : State) : KeepsFloor p s (retireEntry n s) := fun h => by
  have hstep := retired_floorStep n s
  refine ⟨h.clock.keep ?_ ?_ ?_, h.slots.retireEntry n⟩
  · rw [retired_posted, State.post_mode, hstep.mode, vacated_rest]
  · rw [retired_posted, State.post_inReset, hstep.inReset, vacated_rest]
  · rw [retired_posted, State.post_clockRunning, hstep.clockRunning, vacated_rest]

/-! ### The floor -/

theorem setAllMuted_keepsFloor (v : Bool) (s : State) : KeepsFloor p s (setAllMuted v s) := by
  refine .forEach (fun n t => ?_) s
  split
  · exact .refl t
  · exact .of_noneOpens (setMuted_noneOpens v n t) fun h => h.setMuted v n

theorem judgeHot_keepsFloor (n : Fin 200) (s : State) : KeepsFloor p s (judgeHot n s) := by
  unfold judgeHot
  split
  · exact .of_floorStep (hotReached_floorStep n s) fun h => h.hotReached n
  · exact .refl s

/-! ### Modes and resets -/

/-- A part that is awake stays so, with its clock as it was, where it takes another mode but DORMANT (R156, R157). -/
theorem ClockLaw.setMode {s : State} (h : ClockLaw s) (hr : Ready s) {m : Mode} (hm : m ≠ .dormant) : ClockLaw (s.setMode m) := by
  refine ⟨?_, fun e => ?_⟩
  · rw [State.setMode_clockRunning, h.runs, State.setMode_mode, State.setMode_inReset, bne_iff_ne.2 hm, bne_iff_ne.2 hr.2]
  · rw [State.setMode_inReset, hr.1] at e; cases e

theorem enterSession_keepsFloor {s : State} (hr : Ready s) (hm : s.mode ≠ .session) : KeepsFloor p s (enterSession s) := fun h =>
  have hstep := enterSession_floorStep s
  ⟨(h.clock.setMode (m := .session) hr nofun).keep hstep.mode hstep.inReset hstep.clockRunning, h.slots.enterSession hm⟩

theorem leaveSession_keepsFloor {s : State} (hr : Ready s) : KeepsFloor p s (leaveSession s) := fun h =>
  have hstep := leaveSession_floorStep s
  ⟨(h.clock.setMode (m := .recess) hr nofun).keep hstep.mode hstep.inReset hstep.clockRunning, h.slots.leaveSession⟩

theorem recessEffects_keepsFloor {s : State} (hr : s.inReset = false) : KeepsFloor p s (recessEffects s) := by
  unfold recessEffects
  split
  · rename_i hm
    exact (leaveSession_keepsFloor (ready_of_session hr hm)).trans (.takeReports _)
  · exact .refl s
  · exact .refl s

theorem recessEffects_not_session (s : State) : (recessEffects s).mode ≠ .session := by
  unfold recessEffects
  split
  · rw [takeReports_mode, leaveSession_mode]; nofun
  · rename_i hm; rw [hm]; nofun
  · rename_i hm; rw [hm]; nofun

/-- The clock stops where there is no sitting (R160). -/
theorem enterDormant_keepsFloor {s : State} (hr : s.inReset = false) : KeepsFloor p s (enterDormant s) := fun h => by
  have hclosed : FloorLaws p (closeAll (recessEffects s)).takeReports :=
    ((recessEffects_keepsFloor hr).trans (.forList closeAt_keepsFloor _ _)).trans (.takeReports _) h
  have hmode : (closeAll (recessEffects s)).takeReports.mode ≠ .session := by
    rw [takeReports_mode, (closeAll_noneOpens _).mode]
    exact recessEffects_not_session s
  have hreset : (enterDormant s).inReset = false := by
    show (closeAll (recessEffects s)).takeReports.inReset = false
    rw [takeReports_inReset, (closeAll_noneOpens _).inReset, recessEffects_inReset, hr]
  exact ⟨⟨rfl, fun e => by rw [hreset] at e; cases e⟩, hclosed.slots.keep (beq_eq_false_iff_ne.2 hmode).symm rfl rfl⟩

theorem deviceReset_floorLaws (s : State) : FloorLaws p (deviceReset s) := ⟨⟨rfl, fun _ => rfl⟩, .deviceReset s⟩

theorem endReset_keepsFloor {s : State} (hr : s.inReset = true) : KeepsFloor p s (endReset s) := fun h =>
  ⟨⟨rfl, nofun⟩, h.slots.endReset (h.clock.reset hr)⟩

theorem chamberResetAll_keepsFloor {s : State} (hr : s.inReset = false) : KeepsFloor p s (chamberResetAll s) := fun h =>
  ⟨⟨by rw [show (chamberResetAll s).inReset = s.inReset from rfl, hr]; rfl, fun _ => rfl⟩, h.slots.chamberResetAll⟩

theorem autonomous_keepsFloor (s : State) : KeepsFloor p s (autonomous s) := by
  unfold autonomous
  split
  · exact .refl s
  · split
    · split
      · exact .of_noneOpens (tick_noneOpens s) fun h => h.tick
      · exact .refl s
    · exact .keep rfl rfl rfl rfl rfl

theorem blinkBoundary_keepsFloor (s : State) : KeepsFloor p s (blinkBoundary s) := by
  unfold blinkBoundary
  simp only
  split
  · rw [commit_rest]; exact .keep rfl rfl rfl rfl rfl
  · exact .keep rfl rfl rfl rfl rfl

theorem lineFault_keepsFloor (m : Fin 16) (v : Bool) (s : State) : KeepsFloor p s (lineFault m v s) :=
  .of_noneOpens (lineFault_noneOpens m v s) fun h =>
    (h.keep (t := s.setLine m { s.lines.line[m] with fault := v }) rfl rfl rfl).postChange _ _ _ _

/-! ### Handlings -/

theorem acted_keepsFloor {s t : State} (h : KeepsFloor p s t) (r : Reply) : KeepsFloor p s (Handling.acted t r).state := h

theorem conclude_keepsFloor {s : State} {h : Handling} (hs : KeepsFloor p s h.state) (i : Instr) : KeepsFloor p s (h.conclude i) := by
  cases h with
  | answered t r => exact hs.trans (.complete i r t)
  | acted t r => exact (hs.trans (.finish t)).trans (.complete i r _)

theorem next_keepsFloor {s u t : State} (h : (.next u : Host.Outcome State Fault Refusal) = .next t) (hu : KeepsFloor p s u) :
    KeepsFloor p s t := by
  cases h; exact hu

/-- An event keeps the laws if its effect does while RESET_N is high. -/
theorem event_keepsFloor {i : Instr} {s t : State} {due : Bool} {f : State → State} (he : exec i s = occur due f s)
    (h : exec i s = .next t) (hf : s.inReset = false → KeepsFloor p s (f s)) : KeepsFloor p s t := by
  refine next_keepsFloor (he.symm.trans h) ?_
  split
  · exact .refl s
  · rename_i hc
    rw [Bool.or_eq_true, not_or, Bool.not_eq_true] at hc
    exact (hf hc.1).trans (.finish _)

/-- A command keeps the laws if its body does in a part that is awake. -/
theorem command_keepsFloor {i : Instr} {body : State → Handling} {s t : State} (he : exec i s = runCommand i body s)
    (h : exec i s = .next t) (hb : ∀ u, Ready u → KeepsFloor p u (body u).state) : KeepsFloor p s t := by
  refine next_keepsFloor (he.symm.trans h) ?_
  split
  · exact .refl s
  · rename_i hr
    have hr : s.inReset = false := Bool.eq_false_iff.2 hr
    exact (wakeIfDormant_keepsFloor hr).trans (conclude_keepsFloor (hb _ (wakeIfDormant_ready hr)) i)

theorem onEntry_keepsFloor {entry : Byte} {len : Nat} {f : Fin 200 → Entry → Handling} {s : State}
    (hf : ∀ n e, s.roster[n] = some e → KeepsFloor p s (f n e).state) : KeepsFloor p s (onEntry entry len f s).state := by
  unfold onEntry
  split
  · exact .refl s
  · split
    · exact .refl s
    · exact hf _ _ ‹_›

/-! ### Commands -/

theorem enrolBody_keepsFloor (unit : UnitId) (seat group profile : Byte) (s : State) :
    KeepsFloor p s (enrolBody unit seat group profile s).state := by
  unfold enrolBody
  split
  · exact .refl s
  · split
    · exact .refl s
    · split
      · exact .refl s
      · split
        · exact .refl s
        · split
          · exact .refl s
          · exact enrolAt_keepsFloor ‹_› _ _ _ _

theorem enrolStrangerBody_keepsFloor (position seat group profile : Byte) (s : State) :
    KeepsFloor p s (enrolStrangerBody position seat group profile s).state := by
  unfold enrolStrangerBody
  split
  · split
    · exact .refl s
    · split
      · exact .refl s
      · split
        · exact .refl s
        · exact enrolAt_keepsFloor ‹_› _ _ _ _
  · exact .refl s

theorem found_keepsFloor (s : State) (n : Option (Fin 200)) : KeepsFloor p s (found s n).state := by
  cases n <;> exact .refl s

theorem findSeatBody_keepsFloor (seat : Byte) (s : State) : KeepsFloor p s (findSeatBody seat s).state := by
  unfold findSeatBody
  split
  · exact .refl s
  · exact found_keepsFloor s _

theorem amendEntryBody_keepsFloor (entry seat group profile : Byte) (s : State) :
    KeepsFloor p s (amendEntryBody entry seat group profile s).state := by
  unfold amendEntryBody
  split
  · exact .refl s
  · refine onEntry_keepsFloor fun n e he => ?_
    split
    · exact .refl s
    · exact .of_noneOpens (amend_noneOpens n e _ _ _ s) fun h => h.amend he _ _ _

/-- The checks of a grant are the terms under which it keeps the laws (R96). -/
theorem grantBody_keepsFloor {n : Fin 200} {s : State} (hn : s.roster[n].isSome) : KeepsFloor p s (grantBody n s).state := by
  refine .of_noneOpens (grantBody_noneOpens n s) fun h => ?_
  unfold grantBody
  split
  · exact h
  · rename_i hm
    split
    · exact h
    · rename_i hc
      split
      · exact h
      · rename_i hchair
        split
        · exact h
        · rename_i hslot
          split
          · exact h
          · rename_i k hk
            have hfree := (firstIndex_eq_some.1 hk).1
            rw [Bool.and_eq_true, decide_eq_true_eq, Option.isNone_iff_eq_none] at hfree
            exact h.grant (not_not.1 hm) (not_not.1 hc) hchair hslot hn hfree.1 hfree.2

theorem revokeBody_keepsFloor (n : Fin 200) (s : State) : KeepsFloor p s (revokeBody n s).state := by
  unfold revokeBody
  split
  · exact .refl s
  · exact .of_floorStep ((freeSlot_floorStep n s).trans (derive_floorStep n _)) fun h => h.revoke n

theorem setFloorCapacityBody_keepsFloor (capacity : Byte) (s : State) : KeepsFloor p s (setFloorCapacityBody capacity s).state := by
  unfold setFloorCapacityBody
  simp only
  split
  · exact .refl s
  · rename_i hfits
    exact fun h => ⟨h.clock.keep rfl rfl rfl, h.slots.resize (clampNat_range (by decide) _) (Bool.eq_false_iff.2 hfits)⟩

theorem muteBody_keepsFloor (v : Bool) (n : Fin 200) (s : State) : KeepsFloor p s (muteBody v n s).state := by
  unfold muteBody
  split
  · exact .refl s
  · exact .of_noneOpens (setMuted_noneOpens v n s) fun h => h.setMuted v n

theorem setChairTo_keepsFloor {c : Option (Fin 200)} {s : State} (hc : ∀ n, c = some n → s.roster[n].isSome) :
    KeepsFloor p s (setChairTo c s).state := by
  unfold setChairTo
  split
  · exact .refl s
  · exact .of_noneOpens (changeChair_noneOpens c s) fun h => h.changeChair hc

theorem setChairBody_keepsFloor (entry : Byte) (s : State) : KeepsFloor p s (setChairBody entry s).state := by
  unfold setChairBody
  split
  · exact setChairTo_keepsFloor nofun
  · refine onEntry_keepsFloor fun n e he => setChairTo_keepsFloor fun m hm => ?_
    obtain rfl := Option.some.inj hm
    rw [he]; rfl

theorem enablePortOnBody_keepsFloor (port : Byte) (s : State) : KeepsFloor p s (enablePortOnBody port s).state := by
  unfold enablePortOnBody
  split
  · exact .refl s
  · split
    · exact .refl s
    · exact .portBecomes s _ _

theorem enablePortOffBody_keepsFloor (port value : Byte) (s : State) : KeepsFloor p s (enablePortOffBody port value s).state := by
  unfold enablePortOffBody
  split
  · exact .refl s
  · split
    · exact .refl s
    · split
      · exact (KeepsFloor.portBecomes s _ _).trans (recheckAfterDisable_keepsFloor _ _)
      · exact .refl s

theorem setPortSilenceTimeBody_keepsFloor (v : BitVec 32) (s : State) : KeepsFloor p s (setPortSilenceTimeBody v s).state := by
  unfold setPortSilenceTimeBody
  simp only
  split
  · exact .refl s
  · exact (KeepsFloor.setTuning s _).trans (judgeSilence_keepsFloor _)

theorem inSubjectOrder_keepsFloor (s : State) : KeepsFloor p s (inSubjectOrder s) := .keep rfl rfl rfl rfl rfl

theorem setLostTimeBody_keepsFloor (v : BitVec 32) (s : State) : KeepsFloor p s (setLostTimeBody v s).state := by
  unfold setLostTimeBody
  simp only
  split
  · exact .refl s
  · exact ((KeepsFloor.setTuning s _).trans (.forEach judgeAge_keepsFloor _)).trans (inSubjectOrder_keepsFloor _)

theorem setPriorityFunctionBody_keepsFloor (v : BitVec 32) (s : State) : KeepsFloor p s (setPriorityFunctionBody v s).state := by
  unfold setPriorityFunctionBody
  split
  · exact (KeepsFloor.setTuning s _).trans (.of_floorStep (followClaim_floorStep _) fun h => h.followClaim)
  · exact .refl s

theorem changePendingType_keepsFloor (c : WClass) (t : PendingType) (s : State) : KeepsFloor p s (changePendingType c t s) := by
  unfold changePendingType
  simp only
  split <;> exact .keep rfl rfl rfl rfl rfl

theorem setPendingTypeBody_keepsFloor (item : Byte) (v : BitVec 32) (s : State) : KeepsFloor p s (setPendingTypeBody item v s).state := by
  unfold setPendingTypeBody
  split
  · exact changePendingType_keepsFloor _ _ s
  · exact .refl s

theorem setModeRecessBody_keepsFloor (value : Byte) {s : State} (hr : Ready s) : KeepsFloor p s (setModeRecessBody value s).state := by
  unfold setModeRecessBody
  split
  · exact .refl s
  · split
    · exact acted_keepsFloor (leaveSession_keepsFloor hr) _
    · exact .refl s
    · exact .refl s

theorem setModeSessionBody_keepsFloor {s : State} (hr : Ready s) : KeepsFloor p s (setModeSessionBody s).state := by
  unfold setModeSessionBody
  split
  · rename_i hm
    exact acted_keepsFloor (enterSession_keepsFloor hr (by rw [hm]; nofun)) _
  · exact .refl s
  · exact absurd ‹_› hr.2

theorem setModeDormantBody_keepsFloor {s : State} (hr : s.inReset = false) : KeepsFloor p s (setModeDormantBody s).state := by
  unfold setModeDormantBody
  split
  · exact acted_keepsFloor (enterDormant_keepsFloor hr) _
  · exact acted_keepsFloor (enterDormant_keepsFloor hr) _
  · exact .refl s

/-! ### Each row -/

/-- Every row keeps the laws. -/
theorem exec_keepsFloor (i : Instr) {s t : State} (h : exec i s = .next t) : KeepsFloor p s t := by
  cases i with
  | deviceReset => exact next_keepsFloor h fun _ => deviceReset_floorLaws s
  | resetEnd =>
    refine next_keepsFloor h ?_
    split
    · exact endReset_keepsFloor ‹_›
    · exact .refl s
  | frameComplete q b => exact event_keepsFloor (exec_frameComplete q b s) h fun hr => judgeFrame_keepsFloor q _ hr
  | characterComplete q b => exact event_keepsFloor (exec_characterComplete q b s) h fun _ => .keep rfl rfl rfl rfl rfl
  | stopBitMissing q => exact event_keepsFloor (exec_stopBitMissing q s) h fun _ => .keep rfl rfl rfl rfl rfl
  | byteGapTimeout q => exact event_keepsFloor (exec_byteGapTimeout q s) h fun _ => .keep rfl rfl rfl rfl rfl
  | frameGapReject q => exact event_keepsFloor (exec_frameGapReject q s) h fun _ => .keep rfl rfl rfl rfl rfl
  | answerSent q => exact event_keepsFloor (exec_answerSent q s) h fun _ => .keep rfl rfl rfl rfl rfl
  | resyncIdle q => exact event_keepsFloor (exec_resyncIdle q s) h fun _ => .keep rfl rfl rfl rfl rfl
  | holdExpiry m => exact event_keepsFloor (exec_holdExpiry m s) h fun _ => .keep rfl rfl rfl rfl rfl
  | warmUpEnd q => exact event_keepsFloor (exec_warmUpEnd q s) h fun _ => endWarmUp_keepsFloor q s
  | portSilenceExpiry q => exact event_keepsFloor (exec_portSilenceExpiry q s) h fun _ => portFallsSilent_keepsFloor q s
  | frameTake => exact event_keepsFloor (exec_frameTake s) h fun _ => takeFrame_keepsFloor s
  | strangerAgeExpiry i => exact event_keepsFloor (exec_strangerAgeExpiry i s) h fun _ => .strangersBecome s _
  | poolWindowExpiry i => exact event_keepsFloor (exec_poolWindowExpiry i s) h fun _ => closeAt_keepsFloor i s
  | entryFading n => exact event_keepsFloor (exec_entryFading n s) h fun _ => fadeEntry_keepsFloor n s
  | entryLost n => exact event_keepsFloor (exec_entryLost n s) h fun _ => loseEntry_keepsFloor n s
  | sweepVisit => exact event_keepsFloor (exec_sweepVisit s) h fun _ => sweepStep_keepsFloor s
  | silentExpiry k =>
    exact event_keepsFloor (exec_silentExpiry k s) h fun _ => .of_floorStep (silentExpires_floorStep k s) fun hd => hd.silentExpires k
  | hotDelayReached n =>
    exact event_keepsFloor (exec_hotDelayReached n s) h fun _ => .of_floorStep (hotReached_floorStep n s) fun hd => hd.hotReached n
  | silenceDebounceExpiry =>
    exact event_keepsFloor (exec_silenceDebounceExpiry s) h fun _ => .of_noneOpens (debounceExpires_noneOpens s) fun hd => hd.debounceExpires
  | blinkBoundary => exact event_keepsFloor (exec_blinkBoundary s) h fun _ => blinkBoundary_keepsFloor s
  | lampFaultDetected m => exact event_keepsFloor (exec_lampFaultDetected m s) h fun _ => lineFault_keepsFloor m true s
  | lampFaultCleared m => exact event_keepsFloor (exec_lampFaultCleared m s) h fun _ => lineFault_keepsFloor m false s
  | senseInputChange => exact next_keepsFloor h (.keep rfl rfl rfl rfl rfl)
  | silenceInputChange high =>
    refine next_keepsFloor h ?_
    split
    · exact fun hs => ⟨hs.clock.keep rfl rfl rfl, hs.slots.withPin high⟩
    · exact fun hs => ⟨hs.clock.keep rfl rfl rfl, hs.slots.repinned _ _⟩
  | waitingCommandStart | commandRefusedBusy | byteComplete =>
    refine next_keepsFloor h ?_
    split <;> exact .keep rfl rfl rfl rfl rfl
  | csNFall | csNRise =>
    refine next_keepsFloor h ?_
    (repeat' split) <;> exact .keep rfl rfl rfl rfl rfl
  | readStrangers => exact command_keepsFloor (exec_readStrangers s) h fun u _ => .refl u
  | readStatus => exact command_keepsFloor (exec_readStatus s) h fun u _ => .refl u
  | unknownCommand code => exact command_keepsFloor (exec_unknownCommand code s) h fun u _ => .refl u
  | readEntry entry => exact command_keepsFloor (exec_readEntry entry s) h fun u _ => onEntry_keepsFloor fun _ _ _ => .refl u
  | findUnit unit => exact command_keepsFloor (exec_findUnit unit s) h fun u _ => found_keepsFloor u _
  | findSeat seat => exact command_keepsFloor (exec_findSeat seat s) h fun u _ => findSeatBody_keepsFloor seat u
  | readAttention position =>
    refine command_keepsFloor (exec_readAttention position s) h fun u _ => ?_
    unfold readAttentionBody
    split <;> exact .refl u
  | readProfile profile =>
    refine command_keepsFloor (exec_readProfile profile s) h fun u _ => ?_
    unfold readProfileBody
    split <;> exact .refl u
  | readTuning item =>
    refine command_keepsFloor (exec_readTuning item s) h fun u _ => ?_
    unfold readTuningBody
    split <;> exact .refl u
  | readLine line =>
    refine command_keepsFloor (exec_readLine line s) h fun u _ => ?_
    unfold readLineBody
    split <;> exact .refl u
  | readPort port =>
    refine command_keepsFloor (exec_readPort port s) h fun u _ => ?_
    unfold readPortBody
    split <;> exact .keep rfl rfl rfl rfl rfl
  | enablePortOn port => exact command_keepsFloor (exec_enablePortOn port s) h fun u _ => enablePortOnBody_keepsFloor port u
  | enablePortOff port value =>
    exact command_keepsFloor (exec_enablePortOff port value s) h fun u _ => enablePortOffBody_keepsFloor port value u
  | stageLine line config =>
    refine command_keepsFloor (exec_stageLine line config s) h fun u _ => ?_
    unfold stageLineBody
    split <;> exact .keep rfl rfl rfl rfl rfl
  | acknowledge kind index cls stamp =>
    refine command_keepsFloor (exec_acknowledge kind index cls stamp s) h fun u _ => ?_
    unfold acknowledgeBody
    (repeat' split) <;> exact .keep rfl rfl rfl rfl rfl
  | applyLines => exact command_keepsFloor (exec_applyLines s) h fun _ _ => .keep rfl rfl rfl rfl rfl
  | ackListed => exact command_keepsFloor (exec_ackListed s) h fun _ _ => .keep rfl rfl rfl rfl rfl
  | enrol unit seat group profile =>
    exact command_keepsFloor (exec_enrol unit seat group profile s) h fun u _ => enrolBody_keepsFloor unit seat group profile u
  | enrolStranger position seat group profile =>
    exact command_keepsFloor (exec_enrolStranger position seat group profile s) h fun u _ =>
      enrolStrangerBody_keepsFloor position seat group profile u
  | retire entry =>
    exact command_keepsFloor (exec_retire entry s) h fun u _ => onEntry_keepsFloor fun n _ _ => retireEntry_keepsFloor n u
  | amendEntry entry seat group profile =>
    exact command_keepsFloor (exec_amendEntry entry seat group profile s) h fun u _ => amendEntryBody_keepsFloor entry seat group profile u
  | grantFloor entry =>
    exact command_keepsFloor (exec_grantFloor entry s) h fun u _ => onEntry_keepsFloor fun n e he =>
      grantBody_keepsFloor (by rw [he]; rfl)
  | revokeFloor entry =>
    exact command_keepsFloor (exec_revokeFloor entry s) h fun u _ => onEntry_keepsFloor fun n _ _ => revokeBody_keepsFloor n u
  | setFloorCapacity capacity =>
    exact command_keepsFloor (exec_setFloorCapacity capacity s) h fun u _ => setFloorCapacityBody_keepsFloor capacity u
  | mute entry =>
    exact command_keepsFloor (exec_mute entry s) h fun u _ => onEntry_keepsFloor fun n _ _ => muteBody_keepsFloor true n u
  | unmute entry =>
    exact command_keepsFloor (exec_unmute entry s) h fun u _ => onEntry_keepsFloor fun n _ _ => muteBody_keepsFloor false n u
  | muteAll => exact command_keepsFloor (exec_muteAll s) h fun u _ => acted_keepsFloor (setAllMuted_keepsFloor true u) _
  | unmuteAll => exact command_keepsFloor (exec_unmuteAll s) h fun u _ => acted_keepsFloor (setAllMuted_keepsFloor false u) _
  | setChair entry => exact command_keepsFloor (exec_setChair entry s) h fun u _ => setChairBody_keepsFloor entry u
  | setProfile profile fields =>
    refine command_keepsFloor (exec_setProfile profile fields s) h fun u _ => ?_
    unfold setProfileBody
    (repeat' split) <;> exact .keep rfl rfl rfl rfl rfl
  | setPortSilenceTime v => exact command_keepsFloor (exec_setPortSilenceTime v s) h fun u _ => setPortSilenceTimeBody_keepsFloor v u
  | setCombiningWindow v => exact command_keepsFloor (exec_setCombiningWindow v s) h fun u _ => .setTuning u _
  | setLostTime v => exact command_keepsFloor (exec_setLostTime v s) h fun u _ => setLostTimeBody_keepsFloor v u
  | setSignalFloor v => exact command_keepsFloor (exec_setSignalFloor v s) h fun u _ => .setTuning u _
  | setSmoothingShift v => exact command_keepsFloor (exec_setSmoothingShift v s) h fun u _ => .setTuning u _
  | setWeakThreshold v =>
    refine command_keepsFloor (exec_setWeakThreshold v s) h fun u _ => ?_
    unfold setWeakThresholdBody
    simp only
    split
    · exact .setTuning u _
    · exact .refl u
  | setPoorThreshold v =>
    refine command_keepsFloor (exec_setPoorThreshold v s) h fun u _ => ?_
    unfold setPoorThresholdBody
    simp only
    split
    · exact .setTuning u _
    · exact .refl u
  | setSilentTime v => exact command_keepsFloor (exec_setSilentTime v s) h fun u _ => .setTuning u _
  | setAutoRevoke v =>
    refine command_keepsFloor (exec_setAutoRevoke v s) h fun u _ => ?_
    unfold setAutoRevokeBody
    split
    · exact .setTuning u _
    · exact .refl u
  | setHotDelay v =>
    exact command_keepsFloor (exec_setHotDelay v s) h fun u _ =>
      acted_keepsFloor ((KeepsFloor.setTuning u _).trans (.forEach judgeHot_keepsFloor _)) _
  | setPriorityFunction v => exact command_keepsFloor (exec_setPriorityFunction v s) h fun u _ => setPriorityFunctionBody_keepsFloor v u
  | setPendingType item v => exact command_keepsFloor (exec_setPendingType item v s) h fun u _ => setPendingTypeBody_keepsFloor item v u
  | setIrqMask v => exact command_keepsFloor (exec_setIrqMask v s) h fun u _ => .setTuning u _
  | setModeRecess value => exact command_keepsFloor (exec_setModeRecess value s) h fun _ hr => setModeRecessBody_keepsFloor value hr
  | setModeSession => exact command_keepsFloor (exec_setModeSession s) h fun _ hr => setModeSessionBody_keepsFloor hr
  | setModeDormant =>
    refine next_keepsFloor h ?_
    split
    · exact .refl s
    · rename_i hr
      exact conclude_keepsFloor (setModeDormantBody_keepsFloor (Bool.eq_false_iff.2 hr)) _
  | chamberReset =>
    exact command_keepsFloor (exec_chamberReset s) h fun u hr => acted_keepsFloor (chamberResetAll_keepsFloor hr.1) _

theorem step_keepsFloor {s t : State} (h : step s = .next t) : KeepsFloor p s t := by
  unfold step at h
  split at h
  · exact next_keepsFloor h (autonomous_keepsFloor s)
  · rename_i rest _
    exact (KeepsFloor.keep (s := s) (t := { s with pending := rest }) rfl rfl rfl rfl rfl).trans (exec_keepsFloor _ h)

end

/-- Settles O58: each operation of the floor arbiter gives slots to holders that keep the laws, and a sitting ends with the floor
emptied. -/
theorem stepsKeepTheFloorLaw : Obligations.StepsKeepTheFloorLaw := fun _ _ hs h =>
  floorLaws_false_iff.1 (step_keepsFloor h (floorLaws_false_iff.2 hs))

/-- Settles O59: whatever the floor arbiter reads of an entry changes only in a handling that derives the entry afresh. -/
theorem stepsKeepSpeakingDerived : Obligations.StepsKeepSpeakingDerived := fun _ _ hs h =>
  floorLaws_true_iff.1 (step_keepsFloor h (floorLaws_true_iff.2 hs))

end Sys2Proof.Machine
end

section
/-! PROOFS. SET_CHAIR: the four steps of a change of designation, and the floor, the timers and the reports they leave (O44). -/

namespace Sys2Proof.Machine

/-! ### The steps -/

/-- A CHAIR hold ends with a change of the designation (R102, step 3). -/
def released (s : State) : State := if s.floor.cause = .chair then endHold s else s

/-- A CHAIR hold begins where the new chair claims (R102, step 4). -/
def claimed (s : State) : State := if s.floor.cause = .none ∧ s.chairClaims = true then beginHold s else s

theorem released_cause (s : State) : (released s).floor.cause = if s.floor.cause = .chair then .none else s.floor.cause := by
  unfold released
  split <;> rfl

/-- The last two steps of a change of designation, by the cause that each finds. -/
theorem claimed_released_eq (t : State) : claimed (released t) =
    let u := match t.floor.cause with
      | .chair => endHold t
      | .none => t
      | .silence => t
    match u.floor.cause with
    | .none => if u.chairClaims then beginHold u else u
    | .chair => u
    | .silence => u := by
  have hend : (endHold t).floor.cause = .none := rfl
  unfold claimed released
  cases hc : t.floor.cause <;> simp [hc, hend]

theorem changeChair_none (s : State) : changeChair none s = claimed (released (designate none s)) :=
  (claimed_released_eq (designate none s)).symm

theorem changeChair_some (n : Fin 200) (s : State) :
    changeChair (some n) s = claimed (released (designate (some n) (prepareChair n s))) :=
  (claimed_released_eq (designate (some n) (prepareChair n s))).symm

theorem claimed_of_no_chair {s : State} (h : s.floor.chair = none) : claimed s = s := by
  have hclaims : s.chairClaims = false := by simp [State.chairClaims, State.chairSpeaking, State.chairKeyOn, h]
  rw [claimed, hclaims]
  exact if_neg fun hc => Bool.false_ne_true hc.2

theorem released_floorStep (s : State) : FloorStep s (released s) := by
  unfold released
  split
  · exact endHold_floorStep s
  · exact .refl s

theorem claimed_floorStep (s : State) : FloorStep s (claimed s) := by
  unfold claimed
  split
  · exact beginHold_floorStep s
  · exact .refl s

/-! ### Slots, timers and what the arbiter reads, through the last two steps -/

/-- The holder of a slot number, live or held (R94, R108). -/
def Floor.holder (f : Floor) (k : Fin 6) : Option (Fin 200) := (f.liveHolder k).or f.held[k]

theorem FloorLaw.derivedBut {s : State} (hs : FloorLaw s) (o : Option (Fin 200)) : DerivedBut False o s := ⟨hs, nofun⟩

theorem DerivedBut.released {p : Prop} {s : State} (h : DerivedBut p none s) : DerivedBut p none (released s) := by
  unfold Machine.released
  split
  · exact h.endHold ‹_›
  · exact h

theorem DerivedBut.claimed {p : Prop} {s : State} (h : DerivedBut p none s) : DerivedBut p none (claimed s) := by
  unfold Machine.claimed
  split
  · rename_i hc
    exact h.beginHold hc.1
  · exact h

theorem endHold_eq (s : State) : endHold s = freedFromHold s s.floor.asserted s.floor.stability := rfl

theorem beginHold_eq (s : State) : beginHold s = heldUnder s s.floor.asserted s.floor.stability .chair := rfl

section
variable {s : State} (hs : FloorLaw s)
include hs

theorem released_live (hc : s.floor.cause = .chair) (k : Fin 6) : (released s).floor.live[k] =
    s.floor.held[k].map fun m => ⟨m, s.tuning.silentTime, (released s).speaking m, false⟩ := by
  rw [released, if_pos hc, endHold_eq]
  exact freedFromHold_live _ _ hs (by rw [hc]; nofun) k

theorem released_held (hc : s.floor.cause = .chair) (k : Fin 6) : (released s).floor.held[k] = none := by
  rw [released, if_pos hc, endHold_eq]
  exact freedFromHold_held _ _ hs (by rw [hc]; nofun) k

theorem released_holder (k : Fin 6) : (released s).floor.holder k = s.floor.holder k := by
  by_cases hc : s.floor.cause = .chair
  · have hcause : s.floor.cause ≠ .none := by rw [hc]; nofun
    have hlive := freedFromHold_holder s.floor.asserted s.floor.stability hs hcause k
    rw [Floor.holder, released_held hs hc, Option.or_none, Floor.holder, hs.liveHolder_empty hcause, Option.none_or, released, if_pos hc,
      endHold_eq, hlive]
  · rw [released, if_neg hc]

/-- The end of a hold derives the hot-mic timers of the returned holders, and no other (R108). -/
theorem released_roster (m : Fin 200) : (released s).roster[m] = s.roster[m].map fun e =>
    if s.floor.cause = .chair ∧ s.floor.heldSlotOf m ≠ none
      then { e with hot := timerDerived ((released s).hotTerms m e) s.tuning.hotDelay e.hot } else e := by
  by_cases hc : s.floor.cause = .chair
  · have hroster := freedFromHold_roster s.floor.asserted s.floor.stability hs (by rw [hc]; nofun) m
    rw [← endHold_eq] at hroster
    simp only [released, hc, if_true, true_and, ne_eq, ite_not]
    exact hroster
  · simp only [released, hc, if_false, false_and, Option.map_id']

theorem released_sameFor {m : Fin 200} (hm : s.floor.heldSlotOf m = none) : SameFor m s (released s) := by
  unfold released
  split
  · rename_i hc
    rw [endHold_eq]
    exact freedFromHold_sameFor _ _ hs (by rw [hc]; nofun) hm
  · exact .refl m s

theorem claimed_holder (k : Fin 6) : (claimed s).floor.holder k = s.floor.holder k := by
  unfold claimed
  split
  · rename_i hc
    rw [beginHold_eq, Floor.holder, heldUnder_holder, heldUnder_held _ _ hs hc.1, Option.none_or, Floor.holder, hs.heldEmpty hc.1,
      Option.or_none]
  · rfl

theorem claimed_sameFor {m : Fin 200} (hm : s.floor.liveSlotOf m = none) : SameFor m s (claimed s) := by
  unfold claimed
  split
  · rename_i hc
    rw [beginHold_eq]
    exact heldUnder_sameFor _ _ hs hc.1 _ hm
  · exact .refl m s

theorem claimed_roster {m : Fin 200} (hm : s.floor.liveSlotOf m = none) : (claimed s).roster[m] = s.roster[m] := by
  unfold claimed
  split
  · rename_i hc
    rw [beginHold_eq, heldUnder_roster _ _ hs]
    simp only [hm, if_true, Option.map_id']
  · rfl

end

/-! ### An entry with no slot -/

/-- An entry holds no slot, live or held, where no slot number is its own. -/
theorem not_slotted_iff {f : Floor} {n : Fin 200} : ¬ f.Slotted n ↔ f.liveSlotOf n = none ∧ f.heldSlotOf n = none := by
  refine ⟨fun h => ⟨liveSlotOf_eq_none.2 fun k hk => ?_, heldSlotOf_none_iff.2 fun k hk => h (.inr ⟨k, hk⟩)⟩, fun h => not_slotted h.1 h.2⟩
  obtain ⟨x, hx, hh⟩ := liveHolder_eq_some.1 hk
  exact h (.inl ⟨k, x, hx, hh⟩)

theorem SameFor.unslotted {n : Fin 200} {s t : State} (h : SameFor n s t) (hn : ¬ s.floor.Slotted n) : ¬ t.floor.Slotted n := by
  rw [not_slotted_iff] at hn ⊢
  obtain ⟨hl, hh⟩ := hn
  have hlive := h.liveSlotOf
  have hheld := h.heldSlotOf
  rw [hl, Option.isSome_none, Option.isSome_eq_false_iff, Option.isNone_iff_eq_none] at hlive
  rw [hh, Option.isNone_none, Option.isNone_iff_eq_none] at hheld
  exact ⟨hlive, hheld⟩

section
variable {s : State} (hs : FloorLaw s) {m : Fin 200} (hm : ¬ s.floor.Slotted m)
include hs hm

/-- The last two steps leave an entry that holds no slot, and what the arbiter reads of it (R108). -/
theorem claimed_released_roster : (claimed (released s)).roster[m] = s.roster[m] := by
  have hnone := not_slotted_iff.1 hm
  have hlaw := (hs.derivedBut none).released.floor
  rw [claimed_roster hlaw (not_slotted_iff.1 ((released_sameFor hs hnone.2).unslotted hm)).1, released_roster hs]
  simp only [hnone.2, ne_eq, not_true_eq_false, and_false, if_false, Option.map_id']

theorem claimed_released_sameFor : SameFor m s (claimed (released s)) := by
  have hsame := released_sameFor hs (not_slotted_iff.1 hm).2
  exact hsame.trans (claimed_sameFor (hs.derivedBut none).released.floor (not_slotted_iff.1 (hsame.unslotted hm)).1)

end

/-! ### The designation -/

theorem designate_floorStep (c : Option (Fin 200)) (s : State) :
    FloorStep { s with floor := { s.floor with chair := c } } (designate c s) := by
  unfold designate
  simp only
  split
  · exact derive_floorStep _ _
  · exact .refl _

theorem designate_cause (c : Option (Fin 200)) (s : State) : (designate c s).floor.cause = s.floor.cause := by
  unfold designate
  simp only
  split
  · exact derive_cause _ _
  · rfl

theorem designate_roster (c : Option (Fin 200)) (s : State) (j : Fin 200) : (designate c s).roster[j] = s.roster[j].map fun e =>
    if s.floor.chair = some j then { e with hot := timerDerived ((designate c s).hotTerms j e) s.tuning.hotDelay e.hot } else e := by
  unfold designate
  simp only
  cases hf : s.floor.chair with
  | none => simp only [reduceCtorEq, if_false, Option.map_id']
  | some m =>
    rw [derive_roster]
    refine congrArg (fun f => s.roster[j].map f) (funext fun e => ?_)
    simp only [derive_hotTerms, Option.some.injEq]
    by_cases h : j = m
    · subst h; rfl
    · rw [if_neg h, if_neg (Ne.symm h)]

/-- The former chair holds no slot, so the floor changes in the designation alone (R102, step 2). -/
theorem designate_floor {c : Option (Fin 200)} {s : State} (hs : FloorLaw s) : (designate c s).floor = { s.floor with chair := c } := by
  unfold designate
  simp only
  cases hf : s.floor.chair with
  | none => rfl
  | some m =>
    have hslot : ({ s with floor := { s.floor with chair := c } } : State).floor.liveSlotOf m = none :=
      (not_slotted_iff.1 (hs.unslotted_of_chair hf)).1
    show (derive m { s with floor := { s.floor with chair := c } }).floor = _
    rw [derive, deriveSlot_none hslot, deriveHot_floor]

/-! ### The end of the handling -/

theorem finish_sameFor (s : State) (m : Fin 200) : SameFor m s (finish s) := .keep (by rw [finish_mode]) (finish_floor s) (finish_roster s) m

theorem answered_speaking (i : Instr) (r : Reply) (u : State) (m : Fin 200) :
    (complete i r (finish u)).speaking m = u.speaking m := (complete_speaking i r _ m).trans (finish_sameFor u m).speaking

theorem answered_hotTerms (i : Instr) (r : Reply) (u : State) (m : Fin 200) (e : Entry) :
    (complete i r (finish u)).hotTerms m e = u.hotTerms m e :=
  (complete_hotTerms i r _ m e).trans ((finish_sameFor u m).hotTerms (e := e) (f := e) rfl)

theorem answered_floor (i : Instr) (r : Reply) (u : State) : (complete i r (finish u)).floor = u.floor := finish_floor u

theorem answered_roster (i : Instr) (r : Reply) (u : State) : (complete i r (finish u)).roster = u.roster := finish_roster u

/-- All that a command of the floor can do to a state before the engine and the lines follow. -/
def FloorChange (s t : State) : Prop := t = { s with roster := t.roster, floor := t.floor, engine := t.engine }

theorem FloorChange.trans {s t u : State} (h₁ : FloorChange s t) (h₂ : FloorChange t u) : FloorChange s u := by
  have hall : ∀ (r : Vector (Option Entry) 200) (f : Floor) (g : Engine), { t with roster := r, floor := f, engine := g } =
      { s with roster := r, floor := f, engine := g } := fun r f g => by rw [h₁]
  exact Eq.trans h₂ (hall _ _ _)

theorem complete_floorChange {s u : State} (h : FloorChange s u) (i : Instr) (r : Reply) : complete i r (finish u) = complete i r { s with
    roster := u.roster, floor := u.floor, engine := (finish u).engine, choice := (finish u).choice, lines := (finish u).lines } := by
  have hmode : ModeStep s u := by
    refine Eq.trans h ?_
    rw [h]
  have hframe := complete_modeStep hmode i r
  have h1 : u.mode = s.mode := by rw [h]
  have h2 : u.clockRunning = s.clockRunning := by rw [h]
  have h3 : u.combiner = s.combiner := by rw [h]
  rw [h1, h2, h3] at hframe
  exact hframe

theorem designate_floorChange (c : Option (Fin 200)) (s : State) : FloorChange s (designate c s) :=
  FloorChange.trans (t := { s with floor := { s.floor with chair := c } }) rfl (designate_floorStep c s).rest

/-! ### SET_CHAIR to none -/

theorem setChair_none {s : State} (hs : Ready s) (hc : s.floor.chair ≠ none) :
    Brings (.setChair 0xFF) s (released (designate none s)) ⟨.ok, []⟩ := by
  refine brings_of hs (exec_setChair _ s) ?_
  have hchange : changeChair none s = released (designate none s) := by
    rw [changeChair_none, claimed_of_no_chair ((released_floorStep _).chair.trans (designate_floorStep none s).chair)]
  rw [setChairBody, if_pos rfl, setChairTo, if_neg hc, hchange]; rfl

theorem setChair_none_again {s : State} (hs : Ready s) (hc : s.floor.chair = none) : OnlyAnswers (.setChair 0xFF) s ⟨.ok, []⟩ := by
  refine onlyAnswers_of hs (exec_setChair _ s) ?_
  rw [setChairBody, if_pos rfl, setChairTo, if_pos hc]; rfl

/-- The removal keeps capacity, key and pin, and ends a CHAIR hold (R102). -/
theorem released_floor (c : Option (Fin 200)) (s : State) : (released (designate c s)).floor = { s.floor with
    live := (released (designate c s)).floor.live, held := (released (designate c s)).floor.held, chair := c
    cause := if s.floor.cause = .chair then .none else s.floor.cause } := by
  have hcause := released_cause (designate c s)
  rw [designate_cause] at hcause
  have hstep := (designate_floorStep c s).trans (released_floorStep _)
  conv_lhs => rw [hstep.floor, hcause]

theorem chairIsRemoved : Claims.ChairIsRemoved := by
  intro m s hready hs hm
  have hlaw : FloorLaw (designate none s) := ((hs.derivedBut none).designate nofun).floor
  have hfloor : (designate none s).floor = { s.floor with chair := none } := designate_floor hs
  have hcause := designate_cause none s
  have htuning : (designate none s).tuning = s.tuning := (designate_floorStep none s).tuning
  have hheldSlot : ∀ n, (designate none s).floor.heldSlotOf n = s.floor.heldSlotOf n := fun n => by rw [hfloor]; rfl
  refine ⟨_, setChair_none hready (by rw [hm]; nofun), fun hc => ?_, fun hc k => ?_, fun n e he => ?_⟩
  · rw [answered_floor, released, if_neg (by rwa [hcause]), hfloor]
    exact ⟨rfl, rfl⟩
  · rw [answered_floor]
    simp only [answered_speaking]
    refine ⟨released_held hlaw (hcause.trans hc) k, ?_⟩
    rw [released_live hlaw (hcause.trans hc), htuning, hfloor]
  · rw [answered_roster, answered_hotTerms, released_roster hlaw, designate_roster, he, hcause, hheldSlot, htuning, hm]
    simp only [Option.map_some, Option.some.injEq]
    by_cases hnm : n = m
    · subst hnm
      have hslot := (not_slotted_iff.1 (hs.unslotted_of_chair hm)).2
      have hsame := released_sameFor hlaw (m := n) ((hheldSlot n).trans hslot)
      simp only [hslot, ne_eq, not_true_eq_false, and_false, if_false, if_true, true_or, hsame.hotTerms (e := e) (f := e) rfl]
      rfl
    · simp only [hnm, Ne.symm hnm, if_false, false_or]
      rfl

/-! ### SET_CHAIR to an entry -/

/-- The state in which the new chair is designated and the former chair derived, before the holds follow (R102, steps 1 and 2). -/
def newlyChaired (n : Fin 200) (s : State) : State := designate (some n) (prepareChair n s)

/-- The number of an entry is not the byte that stands for none (R178). -/
theorem entryNumber_ne_none {b : Byte} {n : Fin 200} (hb : b.toNat = n.1) : b ≠ 0xFF := by
  rintro rfl
  have hlt := n.2
  rw [← hb] at hlt
  exact absurd hlt (by decide)

theorem setChair_some {b : Byte} {n : Fin 200} {e : Entry} {s : State} (hs : Ready s) (hb : b.toNat = n.1) (he : s.roster[n] = some e)
    (hc : s.floor.chair ≠ some n) : Brings (.setChair b) s (claimed (released (newlyChaired n s))) ⟨.ok, []⟩ := by
  refine brings_of hs (exec_setChair b s) ?_
  rw [setChairBody, if_neg (entryNumber_ne_none hb), onEntry_occupied hb he, setChairTo, if_neg hc, changeChair_some]; rfl

theorem setChair_again {b : Byte} {n : Fin 200} {e : Entry} {s : State} (hs : Ready s) (hb : b.toNat = n.1) (he : s.roster[n] = some e)
    (hc : s.floor.chair = some n) : OnlyAnswers (.setChair b) s ⟨.ok, []⟩ := by
  refine onlyAnswers_of hs (exec_setChair b s) ?_
  rw [setChairBody, if_neg (entryNumber_ne_none hb), onEntry_occupied hb he, setChairTo, if_pos hc]; rfl

theorem newlyChaired_chair {n : Fin 200} {s : State} : (newlyChaired n s).floor.chair = some n :=
  (designate_floorStep (some n) (prepareChair n s)).chair

section
variable {n : Fin 200} {e : Entry} {s : State} (he : s.roster[n] = some e)
include he

theorem prepareChair_floorChange : FloorChange s (prepareChair n s) := by
  rw [FloorChange, prepareChair_eq he]

theorem prepareChair_tuning : (prepareChair n s).tuning = s.tuning := by rw [prepareChair_eq he]

theorem newlyChaired_floorChange : FloorChange s (newlyChaired n s) :=
  (prepareChair_floorChange he).trans (designate_floorChange _ _)

theorem prepareChair_chair : (prepareChair n s).floor.chair = s.floor.chair := by rw [prepareChair_eq he]

theorem prepareChair_cause : (prepareChair n s).floor.cause = s.floor.cause := by rw [prepareChair_eq he]

theorem newlyChaired_cause : (newlyChaired n s).floor.cause = s.floor.cause := (designate_cause _ _).trans (prepareChair_cause he)

/-- The new chair's own entry, and every other with the former chair's timer derived afresh (R102). -/
theorem newlyChaired_roster (m : Fin 200) (hm : m ≠ n) : (newlyChaired n s).roster[m] = s.roster[m].map fun f =>
    if s.floor.chair = some m then { f with hot := timerDerived ((newlyChaired n s).hotTerms m f) s.tuning.hotDelay f.hot } else f := by
  rw [newlyChaired, designate_roster, prepareChair_roster he, if_neg (Ne.symm hm), prepareChair_chair he, prepareChair_tuning he]

theorem newlyChaired_own (hc : s.floor.chair ≠ some n) :
    (newlyChaired n s).roster[n] = some { e with muted := false, hot := none } := by
  rw [newlyChaired, designate_roster, prepareChair_roster he, if_pos rfl, prepareChair_chair he]
  simp only [hc, if_false, Option.map_some]

/-- Where the new chair claims the floor once it is designated and a CHAIR hold has ended (R101, R109). -/
theorem newChair_claims (hc : s.floor.chair ≠ some n) :
    ((released (newlyChaired n s)).floor.cause = .none ∧ (released (newlyChaired n s)).chairClaims = true) ↔
      s.floor.cause ≠ .silence ∧ e.switch = .opened ∧ (e.presence = .live ∨ e.presence = .fading) ∧ s.mode = .session ∧
        s.tuning.priority = true := by
  have hstep := released_floorStep (newlyChaired n s)
  have hcause : (released (newlyChaired n s)).floor.cause = .none ↔ s.floor.cause ≠ .silence := by
    rw [released_cause, newlyChaired_cause he]
    cases s.floor.cause <;> simp
  rw [hcause, and_congr_right_iff]
  intro hsilence
  obtain ⟨x, hx⟩ := hstep.entry (newlyChaired_own he hc)
  have hchange := newlyChaired_floorChange he
  have htuning : (released (newlyChaired n s)).tuning = s.tuning := by rw [hstep.tuning, hchange]
  have hmode : (released (newlyChaired n s)).mode = s.mode := by rw [hstep.mode, hchange]
  rw [chairClaims_iff (hstep.chair.trans newlyChaired_chair) (by rw [hcause.2 hsilence]; nofun), hx, htuning, hmode]
  simp only [Option.some.injEq, exists_eq_left']
  exact ⟨fun ⟨hp, hm, hsw, hpr⟩ => ⟨hsw, hpr, hm, hp⟩, fun ⟨hsw, hpr, hm, hp⟩ => ⟨hp, hm, hsw, hpr⟩⟩

/-- The state that SET_CHAIR leaves for the engine, by the terms of the claim (R102, steps 3 and 4). -/
theorem claimed_newChair (hc : s.floor.chair ≠ some n) : claimed (released (newlyChaired n s)) =
    if s.floor.cause ≠ .silence ∧ e.switch = .opened ∧ (e.presence = .live ∨ e.presence = .fading) ∧ s.mode = .session ∧
      s.tuning.priority = true
    then (moveToHeld (released (newlyChaired n s))).setCause .chair else released (newlyChaired n s) := by
  rw [claimed]
  simp only [newChair_claims he hc]
  rfl

end

/-! ### The floor after a new designation -/

section
variable {n : Fin 200} {e : Entry} {s : State} (hs : FloorLaw s) (he : s.roster[n] = some e) (hc : s.floor.chair ≠ some n)

include hs in
theorem prepareChair_floorLaw : FloorLaw (prepareChair n s) := ((hs.derivedBut none).prepareChair n).floor

include hs he in
theorem newlyChaired_floorLaw : FloorLaw (newlyChaired n s) := ((hs.derivedBut none).newChair (by rw [he]; rfl)).floor

include hs in
/-- A new designation empties the new chair's slot, and leaves the other slots (R102). -/
theorem newlyChaired_floor : (newlyChaired n s).floor = { (freeSlot n s).floor with chair := some n } := by
  rw [newlyChaired, designate_floor (prepareChair_floorLaw hs), prepareChair_floor]

include hs in
theorem newlyChaired_live (k : Fin 6) (x : LiveSlot) :
    (newlyChaired n s).floor.live[k] = some x ↔ s.floor.live[k] = some x ∧ x.holder ≠ n := by
  rw [newlyChaired_floor hs]
  exact freeSlot_live hs n k x

include hs in
theorem newlyChaired_held (k : Fin 6) (m : Fin 200) :
    (newlyChaired n s).floor.held[k] = some m ↔ s.floor.held[k] = some m ∧ m ≠ n := by
  rw [newlyChaired_floor hs]
  exact freeSlot_held hs n k m

include hs in
theorem newlyChaired_unslotted {m : Fin 200} (hm : m = n ∨ ¬ s.floor.Slotted m) : ¬ (newlyChaired n s).floor.Slotted m := by
  rintro (⟨k, x, hk, rfl⟩ | ⟨k, hk⟩)
  · obtain ⟨hk, hne⟩ := (newlyChaired_live hs k x).1 hk
    exact hm.elim hne fun h => h (.inl ⟨k, x, hk, rfl⟩)
  · obtain ⟨hk, hne⟩ := (newlyChaired_held hs k m).1 hk
    exact hm.elim hne fun h => h (.inr ⟨k, hk⟩)

include hs in
/-- Under a cause or without one, one of the two collections is empty. -/
theorem FloorLaw.holder_iff (k : Fin 6) (m : Fin 200) :
    s.floor.holder k = some m ↔ s.floor.held[k] = some m ∨ ∃ x : LiveSlot, s.floor.live[k] = some x ∧ x.holder = m := by
  rw [← liveHolder_eq_some, Floor.holder]
  by_cases hcause : s.floor.cause = .none
  · rw [hs.heldEmpty hcause, Option.or_none, or_iff_right nofun]
  · rw [hs.liveHolder_empty hcause, Option.none_or, or_iff_left nofun]

include hs he in
theorem newChair_floorLaw : FloorLaw (claimed (released (newlyChaired n s))) :=
  ((newlyChaired_floorLaw hs he).derivedBut none).released.claimed.floor

include hs he in
/-- The moves of the floor keep slot numbers, so every other holder is left in its own (R108). -/
theorem newChair_holder (k : Fin 6) (m : Fin 200) : (claimed (released (newlyChaired n s))).floor.holder k = some m ↔
    m ≠ n ∧ (s.floor.held[k] = some m ∨ ∃ x : LiveSlot, s.floor.live[k] = some x ∧ x.holder = m) := by
  have hlaw := newlyChaired_floorLaw hs he
  rw [claimed_holder (hlaw.derivedBut none).released.floor, released_holder hlaw, hlaw.holder_iff]
  simp only [newlyChaired_live hs, newlyChaired_held hs]
  constructor
  · rintro (⟨hk, hm⟩ | ⟨x, ⟨hk, hm⟩, rfl⟩)
    · exact ⟨hm, .inl hk⟩
    · exact ⟨hm, .inr ⟨x, hk, rfl⟩⟩
  · rintro ⟨hm, hk | ⟨x, hk, rfl⟩⟩
    · exact .inl ⟨hk, hm⟩
    · exact .inr ⟨x, ⟨hk, hm⟩, rfl⟩

include he hc in
theorem newChair_cause : (claimed (released (newlyChaired n s))).floor.cause = if s.floor.cause = .silence then .silence
    else if e.switch = .opened ∧ (e.presence = .live ∨ e.presence = .fading) ∧ s.mode = .session ∧ s.tuning.priority = true
    then .chair else .none := by
  have hcause := released_cause (newlyChaired n s)
  rw [newlyChaired_cause he] at hcause
  rw [claimed_newChair he hc]
  by_cases hsilence : s.floor.cause = .silence
  · rw [if_neg (fun h => h.1 hsilence), if_pos hsilence, hcause, hsilence]; rfl
  · rw [if_neg hsilence]
    simp only [hsilence, ne_eq, not_false_eq_true, true_and]
    split
    · rfl
    · rw [hcause]
      cases hs : s.floor.cause
      · rfl
      · rfl
      · exact absurd hs hsilence

include hs he hc in
/-- The designation, the slots and the cause are all that changes of the floor (R102). -/
theorem newChair_floor : (claimed (released (newlyChaired n s))).floor = { s.floor with
    live := (claimed (released (newlyChaired n s))).floor.live, held := (claimed (released (newlyChaired n s))).floor.held
    chair := some n
    cause := if s.floor.cause = .silence then .silence
      else if e.switch = .opened ∧ (e.presence = .live ∨ e.presence = .fading) ∧ s.mode = .session ∧ s.tuning.priority = true
      then .chair else .none } := by
  have hstep := (released_floorStep (newlyChaired n s)).trans (claimed_floorStep _)
  have hall : ∀ (l : Vector (Option LiveSlot) 6) (h : Vector (Option (Fin 200)) 6) (c : Cause),
      { (newlyChaired n s).floor with live := l, held := h, cause := c } =
        { s.floor with live := l, held := h, chair := some n, cause := c } := fun l h c => by
    rw [newlyChaired_floor hs, (freeSlot_floorStep n s).floor]
  refine hstep.floor.trans ((hall _ _ _).trans ?_)
  rw [← newChair_cause he hc]

include hs he hc in
theorem newChair_own : (claimed (released (newlyChaired n s))).roster[n] = some { e with muted := false, hot := none } := by
  rw [claimed_released_roster (newlyChaired_floorLaw hs he) (newlyChaired_unslotted hs (.inl rfl)), newlyChaired_own he hc]

include hs he in
/-- An entry that holds no slot: the former chair's timer is derived afresh, and no other (R102). -/
theorem newChair_roster {m : Fin 200} (hm : m ≠ n) (hslot : ¬ s.floor.Slotted m) :
    (claimed (released (newlyChaired n s))).roster[m] = s.roster[m].map fun f => if s.floor.chair = some m then
      { f with hot := timerDerived ((claimed (released (newlyChaired n s))).hotTerms m f) s.tuning.hotDelay f.hot } else f := by
  have hlaw := newlyChaired_floorLaw hs he
  have hunslotted := newlyChaired_unslotted hs (n := n) (.inr hslot)
  have hsame := claimed_released_sameFor hlaw hunslotted
  have hterms : ∀ f, (claimed (released (newlyChaired n s))).hotTerms m f = (newlyChaired n s).hotTerms m f := fun f =>
    hsame.hotTerms (e := f) (f := f) rfl
  rw [claimed_released_roster hlaw hunslotted, newlyChaired_roster he m hm]
  simp only [hterms]

end

/-- Every other holder's entry keeps its fields but the hot-mic timer (R102). -/
theorem newChair_otherEntry {n : Fin 200} {e : Entry} {s : State} (he : s.roster[n] = some e) (m : Fin 200) (hm : m ≠ n) :
    ∃ h, (claimed (released (newlyChaired n s))).roster[m] = s.roster[m].map fun f => { f with hot := h } := by
  have hstep := (designate_floorStep (some n) (prepareChair n s)).trans ((released_floorStep _).trans (claimed_floorStep _))
  obtain ⟨h, hh⟩ := hstep.roster m
  refine ⟨h, hh.trans (congrArg (Option.map _) ?_)⟩
  show (prepareChair n s).roster[m] = s.roster[m]
  rw [prepareChair_roster he, if_neg (Ne.symm hm)]

theorem newChair_floorChange {n : Fin 200} {e : Entry} {s : State} (he : s.roster[n] = some e) :
    FloorChange s (claimed (released (newlyChaired n s))) :=
  (newlyChaired_floorChange he).trans ((released_floorStep _).trans (claimed_floorStep _)).rest

theorem chairIsSet : Claims.ChairIsSet := by
  intro s hready
  refine ⟨setChair_none_again hready, fun hc => ⟨_, setChair_none hready hc, ?_, fun m => ?_, ?_⟩, fun b n e hb he =>
    ⟨setChair_again hready hb he, fun hc hs => ⟨_, setChair_some hready hb he hc, ?_, fun m hm => ?_, fun k x hk => ?_, fun k hk => ?_,
      ?_, ?_⟩⟩⟩
  · rw [answered_floor]; exact released_floor none s
  · rw [answered_roster]; exact ((designate_floorStep none s).trans (released_floorStep _)).roster m
  · simp only [complete_engine, complete_choice, complete_lines]
    rw [answered_roster, answered_floor]
    exact complete_floorChange ((designate_floorChange none s).trans (released_floorStep _).rest) _ _
  · rw [answered_roster]; exact newChair_own hs he hc
  · rw [answered_roster]; exact newChair_otherEntry he m hm
  · rw [answered_floor] at hk
    rintro rfl
    exact (newChair_floorLaw hs he).chairLive k x hk (by rw [newChair_floor hs he hc])
  · rw [answered_floor] at hk
    exact (newChair_floorLaw hs he).chairHeld k n hk (by rw [newChair_floor hs he hc])
  · rw [answered_floor]; exact newChair_floor hs he hc
  · simp only [complete_engine, complete_choice, complete_lines]
    rw [answered_roster, answered_floor]
    exact complete_floorChange (newChair_floorChange he) _ _

theorem newChairIsMadeReady : Claims.NewChairIsMadeReady := by
  intro b n e s hready hs hb he hc
  have hlaw := newlyChaired_floorLaw hs he
  have hfinal := newChair_floorLaw hs he
  have hcause := newlyChaired_cause he
  refine ⟨_, setChair_some hready hb he hc, ?_⟩
  rw [answered_floor, answered_roster]
  simp only [answered_hotTerms, answered_speaking]
  refine ⟨fun hheld k => ?_, fun hfree k => ?_, fun m f hm hf => ?_, fun m hm hchair hl hh => ?_⟩
  · refine ⟨hfinal.liveEmpty hheld k, fun m => ?_⟩
    rw [← newChair_holder hs he, Floor.holder, hfinal.liveHolder_empty hheld, Option.none_or]
  · have hunclaimed : claimed (released (newlyChaired n s)) = released (newlyChaired n s) := by
      rw [claimed, if_neg]
      intro hclaims
      rw [claimed, if_pos hclaims] at hfree
      cases hfree
    rw [hunclaimed] at hfree ⊢
    refine ⟨?_, fun hnone x => ?_, fun hchair x => ?_⟩
    · exact (hlaw.derivedBut none).released.floor.heldEmpty hfree k
    · rw [released, if_neg (by rw [hcause, hnone]; nofun)]
      exact newlyChaired_live hs k x
    · have htuning : (newlyChaired n s).tuning = s.tuning := by rw [newlyChaired_floorChange he]
      rw [released_live hlaw (hcause.trans hchair), htuning, Option.map_eq_some_iff]
      simp only [newlyChaired_held hs]
      exact exists_congr fun m => ⟨fun ⟨⟨hk, hm⟩, hx⟩ => ⟨hm, hk, hx.symm⟩, fun ⟨hm, hk, hx⟩ => ⟨⟨hk, hm⟩, hx.symm⟩⟩
  · have hmn : m ≠ n := by rintro rfl; exact hc hm
    rw [newChair_roster hs he hmn (hs.unslotted_of_chair hm), hf, Option.map_some, if_pos hm]; rfl
  · rw [newChair_roster hs he hm (not_slotted hl hh)]
    simp only [hchair, if_false, Option.map_id']

/-! ### The reports -/

theorem chairStepsAreReported : Claims.ChairStepsAreReported := by
  intro s hready
  refine ⟨fun m y hm hy => ?_, fun b n e x y z hb he hc hx hy hz => ?_⟩
  · have hdesignated : designate none s = y := by
      rw [hy, designate, hm]
    have hbrings := setChair_none hready (by rw [hm]; nofun)
    rw [hdesignated, released, ← hdesignated, designate_cause, hdesignated] at hbrings
    exact hbrings
  · have hdesignated : newlyChaired n s = y := by
      rw [hy, hx, newlyChaired, designate, prepareChair_chair he, prepareChair_eq he]
    have hreleased : released (newlyChaired n s) = z := by
      rw [hz, released, newlyChaired_cause he, hdesignated]; rfl
    have hbrings := setChair_some hready hb he hc
    rw [claimed_newChair he hc, hreleased] at hbrings
    exact hbrings

/-- Settles O44: a change of designation is its four steps, each with a rule for the slots, for the timers and for what the arbiter reads
of an entry that the step does not move. -/
theorem chairIsDesignated : Obligations.ChairIsDesignated :=
  ⟨chairIsSet, chairIsRemoved, newChairIsMadeReady, chairStepsAreReported⟩

end Sys2Proof.Machine
end

section
/-! PROOFS. What each of the engine's operations leaves of the STANDING warnings and of the warnings of a sitting (O60). -/

namespace Sys2Proof.Machine

/-! ### Warnings that stay or change their state -/

/-- A raise leaves a warning STANDING only where it was. -/
theorem raise_standing {g : Engine} {id : WarnId} {r : WarnRecord} (h : r ∈ (g.raise id).warnings) (hr : r.state = .standing) :
    r ∈ g.warnings := by
  have hput : ∀ x : Stamp, r ∈ putRecord ⟨id, .raised, x⟩ g.warnings → r ∈ g.warnings := fun x hx =>
    (mem_putRecord_sub hx).resolve_left fun e => by rw [e] at hr; cases hr
  unfold Engine.raise at h
  split at h
  · exact hput _ h
  · exact hput _ h
  · exact h
  · exact h

/-- A clear brings no record but the STANDING one of its own warning, where the type is LATCHED (R121). -/
theorem clear_standing {g : Engine} {ty : PendingType} {id : WarnId} {r : WarnRecord} (h : r ∈ (g.clear ty id).warnings) :
    r ∈ g.warnings ∨ r.id = id ∧ ty = .latched := by
  have hdrop : r ∈ (g.drop id).warnings → r ∈ g.warnings := fun hx => (List.mem_filter.1 hx).1
  unfold Engine.clear at h
  split at h
  · split at h
    · rw [Engine.leave_warnings] at h
      exact .inl (hdrop h)
    · exact (mem_putRecord_sub h).elim (fun e => .inr ⟨by rw [e], rfl⟩) .inl
  · exact .inl (hdrop h)
  · exact .inl h
  · exact .inl h

/-- An acknowledged warning is NOTED or QUIET, and every other is as it was (R128). -/
theorem acknowledge_warnings_sub {g : Engine} {q r : WarnRecord} (h : r ∈ (g.acknowledge q).warnings) :
    r ∈ g.warnings ∨ r.id = q.id ∧ r.state = .noted := by
  unfold Engine.acknowledge at h
  split at h
  · rename_i q' hq
    rw [Engine.leave_warnings] at h
    exact (mem_putRecord_sub h).elim (fun e => .inr (e ▸ acknowledgedRecord_id hq)) .inl
  · rw [Engine.leave_warnings] at h
    exact .inl (List.mem_filter.1 h).1

/-- The warnings that ACK_LISTED takes are NOTED or QUIET, and every other is as it was (R130). -/
theorem acknowledgeListed_warnings_sub {g : Engine} {r : WarnRecord} (h : r ∈ g.acknowledgeListed.warnings) :
    r ∈ g.warnings ∨ (∃ q ∈ g.warnings, r.id = q.id) ∧ r.state = .noted := by
  have hwarn : g.acknowledgeListed.warnings = g.warnings.filterMap g.listTaken := Engine.readmitMany_warnings _ _
  rw [hwarn] at h
  obtain ⟨q, hq, hr⟩ := List.mem_filterMap.1 h
  unfold Engine.listTaken at hr
  split at hr
  · exact .inr ⟨⟨q, hq, (acknowledgedRecord_id hr).1⟩, (acknowledgedRecord_id hr).2⟩
  · cases hr; exact .inl hq

/-! ### What the laws read of the engine -/

/-- The laws of the engine read its warnings and its list alone. -/
theorem AttentionLaw.congr {g h : Engine} (hg : AttentionLaw g) (hw : h.warnings = g.warnings) (ha : h.attention = g.attention) :
    AttentionLaw h := by
  obtain ⟨w, a, c, p⟩ := h
  subst hw ha
  exact ⟨hg.keys, hg.short, hg.once, hg.pending, hg.ordered, hg.full, hg.lowest⟩

/-- Only classes that are LATCHED have a STANDING warning (R121, R122). -/
def Engine.standsOnly (g : Engine) (p : PendingTypes) : Prop :=
  ∀ r ∈ g.warnings, r.state = .standing → pendingTypeOf p r.id.cls = .latched

/-- There is no warning of a sitting (R127). -/
def Engine.unseated (g : Engine) : Prop := g.lacks fun w => w.cls.sitting = true

theorem warningLaw_iff {s : State} :
    WarningLaw s ↔ s.engine.standsOnly s.tuning.pendingTypes ∧ (s.mode ≠ .session → s.engine.unseated) :=
  ⟨fun h => ⟨h.standing, fun hm r hr => ne_of_eq_of_ne (h.sitting hm r hr) Bool.false_ne_true⟩,
    fun h => ⟨h.1, fun hm r hr => Bool.eq_false_iff.2 (h.2 hm r hr)⟩⟩

/-- The law of the warnings reads the warnings, the pending types and whether there is a sitting. -/
theorem WarningLaw.carry {s t : State} (h : WarningLaw s) (hw : t.engine.warnings = s.engine.warnings)
    (ht : t.tuning.pendingTypes = s.tuning.pendingTypes) (hm : t.mode ≠ .session → s.mode ≠ .session) : WarningLaw t :=
  ⟨by rw [hw, ht]; exact h.standing, fun hmt => by rw [hw]; exact h.sitting (hm hmt)⟩

/-- An engine in which no warning becomes STANDING, and none comes up that was QUIET. -/
theorem WarningLaw.withEngine {s : State} (h : WarningLaw s) {g : Engine}
    (hstand : ∀ r ∈ g.warnings, r.state = .standing → r ∈ s.engine.warnings)
    (hsub : ∀ r ∈ g.warnings, ∃ q ∈ s.engine.warnings, r.id = q.id) : WarningLaw { s with engine := g } :=
  ⟨fun r hr hst => h.standing r (hstand r hr hst) hst, fun hm r hr => by
    obtain ⟨q, hq, e⟩ := hsub r hr
    rw [e]; exact h.sitting hm q hq⟩

/-! ### The taking of acts -/

theorem takeReport_standsOnly {s : State} (h : s.engine.standsOnly s.tuning.pendingTypes) (id : WarnId) (v : Bool) :
    (s.takeReport id v).engine.standsOnly s.tuning.pendingTypes := by
  unfold State.takeReport
  split
  · intro r hr hst
    cases v with
    | true => exact h r (raise_standing hr hst) hst
    | false =>
      rcases clear_standing hr with hr | ⟨e, hty⟩
      · exact h r hr hst
      · rw [e]; exact hty
  · exact h

theorem quietAll_standsOnly {g : Engine} {p : PendingTypes} (h : g.standsOnly p) (sel : WarnRecord → Bool) :
    (g.quietAll sel).standsOnly p := fun r hr => by
  rw [quietAll_warnings] at hr
  exact h r (List.mem_filter.1 hr).1

theorem applyAct_standsOnly {s : State} (h : s.engine.standsOnly s.tuning.pendingTypes) (a : Act) :
    (applyAct s a).engine.standsOnly s.tuning.pendingTypes := by
  have htwice : ∀ {u : State} (a b : WarnId) (v w : Bool), u.engine.standsOnly u.tuning.pendingTypes →
      ((u.takeReport a v).takeReport b w).engine.standsOnly u.tuning.pendingTypes := fun {u} a b v w hu => by
    have htuning : (u.takeReport a v).tuning = u.tuning := by rw [(takeReport_engineStep u a v).rest]
    have hone := takeReport_standsOnly hu a v
    rw [← htuning] at hone ⊢
    exact takeReport_standsOnly hone b w
  cases a with
  | report id v => exact takeReport_standsOnly h id v
  | both id₁ v₁ id₂ v₂ =>
    unfold applyAct
    simp only
    split
    · exact htwice (u := { s with choice := s.choice + 1 }) _ _ _ _ h
    · exact htwice (u := { s with choice := s.choice + 1 }) _ _ _ _ h
  | quietCells n => exact quietAll_standsOnly h _
  | quietEntry n => exact quietAll_standsOnly h _
  | quietSitting => exact quietAll_standsOnly h _

/-- Taking what is posted makes STANDING only warnings of LATCHED classes (R121, R122). -/
theorem takeReports_standsOnly {s : State} (h : s.engine.standsOnly s.tuning.pendingTypes) :
    s.takeReports.engine.standsOnly s.tuning.pendingTypes := by
  refine (takeReports_induct (P := fun u => u.tuning = s.tuning ∧ u.engine.standsOnly s.tuning.pendingTypes) ⟨rfl, h⟩
    fun q _ u hu => ?_).2
  have htuning : (applyAct u q.act).tuning = u.tuning := by rw [(applyAct_engineStep u q.act).rest]
  obtain ⟨hut, hu⟩ := hu
  rw [← hut] at hu ⊢
  exact ⟨htuning, applyAct_standsOnly hu q.act⟩

/-- Taking acts that raise no warning of a sitting brings none (R127). -/
theorem takeReports_unseated {s : State} (h : s.engine.unseated) (hp : NoSittingRaised s) : s.takeReports.engine.unseated :=
  takeReports_induct (P := fun u => u.engine.unseated) h fun q hq _ hu => applyAct_lacks hu _ fun w hw _ hsit => by
    rw [hp q hq w hw] at hsit; cases hsit

end Sys2Proof.Machine
end

section
/-! PROOFS. Within a handling: the laws of the engine, and reports that raise no warning of a sitting outside SESSION; that each
operation of the blocks keeps them (O60). -/

namespace Sys2Proof.Machine

/-! ### The laws within a handling -/

/-- The laws of the engine, and where it is asked for (`p`) the law of the warnings. -/
structure Warned (p : Prop) (s : State) : Prop where
  list : AttentionLaw s.engine
  warned : p → WarningLaw s

/-- The laws in the midst of a handling: what waits for the engine raises no warning of a sitting outside SESSION. -/
structure Reporting (p : Prop) (s : State) : Prop where
  laws : Warned p s
  posts : p → s.mode ≠ .session → NoSittingRaised s

/-- A change of state that keeps the laws of a handling. -/
def KeepsReports (p : Prop) (s t : State) : Prop := Reporting p s → Reporting p t

section
variable {p : Prop} {s t u : State}

theorem NoSittingRaised.of_none (h : s.engine.posted = []) : NoSittingRaised s := fun _ hq => absurd (h ▸ hq) List.not_mem_nil

/-- What is posted beside earlier acts raises nothing. -/
theorem NoSittingRaised.of_posts (hs : NoSittingRaised s)
    (h : ∀ q ∈ t.engine.posted, q ∈ s.engine.posted ∨ ∀ w, ¬ q.act.raises w) : NoSittingRaised t := fun q hq w hw =>
  (h q hq).elim (fun hq => hs q hq w hw) fun hno => absurd hw (hno w)

theorem not_raises_false (id w : WarnId) : ¬ (Act.report id false).raises w := fun h => Bool.false_ne_true h.2

/-- The laws stand where the warnings, the list and the pending types stand, and no sitting ends. -/
theorem Warned.carry (h : Warned p s) (hw : t.engine.warnings = s.engine.warnings) (ha : t.engine.attention = s.engine.attention)
    (ht : t.tuning.pendingTypes = s.tuning.pendingTypes) (hm : t.mode ≠ .session → s.mode ≠ .session) : Warned p t :=
  ⟨h.list.congr hw ha, fun hp => (h.warned hp).carry hw ht hm⟩

theorem Warned.reporting (h : Warned p s) (hn : s.engine.posted = []) : Reporting p s := ⟨h, fun _ _ => .of_none hn⟩

/-- Taking what is posted keeps the laws (R118, R121, R127). -/
theorem Reporting.takeReports (h : Reporting p s) : Warned p s.takeReports where
  list := takeReports_law h.laws.list
  warned hp := by
    obtain ⟨hstands, hseats⟩ := warningLaw_iff.1 (h.laws.warned hp)
    rw [warningLaw_iff, takeReports_tuning, takeReports_mode]
    exact ⟨takeReports_standsOnly hstands, fun hm => takeReports_unseated (hseats hm) (h.posts hp hm)⟩

namespace KeepsReports

theorem refl (s : State) : KeepsReports p s s := id

theorem trans (h₁ : KeepsReports p s t) (h₂ : KeepsReports p t u) : KeepsReports p s u := h₂ ∘ h₁

/-- The engine and the pending types stand, and no sitting ends. -/
theorem keep (he : t.engine = s.engine) (hm : t.mode ≠ .session → s.mode ≠ .session)
    (ht : t.tuning.pendingTypes = s.tuning.pendingTypes) : KeepsReports p s t := fun h =>
  ⟨h.laws.carry (by rw [he]) (by rw [he]) ht hm, fun hp hmt q hq => h.posts hp (hm hmt) q (he ▸ hq)⟩

/-- The handling of a sighting, of an age or of a reading leaves all but what is posted. -/
theorem of_entryStep (h : EntryStep s t) (hn : p → s.mode ≠ .session → NoSittingRaised s → NoSittingRaised t) : KeepsReports p s t :=
  fun hs => ⟨hs.laws.carry h.warnings h.attention (by rw [h.tuning]) (by rw [h.mode]; exact id), fun hp hm => by
    rw [h.mode] at hm
    exact hn hp hm (hs.posts hp hm)⟩

theorem of_floorStep (h : FloorStep s t) (hn : p → s.mode ≠ .session → NoSittingRaised s → NoSittingRaised t) : KeepsReports p s t :=
  .of_entryStep h.entryStep hn

/-- The floor arbiter reports nothing true outside SESSION. -/
theorem of_calm (h : FloorStep s t) (hc : s.mode ≠ .session → Calm s t) : KeepsReports p s t :=
  .of_floorStep h fun _ hm hn => hn.calm (hc hm)

theorem post (s : State) (b : Block) {a : Act} (ha : p → s.mode ≠ .session → ∀ w, a.raises w → w.cls.sitting = false) :
    KeepsReports p s (s.post b a) :=
  .of_floorStep (.post s b a) fun hp hm hn => hn.post b (ha hp hm)

/-- A condition of no sitting is reported. -/
theorem postChange (s : State) (b : Block) {id : WarnId} (hid : id.cls.sitting = false) (old new : Bool) :
    KeepsReports p s (s.postChange b id old new) :=
  .of_floorStep (.postChange s b id old new) fun _ _ hn => hn.postChange b old new hid

/-- A condition is reported false. -/
theorem postFalse (s : State) (b : Block) (id : WarnId) (old : Bool) : KeepsReports p s (s.postChange b id old false) :=
  .of_calm (.postChange s b id old false) fun _ => postChange_false_calm s b id old

/-- A condition of a sitting does not change outside SESSION. -/
theorem postSitting (s : State) (b : Block) (id : WarnId) {old new : Bool} (h : s.mode ≠ .session → old = new) :
    KeepsReports p s (s.postChange b id old new) :=
  .of_floorStep (.postChange s b id old new) fun _ hm hn => by rw [h hm, State.postChange_same]; exact hn

theorem forList {α : Type} {f : α → State → State} (hf : ∀ a t, KeepsReports p t (f a t)) (l : List α) (s : State) :
    KeepsReports p s (forList f l s) :=
  forList_induct (P := KeepsReports p s) l s (.refl s) fun a _ t ht => ht.trans (hf a t)

theorem forEach {n : Nat} {f : Fin n → State → State} (hf : ∀ a t, KeepsReports p t (f a t)) (s : State) :
    KeepsReports p s (forEach f s) :=
  .forList hf (List.finRange n) s

theorem takeReports (s : State) : KeepsReports p s s.takeReports := fun h => h.takeReports.reporting (takeReports_posted s)

theorem setSlot (s : State) (n : Fin 200) (e : Option Entry) : KeepsReports p s (s.setSlot n e) := .keep rfl id rfl

theorem setPort (s : State) (q : Fin 4) (x : AntennaPort) : KeepsReports p s (s.setPort q x) := .keep rfl id rfl

theorem setCombiner (s : State) (c : Combiner) : KeepsReports p s { s with combiner := c } := .keep rfl id rfl

theorem setFloor (s : State) (f : Floor) : KeepsReports p s { s with floor := f } := .keep rfl id rfl

theorem setLines (s : State) (l : Lines) : KeepsReports p s { s with lines := l } := .keep rfl id rfl

theorem portBecomes (s : State) (q : Fin 4) (x : AntennaPort) : KeepsReports p s (s.portBecomes q x) :=
  (KeepsReports.setPort s q x).trans (.postChange _ _ rfl _ _)

theorem strangersBecome (s : State) (v : Vector (Option Stranger) 8) : KeepsReports p s (s.strangersBecome v) :=
  (KeepsReports.setCombiner s _).trans (.postChange _ _ rfl _ _)

end KeepsReports

end

section
variable {p : Prop}

/-! ### The floor arbiter -/

theorem derive_keepsReports (n : Fin 200) (s : State) : KeepsReports p s (derive n s) :=
  .of_calm (derive_floorStep n s) fun hm => derive_calm hm n

theorem floorTakes_keepsReports (n : Fin 200) (s : State) : KeepsReports p s (floorTakes n s) :=
  .of_calm (floorTakes_floorStep n s) fun hm => floorTakes_calm hm n

theorem followClaim_keepsReports (s : State) : KeepsReports p s (followClaim s) := .of_calm (followClaim_floorStep s) followClaim_calm

theorem endHold_keepsReports (s : State) : KeepsReports p s (endHold s) := .of_calm (endHold_floorStep s) endHold_calm

theorem setCause_keepsReports (c : Cause) (s : State) : KeepsReports p s (s.setCause c) := .keep rfl id rfl

theorem withhold_keepsReports (x : LiveSlot) (s : State) : KeepsReports p s (withhold x s) :=
  (KeepsReports.postFalse s _ _ _).trans (derive_keepsReports x.holder _)

theorem moveToHeld_keepsReports (s : State) : KeepsReports p s (moveToHeld s) :=
  (KeepsReports.setFloor s _).trans (.forList withhold_keepsReports _ (withheld s))

theorem beginHold_keepsReports (s : State) : KeepsReports p s (beginHold s) :=
  (moveToHeld_keepsReports s).trans (setCause_keepsReports _ _)

theorem freeSlot_keepsReports (n : Fin 200) (s : State) : KeepsReports p s (freeSlot n s) :=
  .of_floorStep (freeSlot_floorStep n s) fun _ _ hn => hn.of_posts fun _ hq =>
    (freeSlot_posted hq).imp_right fun e w => by rw [e]; exact not_raises_false _ w

theorem stopHot_keepsReports (n : Fin 200) (s : State) : KeepsReports p s (stopHot n s) :=
  .of_floorStep (stopHot_floorStep n s) fun _ _ hn => hn.of_posts fun q hq => (stopHot_onlyEnds n s q hq).imp_right endsSitting_raises

theorem revoke_keepsReports (n : Fin 200) (s : State) : KeepsReports p s (revoke n s) :=
  (freeSlot_keepsReports n s).trans (derive_keepsReports n _)

/-- The debounced level changes, and the cause with it (R110, R111). -/
theorem debounceExpires_keepsReports (s : State) : KeepsReports p s (debounceExpires s) := by
  have hkeyed : ∀ a, KeepsReports p s (s.keyed a 0) := fun a => .keep rfl id rfl
  cases hkey : s.floor.asserted with
  | false =>
    rw [debounceExpires_asserted hkey]
    refine (hkeyed true).trans (?_ : KeepsReports p _ (silenceAsserted (s.keyed true 0)))
    unfold silenceAsserted
    split
    · exact (moveToHeld_keepsReports _).trans (setCause_keepsReports _ _)
    · exact setCause_keepsReports _ _
    · exact setCause_keepsReports _ _
  | true =>
    rw [debounceExpires_released hkey]
    refine (hkeyed false).trans (?_ : KeepsReports p _ (silenceReleased (s.keyed false 0)))
    unfold silenceReleased
    split
    · exact setCause_keepsReports _ _
    · exact endHold_keepsReports _

theorem setMuted_keepsReports (v : Bool) (n : Fin 200) (s : State) : KeepsReports p s (setMuted v n s) := by
  unfold setMuted
  split
  · exact .refl s
  · split
    · exact .refl s
    · exact (KeepsReports.setSlot s _ _).trans (derive_keepsReports n _)

theorem setAllMuted_keepsReports (v : Bool) (s : State) : KeepsReports p s (setAllMuted v s) := by
  refine .forEach (fun n t => ?_) s
  split
  · exact .refl t
  · exact setMuted_keepsReports v n t

theorem clearMute_keepsReports (n : Fin 200) (s : State) : KeepsReports p s (clearMute n s) := by
  unfold clearMute
  split
  · exact .refl s
  · exact .setSlot s _ _

theorem designate_keepsReports (c : Option (Fin 200)) (s : State) : KeepsReports p s (designate c s) := by
  have hchair : KeepsReports p s { s with floor := { s.floor with chair := c } } := .keep rfl id rfl
  unfold designate
  simp only
  split
  · exact hchair.trans (derive_keepsReports _ _)
  · exact hchair

/-- The four steps of a new designation (R102). -/
theorem changeChair_keepsReports (c : Option (Fin 200)) (s : State) : KeepsReports p s (changeChair c s) := by
  have hready : KeepsReports p s (match c with
      | some n => prepareChair n s
      | none => s) := by
    split
    · exact ((freeSlot_keepsReports _ s).trans (clearMute_keepsReports _ _)).trans (stopHot_keepsReports _ _)
    · exact .refl s
  have hhold : ∀ t : State, KeepsReports p t (match t.floor.cause with
      | .chair => endHold t
      | .none => t
      | .silence => t) := fun t => by
    split
    · exact endHold_keepsReports t
    · exact .refl t
    · exact .refl t
  have hclaim : ∀ t : State, KeepsReports p t (match t.floor.cause with
      | .none => if t.chairClaims then beginHold t else t
      | .chair => t
      | .silence => t) := fun t => by
    split
    · split
      · exact beginHold_keepsReports t
      · exact .refl t
    · exact .refl t
    · exact .refl t
  exact ((hready.trans (designate_keepsReports c _)).trans (hhold _)).trans (hclaim _)

/-! ### The timers of the floor -/

/-- Outside SESSION there is no live slot whose silent timer could expire (R114). -/
theorem silentExpires_keepsReports {s : State} (hs : p → FloorLaws True s) (k : Fin 6) : KeepsReports p s (silentExpires k s) :=
  .of_floorStep (silentExpires_floorStep k s) fun hp hm hn => by
    have hempty : s.floor.live[k] = none := ((hs hp).slots.floor.sitting hm k).1
    unfold silentExpires
    rw [hempty]
    exact hn

/-- Outside SESSION no hot-mic timer runs (R106). -/
theorem FloorLaws.stopped {s : State} (hs : FloorLaws True s) (hm : s.mode ≠ .session) {n : Fin 200} {e : Entry}
    (he : s.roster[n] = some e) : e.hot = none := by
  have hhot := (hs.slots.derived trivial n nofun).hot e he
  rw [hotTerms_outside hm] at hhot
  exact Option.isNone_iff_eq_none.1 (by rw [← Option.not_isSome, hhot]; rfl)

theorem hotReached_stopped {s : State} {n : Fin 200} (h : ∀ e : Entry, s.roster[n] = some e → e.hot = none) : hotReached n s = s := by
  unfold hotReached
  split
  · rename_i e he
    rw [h e he]
  · rfl

theorem hotReached_keepsReports {s : State} (hs : p → FloorLaws True s) (n : Fin 200) : KeepsReports p s (hotReached n s) :=
  .of_floorStep (hotReached_floorStep n s) fun hp hm hn => by
    rw [hotReached_stopped fun e he => (hs hp).stopped hm he]
    exact hn

theorem judgeHot_floorStep (n : Fin 200) (s : State) : FloorStep s (judgeHot n s) := by
  unfold judgeHot
  split
  · exact hotReached_floorStep n s
  · exact .refl s

theorem judgeHot_stopped {s : State} {n : Fin 200} (h : ∀ e : Entry, s.roster[n] = some e → e.hot = none) : judgeHot n s = s := by
  unfold judgeHot
  split
  · exact hotReached_stopped h
  · rfl

/-- A new hot delay finds no timer running outside SESSION (R106, R107). -/
theorem judgeHots_keepsReports {s : State} (hs : p → FloorLaws True s) : KeepsReports p s (forEach judgeHot s) :=
  .of_floorStep (.forEach judgeHot_floorStep s) fun hp hm hn => by
    have hsame : forEach judgeHot s = s := forEach_induct (P := fun t => t = s) s rfl fun n t ht => by
      rw [ht]
      exact judgeHot_stopped fun e he => (hs hp).stopped hm he
    rw [hsame]
    exact hn

/-! ### Observations and the pool -/

theorem closeAt_keepsReports (i : Fin 12) (s : State) : KeepsReports p s (closeAt i s) :=
  .of_entryStep (closeAt_entryStep i s) fun _ hm hn => closeAt_noSitting hm i hn

theorem coverageTest_keepsReports (i : Fin 12) (s : State) : KeepsReports p s (coverageTest i s) := by
  unfold coverageTest
  split
  · split
    · exact closeAt_keepsReports i s
    · exact .refl s
  · exact .refl s

theorem recheckCoverage_keepsReports (s : State) : KeepsReports p s (recheckCoverage s) := .forList closeAt_keepsReports _ s

theorem recheckAfterDisable_keepsReports (was : PortState) (s : State) : KeepsReports p s (recheckAfterDisable was s) := by
  unfold recheckAfterDisable
  split
  · exact recheckCoverage_keepsReports s
  · exact .refl s

theorem makeRoom_keepsReports (s : State) : KeepsReports p s (makeRoom s) := by
  unfold makeRoom
  split
  · exact .refl s
  · split
    · exact closeAt_keepsReports _ s
    · exact .refl s

/-- A pool position is written, and its coverage tested. -/
theorem setPool_keepsReports (i : Fin 12) (x : Option PoolEntry) (s : State) : KeepsReports p s (coverageTest i (s.setPool i x)) :=
  (KeepsReports.setCombiner s _).trans (coverageTest_keepsReports i _)

theorem openPool_keepsReports (n : Fin 200) (x : Sighting) (s : State) : KeepsReports p s (openPool n x s) := by
  unfold openPool
  simp only
  split
  · exact (makeRoom_keepsReports s).trans (setPool_keepsReports _ _ _)
  · exact makeRoom_keepsReports s

theorem takeEnrolled_keepsReports (n : Fin 200) (x : Sighting) (s : State) : KeepsReports p s (takeEnrolled n x s) := by
  unfold takeEnrolled
  split
  · split
    · split
      · exact setPool_keepsReports _ _ s
      · split
        · exact (closeAt_keepsReports _ s).trans (openPool_keepsReports _ _ _)
        · exact .refl s
    · exact .refl s
  · split
    · split
      · exact openPool_keepsReports _ _ s
      · exact .refl s
    · exact .refl s

theorem takeFrame_keepsReports (s : State) : KeepsReports p s (takeFrame s) := by
  unfold takeFrame
  split
  · exact .refl s
  · rename_i q _
    split
    · exact .refl s
    · rename_i rest _
      refine KeepsReports.trans (t := s.afterTaking q rest) (.keep rfl id rfl) ?_
      simp only
      split
      · unfold takeSighting
        split
        · exact takeEnrolled_keepsReports _ _ _
        · exact .strangersBecome _ _
      · exact .refl _

/-! ### Ports -/

theorem portFallsSilent_keepsReports (q : Fin 4) (s : State) : KeepsReports p s (portFallsSilent q s) :=
  (KeepsReports.portBecomes s _ _).trans (recheckCoverage_keepsReports _)

theorem endWarmUp_keepsReports (q : Fin 4) (s : State) : KeepsReports p s (endWarmUp q s) := by
  unfold endWarmUp
  split
  · exact .setPort s _ _
  · exact portFallsSilent_keepsReports q s

theorem judgeSilence_keepsReports (s : State) : KeepsReports p s (judgeSilence s) := by
  have hsilent : ∀ l : List (Fin 4), KeepsReports p s
      (forList (fun q s => s.portBecomes q { s.ports[q] with state := .silent }) l s) := fun l => .forList (fun _ _ => .portBecomes _ _ _) l s
  unfold judgeSilence
  simp only
  split
  · exact hsilent _
  · exact (hsilent _).trans (recheckCoverage_keepsReports _)

/-! ### The roster -/

theorem sigLostCond_outside {m : Mode} (hm : m ≠ .session) (e : Entry) : sigLostCond m e = false := by
  rw [sigLostCond, beq_eq_false_iff_ne.2 hm, Bool.false_and]

theorem sigWeakCond_outside {m : Mode} (hm : m ≠ .session) (e : Entry) : sigWeakCond m e = false := by
  rw [sigWeakCond, beq_eq_false_iff_ne.2 hm, Bool.false_and]

theorem fadeEntry_keepsReports (n : Fin 200) (s : State) : KeepsReports p s (fadeEntry n s) := by
  unfold fadeEntry
  split
  · exact .refl s
  · exact (KeepsReports.setSlot s _ _).trans (floorTakes_keepsReports n _)

/-- An entry's loss is reported in SESSION alone (R56). -/
theorem loseEntry_keepsReports (n : Fin 200) (s : State) : KeepsReports p s (loseEntry n s) := by
  unfold loseEntry
  split
  · exact .refl s
  · refine (((KeepsReports.setSlot s n _).trans (.postSitting _ _ _ fun hm => ?_)).trans (.postSitting _ _ _ fun hm => ?_)).trans
      (floorTakes_keepsReports n _)
    · rw [sigLostCond_outside hm, sigLostCond_outside hm]
    · rw [sigWeakCond_outside hm, sigWeakCond_outside hm]

theorem judgeAge_keepsReports (n : Fin 200) (s : State) : KeepsReports p s (judgeAge n s) := by
  unfold judgeAge
  split
  · exact .refl s
  · split
    · exact loseEntry_keepsReports n s
    · split
      · exact fadeEntry_keepsReports n s
      · exact .refl s

/-- Reports put in subject order are the reports that were posted. -/
theorem inSubjectOrder_keepsReports (s : State) : KeepsReports p s (inSubjectOrder s) := fun h =>
  ⟨h.laws.carry rfl rfl rfl id, fun hp hm => (h.posts hp hm).of_posts fun _ hq => .inl ((List.perm_insertionSort _ _).subset hq)⟩

theorem reclassifyEntry_keepsReports (n : Fin 200) (s : State) : KeepsReports p s (reclassifyEntry n s) := by
  unfold reclassifyEntry
  split
  · exact .refl s
  · exact (KeepsReports.setSlot s _ _).trans (.of_floorStep (postBattery_floorStep _ _ _ _) fun _ _ hn => hn.postBattery _ _ _)

theorem sweepStep_keepsReports (s : State) : KeepsReports p s (sweepStep s) := by
  unfold sweepStep
  split
  · exact .keep rfl id rfl
  · rename_i w _
    refine KeepsReports.trans (t := { s with sweep := w.advanced, sweepDue := false }) (.keep rfl id rfl) ?_
    unfold visitSlot
    split
    · split
      · exact reclassifyEntry_keepsReports _ _
      · exact .refl _
    · exact .refl _

theorem amend_keepsReports (n : Fin 200) (e : Entry) (seat : Nat) (group : Fin 8) (profile : Fin 4) (s : State) :
    KeepsReports p s (amend n e seat group profile s) := by
  unfold amend
  simp only
  split
  · exact .setSlot s _ _
  · exact (KeepsReports.setSlot s _ _).trans (reclassifyEntry_keepsReports n _)

theorem enrolAt_keepsReports (n : Fin 200) (unit : UnitId) (seat : Nat) (group : Fin 8) (profile : Fin 4) (s : State) :
    KeepsReports p s (enrolAt n unit seat group profile s) := by
  have hslot : KeepsReports p s (s.setSlot n (some (Entry.fresh unit seat group profile))) := .setSlot s _ _
  unfold enrolAt State.forgetStranger
  split
  · exact hslot.trans (.strangersBecome _ _)
  · exact hslot

/-- A retirement frees a slot, may end a hold, and has the entry's warnings quieted (R46, R47). -/
theorem retireEntry_keepsReports (n : Fin 200) (s : State) : KeepsReports p s (retireEntry n s) := by
  have hvacated : KeepsReports p s (vacated n s) :=
    ((KeepsReports.setCombiner s _).trans (freeSlot_keepsReports n (dropPool n s))).trans
      ((KeepsReports.setSlot _ n none).trans (.setFloor _ _))
  rw [retireEntry_eq]
  refine KeepsReports.trans ?_ (.post _ _ fun _ _ _ => False.elim)
  split
  · exact hvacated.trans (endHold_keepsReports _)
  · exact hvacated

/-! ### The lines -/

theorem lineFault_keepsReports (m : Fin 16) (v : Bool) (s : State) : KeepsReports p s (lineFault m v s) :=
  (KeepsReports.setLines s _).trans (.postChange _ _ rfl _ _)

/-- A commit reports conditions of lines, which the engine takes in its midst (R149). -/
theorem commit_keepsReports (s : State) : KeepsReports p s (commit s) := by
  unfold commit
  refine ((KeepsReports.setLines s _).trans (KeepsReports.trans (.forEach (fun m t => ?_) _) (.takeReports _))).trans (.setLines _ _)
  split
  · exact .postChange _ _ rfl _ _
  · exact .refl t

theorem blinkBoundary_keepsReports (s : State) : KeepsReports p s (blinkBoundary s) := by
  have htaken : KeepsReports p s { s with lines := { s.lines with boundaryDue := false } } := .keep rfl id rfl
  unfold blinkBoundary
  simp only
  split
  · exact htaken.trans (commit_keepsReports _)
  · exact htaken

/-! ### Modes and resets -/

theorem wake_keepsReports {s : State} (hm : s.mode = .dormant) : KeepsReports p s (wake s) :=
  .keep rfl (fun _ => by rw [hm]; nofun) rfl

theorem wakeIfDormant_keepsReports (s : State) : KeepsReports p s (wakeIfDormant s) := by
  unfold wakeIfDormant
  split
  · exact wake_keepsReports ‹_›
  · exact .refl s
  · exact .refl s

/-- A frame on a line wakes a DORMANT part (R163). -/
theorem judgeFrame_keepsReports (q : Fin 4) (f : List Byte) (s : State) : KeepsReports p s (judgeFrame q f s) := by
  unfold judgeFrame
  split
  · split
    · exact (wake_keepsReports ‹_›).trans (.portBecomes _ _ _)
    · exact .portBecomes _ _ _
    · exact .portBecomes _ _ _
  · exact .setPort s _ _

/-- A sitting begins: any warning of it may be raised from now on (R127, R159). -/
theorem enterSession_keepsReports (s : State) : KeepsReports p s (enterSession s) :=
  (KeepsReports.keep (s := s) (t := s.setMode .session) rfl (fun hm => absurd rfl hm) rfl).trans
    (.of_floorStep (enterSession_floorStep s) fun _ hm => absurd rfl hm)

/-- A sitting ends with its four classes quieted, whatever order the reports are taken in (R127, R159). -/
theorem leaveSession_takeReports {s : State} (h : Warned p s) (hn : s.engine.posted = []) : Warned p (leaveSession s).takeReports := by
  have hstep := leaveSession_floorStep s
  refine ⟨takeReports_law (h.list.congr hstep.warnings hstep.attention), fun hp => ?_⟩
  have hstands : (leaveSession s).engine.standsOnly (leaveSession s).tuning.pendingTypes := by
    rw [hstep.tuning]
    exact fun r hr => (h.warned hp).standing r (hstep.warnings ▸ hr)
  rw [warningLaw_iff, takeReports_tuning]
  exact ⟨takeReports_standsOnly hstands, fun _ => leaveSession_lacks (leaveSession_ends hn)⟩

theorem recessEffects_reporting {s : State} (h : Warned p s) (hn : s.engine.posted = []) : Reporting p (recessEffects s) := by
  unfold recessEffects
  split
  · exact (leaveSession_takeReports h hn).reporting (takeReports_posted _)
  · exact h.reporting hn
  · exact h.reporting hn

theorem enterDormant_warned {s : State} (h : Warned p s) (hn : s.engine.posted = []) : Warned p (enterDormant s) := by
  have hclosed : Reporting p (closeAll (recessEffects s)) :=
    KeepsReports.forList closeAt_keepsReports _ _ (recessEffects_reporting h hn)
  refine hclosed.takeReports.carry rfl rfl rfl fun _ => ?_
  rw [takeReports_mode, (closeAll_noneOpens _).mode]
  exact recessEffects_not_session s

/-- The engine after a reset keeps every law (R137). -/
theorem warned_of_engineReset {s : State} (h : s.engine = Engine.reset) : Warned p s := by
  refine ⟨h ▸ reset_engineLaw.laws, fun _ => ⟨fun r hr => ?_, fun _ r hr => ?_⟩⟩
  · rw [h] at hr; cases hr
  · rw [h] at hr; cases hr

end

end Sys2Proof.Machine
end

section
/-! PROOFS. Every step keeps the laws of the warning engine and its list: the commands, the rows and the steps (O60). -/

namespace Sys2Proof.Machine

/-! ### Pending types by item -/

/-- The items of the six configurable classes (section 11.8). -/
def pendingItems : List (Nat × WClass) :=
  [(12, .sigLost), (13, .battCritical), (14, .receiverSilent), (15, .sigWeak), (16, .hotMic), (17, .battLow)]

theorem pendingItemClass_some {item : Byte} {c : WClass} (h : pendingItemClass item = some c) : (item.toNat, c) ∈ pendingItems := by
  unfold pendingItemClass at h
  split at h <;> simp_all [pendingItems]

/-- A configurable class has the type it is given, and every other class its own (R122). -/
theorem pendingTypeOf_withType {k : Nat} {c : WClass} (hc : (k, c) ∈ pendingItems) (p : PendingTypes) (ty : PendingType) (d : WClass) :
    pendingTypeOf (p.withType c ty) d = if d = c then ty else pendingTypeOf p d := by
  simp only [pendingItems, List.mem_cons, Prod.mk.injEq, List.not_mem_nil, or_false] at hc
  obtain ⟨-, rfl⟩ | ⟨-, rfl⟩ | ⟨-, rfl⟩ | ⟨-, rfl⟩ | ⟨-, rfl⟩ | ⟨-, rfl⟩ := hc <;> cases d <;> rfl

theorem standingOf_iff {c : WClass} {r : WarnRecord} : standingOf c r = true ↔ r.id.cls = c ∧ r.state = .standing := by
  simp [standingOf]

/-- A class whose type does not change from LATCHED keeps all its warnings within the laws (R121, R122). -/
theorem Engine.standsOnly.withType {g : Engine} {p : PendingTypes} (h : g.standsOnly p) {k : Nat} {c : WClass}
    (hc : (k, c) ∈ pendingItems) {ty : PendingType} (hty : pendingTypeOf p c = .latched → ty = .latched) : g.standsOnly (p.withType c ty) :=
  fun r hr hst => by
    have hold := h r hr hst
    rw [pendingTypeOf_withType hc]
    split
    · rename_i hrc
      rw [hrc] at hold
      exact hty hold
    · exact hold

/-- A class that becomes SELF_CLEARING is left without a STANDING warning (R122). -/
theorem Engine.standsOnly.cleared {g : Engine} {p : PendingTypes} (h : g.standsOnly p) {k : Nat} {c : WClass}
    (hc : (k, c) ∈ pendingItems) (ty : PendingType) : (g.quietAll (standingOf c)).standsOnly (p.withType c ty) := fun r hr hst => by
  rw [quietAll_warnings] at hr
  obtain ⟨hr, hkept⟩ := List.mem_filter.1 hr
  have hne : r.id.cls ≠ c := fun hrc => by rw [standingOf_iff.2 ⟨hrc, hst⟩] at hkept; cases hkept
  rw [pendingTypeOf_withType hc, if_neg hne]
  exact h r hr hst

/-! ### Between handlings -/

section
variable {p : Prop} {s t u : State}

/-- The laws between handlings: nothing waits for the engine. -/
structure Watched (p : Prop) (s : State) : Prop where
  laws : Warned p s
  taken : s.engine.posted = []

theorem watched_iff : Watched p s ↔ EngineLaw s ∧ (p → WarningLaw s) :=
  ⟨fun h => ⟨⟨h.taken, h.laws.list⟩, h.laws.warned⟩, fun h => ⟨⟨h.1.laws, h.2⟩, h.1.taken⟩⟩

theorem Watched.reporting (h : Watched p s) : Reporting p s := h.laws.reporting h.taken

/-- A change of state that keeps the laws between handlings. -/
def KeepsWatched (p : Prop) (s t : State) : Prop := Watched p s → Watched p t

namespace KeepsWatched

theorem refl (s : State) : KeepsWatched p s s := id

theorem trans (h₁ : KeepsWatched p s t) (h₂ : KeepsWatched p t u) : KeepsWatched p s u := h₂ ∘ h₁

theorem keep (he : t.engine = s.engine) (hm : t.mode ≠ .session → s.mode ≠ .session)
    (ht : t.tuning.pendingTypes = s.tuning.pendingTypes) : KeepsWatched p s t := fun h =>
  ⟨h.laws.carry (by rw [he]) (by rw [he]) ht hm, he ▸ h.taken⟩

end KeepsWatched

/-- The end of a handling leaves the laws as the taking of the acts leaves them. -/
theorem Warned.finish (h : Warned p t.takeReports) : Watched p (finish t) := by
  refine ⟨h.carry (by rw [finish_engine]) (by rw [finish_engine]) ?_ ?_, finish_posted t⟩
  · rw [finish_tuning, takeReports_tuning]
  · rw [finish_mode, takeReports_mode]; exact id

theorem KeepsReports.finish (h : KeepsReports p s t) : KeepsWatched p s (finish t) := fun hs => (h hs.reporting).takeReports.finish

theorem Warned.takeReports (h : Warned p s) (hn : s.engine.posted = []) : Warned p s.takeReports := by rwa [takeReports_eq_self hn]

/-! ### Handlings -/

/-- What a handling owes to the laws: an answer leaves the engine and what its laws read, and an effect keeps the laws once the engine
has taken what is posted. -/
def Handling.KeepsWarned (p : Prop) (s : State) : Handling → Prop
  | .answered t _ => t.engine = s.engine ∧ t.mode = s.mode ∧ t.tuning.pendingTypes = s.tuning.pendingTypes
  | .acted t _ => Watched p s → Warned p t.takeReports

namespace Handling.KeepsWarned

theorem same (s : State) (r : Reply) : (Handling.answered s r).KeepsWarned p s := ⟨rfl, rfl, rfl⟩

theorem refused (s : State) (st : Status) (n : Nat) : (refuse s st n).KeepsWarned p s := ⟨rfl, rfl, rfl⟩

/-- A setting that is stored for later, and no pending type. -/
theorem stored (s : State) (x : Tuning) (r : Reply) (hx : x.pendingTypes = s.tuning.pendingTypes) :
    (Handling.answered (s.setTuning x) r).KeepsWarned p s := ⟨rfl, rfl, hx⟩

theorem acted (h : KeepsReports p s t) (r : Reply) : (Handling.acted t r).KeepsWarned p s := fun hs => (h hs.reporting).takeReports

/-- A command that acts on the engine alone posts nothing, and needs only keep the laws. -/
theorem engine {g : Engine} (h : Watched p s → Warned p { s with engine := g }) (hn : g.posted = s.engine.posted) (r : Reply) :
    (Handling.acted { s with engine := g } r).KeepsWarned p s := fun hs => (h hs).takeReports (hn.trans hs.taken)

end Handling.KeepsWarned

theorem conclude_keepsWatched {h : Handling} (hs : h.KeepsWarned p s) (i : Instr) : KeepsWatched p s (h.conclude i) := by
  cases h with
  | answered t r =>
    obtain ⟨he, hm, ht⟩ := hs
    exact .keep (t := complete i r t) he (fun hc => hm ▸ hc) ht
  | acted t r => exact fun hw => KeepsWatched.keep (s := finish t) (t := complete i r (finish t)) rfl id rfl (hs hw).finish

theorem next_keepsWatched (h : (.next u : Host.Outcome State Fault Refusal) = .next t) (hu : KeepsWatched p s u) : KeepsWatched p s t := by
  cases h; exact hu

/-- An event keeps the laws if its effect does. -/
theorem event_keepsWatched {i : Instr} {due : Bool} {f : State → State} (he : exec i s = occur due f s) (h : exec i s = .next t)
    (hf : KeepsReports p s (f s)) : KeepsWatched p s t := by
  refine next_keepsWatched (he.symm.trans h) ?_
  split
  · exact .refl s
  · exact hf.finish

theorem wakeIfDormant_engine (s : State) : (wakeIfDormant s).engine = s.engine := by
  unfold wakeIfDormant
  split <;> rfl

/-- A command keeps the laws if its body does in a part that is awake. -/
theorem command_keepsWatched {i : Instr} {body : State → Handling} (he : exec i s = runCommand i body s) (h : exec i s = .next t)
    (hf : p → FloorLaws True s) (hb : ∀ u, (p → FloorLaws True u) → (body u).KeepsWarned p u) : KeepsWatched p s t := by
  refine next_keepsWatched (he.symm.trans h) ?_
  split
  · exact .refl s
  · rename_i hr
    have hr : s.inReset = false := Bool.eq_false_iff.2 hr
    have hwake : KeepsWatched p s (wakeIfDormant s) := fun hs =>
      ⟨(wakeIfDormant_keepsReports s hs.reporting).laws, (congrArg Engine.posted (wakeIfDormant_engine s)).trans hs.taken⟩
    exact hwake.trans (conclude_keepsWatched (hb _ fun hp => wakeIfDormant_keepsFloor hr (hf hp)) i)

theorem onEntry_keepsWarned {entry : Byte} {len : Nat} {f : Fin 200 → Entry → Handling} (hf : ∀ n e, (f n e).KeepsWarned p s) :
    (onEntry entry len f s).KeepsWarned p s := by
  unfold onEntry
  split
  · exact .refused s _ _
  · split
    · exact .refused s _ _
    · exact hf _ _

end

/-! ### Commands -/

section
variable {p : Prop}

theorem setTuning_keepsReports (s : State) (x : Tuning) (hx : x.pendingTypes = s.tuning.pendingTypes) : KeepsReports p s (s.setTuning x) :=
  .keep rfl id hx

theorem enrolBody_keepsWarned (unit : UnitId) (seat group profile : Byte) (s : State) :
    (enrolBody unit seat group profile s).KeepsWarned p s := by
  unfold enrolBody
  split
  · exact .refused s _ _
  · split
    · exact .refused s _ _
    · split
      · exact .refused s _ _
      · split
        · exact .refused s _ _
        · split
          · exact .refused s _ _
          · exact .acted (enrolAt_keepsReports _ _ _ _ _ s) _

theorem enrolStrangerBody_keepsWarned (position seat group profile : Byte) (s : State) :
    (enrolStrangerBody position seat group profile s).KeepsWarned p s := by
  unfold enrolStrangerBody
  split
  · split
    · exact .refused s _ _
    · split
      · exact .refused s _ _
      · split
        · exact .refused s _ _
        · exact .acted (enrolAt_keepsReports _ _ _ _ _ s) _
  · exact .refused s _ _

theorem found_keepsWarned (s : State) (n : Option (Fin 200)) : (found s n).KeepsWarned p s := by
  cases n
  · exact .refused s _ _
  · exact .same s _

theorem amendEntryBody_keepsWarned (entry seat group profile : Byte) (s : State) :
    (amendEntryBody entry seat group profile s).KeepsWarned p s := by
  unfold amendEntryBody
  split
  · exact .refused s _ _
  · refine onEntry_keepsWarned fun n e => ?_
    split
    · exact .refused s _ _
    · exact .acted (amend_keepsReports n e _ _ _ s) _

theorem grantBody_keepsWarned (n : Fin 200) (s : State) : (grantBody n s).KeepsWarned p s := by
  unfold grantBody
  split
  · exact .refused s _ _
  · split
    · exact .refused s _ _
    · split
      · exact .refused s _ _
      · split
        · exact .same s _
        · split
          · exact .refused s _ _
          · exact .acted ((KeepsReports.setFloor s _).trans (derive_keepsReports n _)) _

theorem revokeBody_keepsWarned (n : Fin 200) (s : State) : (revokeBody n s).KeepsWarned p s := by
  unfold revokeBody
  split
  · exact .refused s _ _
  · exact .acted (revoke_keepsReports n s) _

theorem muteBody_keepsWarned (v : Bool) (n : Fin 200) (s : State) : (muteBody v n s).KeepsWarned p s := by
  unfold muteBody
  split
  · exact .refused s _ _
  · exact .acted (setMuted_keepsReports v n s) _

theorem setChairTo_keepsWarned (c : Option (Fin 200)) (s : State) : (setChairTo c s).KeepsWarned p s := by
  unfold setChairTo
  split
  · exact .same s _
  · exact .acted (changeChair_keepsReports c s) _

theorem setChairBody_keepsWarned (entry : Byte) (s : State) : (setChairBody entry s).KeepsWarned p s := by
  unfold setChairBody
  split
  · exact setChairTo_keepsWarned none s
  · exact onEntry_keepsWarned fun n _ => setChairTo_keepsWarned (some n) s

theorem enablePortOnBody_keepsWarned (port : Byte) (s : State) : (enablePortOnBody port s).KeepsWarned p s := by
  unfold enablePortOnBody
  split
  · exact .refused s _ _
  · split
    · exact .same s _
    · exact .acted (.portBecomes s _ _) _

theorem enablePortOffBody_keepsWarned (port value : Byte) (s : State) : (enablePortOffBody port value s).KeepsWarned p s := by
  unfold enablePortOffBody
  split
  · exact .refused s _ _
  · split
    · exact .refused s _ _
    · split
      · exact .acted ((KeepsReports.portBecomes s _ _).trans (recheckAfterDisable_keepsReports _ _)) _
      · exact .same s _

theorem setPortSilenceTimeBody_keepsWarned (v : BitVec 32) (s : State) : (setPortSilenceTimeBody v s).KeepsWarned p s := by
  unfold setPortSilenceTimeBody
  simp only
  split
  · exact .same s _
  · exact .acted ((setTuning_keepsReports s _ (by rfl)).trans (judgeSilence_keepsReports _)) _

theorem setLostTimeBody_keepsWarned (v : BitVec 32) (s : State) : (setLostTimeBody v s).KeepsWarned p s := by
  unfold setLostTimeBody
  simp only
  split
  · exact .same s _
  · exact .acted (((setTuning_keepsReports s _ (by rfl)).trans (.forEach judgeAge_keepsReports _)).trans (inSubjectOrder_keepsReports _)) _

/-- The threshold is stored, or it is refused (R83). -/
theorem setWeakThresholdBody_keepsWarned (v : BitVec 32) (s : State) : (setWeakThresholdBody v s).KeepsWarned p s := by
  unfold setWeakThresholdBody
  simp only
  split
  · exact .stored s _ _ rfl
  · exact .refused s _ _

theorem setPoorThresholdBody_keepsWarned (v : BitVec 32) (s : State) : (setPoorThresholdBody v s).KeepsWarned p s := by
  unfold setPoorThresholdBody
  simp only
  split
  · exact .stored s _ _ rfl
  · exact .refused s _ _

theorem setAutoRevokeBody_keepsWarned (v : BitVec 32) (s : State) : (setAutoRevokeBody v s).KeepsWarned p s := by
  unfold setAutoRevokeBody
  split
  · exact .stored s _ _ rfl
  · exact .refused s _ _

theorem setHotDelayBody_keepsWarned (v : BitVec 32) {s : State} (hs : p → FloorLaws True s) : (setHotDelayBody v s).KeepsWarned p s :=
  .acted ((setTuning_keepsReports s _ (by rfl)).trans (judgeHots_keepsReports fun hp => KeepsFloor.setTuning s _ (hs hp))) _

theorem setPriorityFunctionBody_keepsWarned (v : BitVec 32) (s : State) : (setPriorityFunctionBody v s).KeepsWarned p s := by
  unfold setPriorityFunctionBody
  split
  · exact .acted ((setTuning_keepsReports s _ (by rfl)).trans (followClaim_keepsReports _)) _
  · exact .refused s _ _

/-- A new pending type is stored, and only a change from LATCHED to SELF_CLEARING reaches the engine (R122). -/
theorem changePendingType_eq (c : WClass) (ty : PendingType) (s : State) : changePendingType c ty s = { s with
    tuning := { s.tuning with pendingTypes := s.tuning.pendingTypes.withType c ty }
    engine := if pendingTypeOf s.tuning.pendingTypes c = .latched ∧ ty = .selfClearing then s.engine.quietAll (standingOf c)
      else s.engine } := by
  unfold changePendingType
  cases pendingTypeOf s.tuning.pendingTypes c <;> cases ty <;> simp [State.setTuning]

theorem changePendingType_posted (c : WClass) (ty : PendingType) (s : State) :
    (changePendingType c ty s).engine.posted = s.engine.posted := by
  rw [changePendingType_eq]
  split
  · exact Engine.quietAll_posted _ _
  · rfl

/-- A new pending type leaves STANDING only the warnings of LATCHED classes (R122). -/
theorem changePendingType_warned {k : Nat} {c : WClass} (hc : (k, c) ∈ pendingItems) (ty : PendingType) {s : State} (h : Warned p s) :
    Warned p (changePendingType c ty s) := by
  rw [changePendingType_eq]
  split
  · refine ⟨quietAll_law h.list _, fun hp => ?_⟩
    obtain ⟨hstands, hseats⟩ := warningLaw_iff.1 (h.warned hp)
    exact warningLaw_iff.2 ⟨hstands.cleared hc _, fun hm => quietAll_lacks (hseats hm) _⟩
  · rename_i hty
    refine ⟨h.list, fun hp => ?_⟩
    obtain ⟨hstands, hseats⟩ := warningLaw_iff.1 (h.warned hp)
    refine warningLaw_iff.2 ⟨hstands.withType hc fun hlatched => ?_, hseats⟩
    cases ty with
    | latched => rfl
    | selfClearing => exact absurd ⟨hlatched, rfl⟩ hty

theorem setPendingTypeBody_keepsWarned (item : Byte) (v : BitVec 32) (s : State) : (setPendingTypeBody item v s).KeepsWarned p s := by
  unfold setPendingTypeBody
  split
  · rename_i c ty hc _
    exact fun hs => (changePendingType_warned (pendingItemClass_some hc) ty hs.laws).takeReports
      ((changePendingType_posted c ty s).trans hs.taken)
  · exact .refused s _ _

/-- An acknowledgement makes no warning STANDING and brings up none (R128). -/
theorem acknowledgeBody_keepsWarned (kind index cls : Byte) (stamp : Stamp) (s : State) :
    (acknowledgeBody kind index cls stamp s).KeepsWarned p s := by
  unfold acknowledgeBody
  split
  · exact .refused s _ _
  · split
    · exact .refused s _ _
    · rename_i q hfind
      split
      · exact .refused s _ _
      · split
        · exact .refused s _ _
        · rename_i hnoted _
          refine .engine (fun hs => ⟨acknowledge_law hs.laws.list hnoted, fun hp => ?_⟩)
            (Engine.acknowledge_posted _ _) _
          refine (hs.laws.warned hp).withEngine (fun r hr hst => ?_) fun r hr => ?_
          · refine (acknowledge_warnings_sub hr).resolve_right fun h => ?_
            rw [hst] at h; cases h.2
          · exact (acknowledge_warnings_sub hr).elim (fun h => ⟨r, h, rfl⟩) fun h => ⟨q, (Engine.find_some hfind).1, h.1⟩

theorem ackListedBody_keepsWarned (s : State) : (ackListedBody s).KeepsWarned p s := by
  refine .engine (fun hs => ⟨acknowledgeListed_law hs.laws.list, fun hp => ?_⟩) (Engine.acknowledgeListed_posted _) _
  refine (hs.laws.warned hp).withEngine (fun r hr hst => ?_) fun r hr => ?_
  · refine (acknowledgeListed_warnings_sub hr).resolve_right fun h => ?_
    rw [hst] at h; cases h.2
  · exact (acknowledgeListed_warnings_sub hr).elim (fun h => ⟨r, h, rfl⟩) fun h => h.1

/-! ### Modes -/

theorem setModeRecessBody_keepsWarned (value : Byte) (s : State) : (setModeRecessBody value s).KeepsWarned p s := by
  unfold setModeRecessBody
  split
  · exact .refused s _ _
  · split
    · exact fun hs => leaveSession_takeReports hs.laws hs.taken
    · exact .same s _
    · exact .same s _

theorem setModeSessionBody_keepsWarned (s : State) : (setModeSessionBody s).KeepsWarned p s := by
  unfold setModeSessionBody
  split
  · exact .acted (enterSession_keepsReports s) _
  · exact .same s _
  · exact .acted (enterSession_keepsReports s) _

theorem setModeDormantBody_keepsWarned (s : State) : (setModeDormantBody s).KeepsWarned p s := by
  have hstops : ∀ r, (Handling.acted (enterDormant s) r).KeepsWarned p s := fun r hs =>
    (enterDormant_warned hs.laws hs.taken).takeReports (takeReports_posted _)
  unfold setModeDormantBody
  split
  · exact hstops _
  · exact hstops _
  · exact .same s _

theorem chamberReset_keepsWarned (s : State) (r : Reply) : (Handling.acted (chamberResetAll s) r).KeepsWarned p s := fun _ =>
  (warned_of_engineReset rfl).takeReports rfl

/-! ### Each row -/

/-- Every row keeps the laws, on a floor that keeps its own where the law of the warnings is asked for. -/
theorem exec_keepsWatched (i : Instr) {s t : State} (hf : p → FloorLaws True s) (h : exec i s = .next t) : KeepsWatched p s t := by
  cases i with
  | deviceReset => exact next_keepsWatched h fun _ => ⟨warned_of_engineReset rfl, rfl⟩
  | resetEnd =>
    refine next_keepsWatched h ?_
    split
    · rename_i hr
      refine fun hs => ⟨⟨hs.laws.list, fun hp => ?_⟩, hs.taken⟩
      exact (hs.laws.warned hp).carry (t := endReset s) rfl rfl fun _ => by rw [(hf hp).clock.reset hr]; nofun
    · exact .refl s
  | frameComplete q b => exact event_keepsWatched (exec_frameComplete q b s) h (judgeFrame_keepsReports q _ s)
  | characterComplete q b => exact event_keepsWatched (exec_characterComplete q b s) h (.keep rfl id rfl)
  | stopBitMissing q => exact event_keepsWatched (exec_stopBitMissing q s) h (.keep rfl id rfl)
  | byteGapTimeout q => exact event_keepsWatched (exec_byteGapTimeout q s) h (.keep rfl id rfl)
  | frameGapReject q => exact event_keepsWatched (exec_frameGapReject q s) h (.keep rfl id rfl)
  | answerSent q => exact event_keepsWatched (exec_answerSent q s) h (.keep rfl id rfl)
  | resyncIdle q => exact event_keepsWatched (exec_resyncIdle q s) h (.keep rfl id rfl)
  | holdExpiry m => exact event_keepsWatched (exec_holdExpiry m s) h (.keep rfl id rfl)
  | warmUpEnd q => exact event_keepsWatched (exec_warmUpEnd q s) h (endWarmUp_keepsReports q s)
  | portSilenceExpiry q => exact event_keepsWatched (exec_portSilenceExpiry q s) h (portFallsSilent_keepsReports q s)
  | frameTake => exact event_keepsWatched (exec_frameTake s) h (takeFrame_keepsReports s)
  | strangerAgeExpiry i => exact event_keepsWatched (exec_strangerAgeExpiry i s) h (.strangersBecome s _)
  | poolWindowExpiry i => exact event_keepsWatched (exec_poolWindowExpiry i s) h (closeAt_keepsReports i s)
  | entryFading n => exact event_keepsWatched (exec_entryFading n s) h (fadeEntry_keepsReports n s)
  | entryLost n => exact event_keepsWatched (exec_entryLost n s) h (loseEntry_keepsReports n s)
  | sweepVisit => exact event_keepsWatched (exec_sweepVisit s) h (sweepStep_keepsReports s)
  | silentExpiry k => exact event_keepsWatched (exec_silentExpiry k s) h (silentExpires_keepsReports hf k)
  | hotDelayReached n => exact event_keepsWatched (exec_hotDelayReached n s) h (hotReached_keepsReports hf n)
  | silenceDebounceExpiry => exact event_keepsWatched (exec_silenceDebounceExpiry s) h (debounceExpires_keepsReports s)
  | blinkBoundary => exact event_keepsWatched (exec_blinkBoundary s) h (blinkBoundary_keepsReports s)
  | lampFaultDetected m => exact event_keepsWatched (exec_lampFaultDetected m s) h (lineFault_keepsReports m true s)
  | lampFaultCleared m => exact event_keepsWatched (exec_lampFaultCleared m s) h (lineFault_keepsReports m false s)
  | senseInputChange => exact next_keepsWatched h (.keep rfl id rfl)
  | silenceInputChange high =>
    refine next_keepsWatched h ?_
    split <;> exact .keep rfl id rfl
  | waitingCommandStart | commandRefusedBusy | byteComplete =>
    refine next_keepsWatched h ?_
    split <;> exact .keep rfl id rfl
  | csNFall | csNRise =>
    refine next_keepsWatched h ?_
    (repeat' split) <;> exact .keep rfl id rfl
  | readStrangers => exact command_keepsWatched (exec_readStrangers s) h hf fun u _ => .same u _
  | readStatus => exact command_keepsWatched (exec_readStatus s) h hf fun u _ => .same u _
  | unknownCommand code => exact command_keepsWatched (exec_unknownCommand code s) h hf fun u _ => .same u _
  | readEntry entry =>
    exact command_keepsWatched (exec_readEntry entry s) h hf fun u _ => onEntry_keepsWarned fun _ _ => .same u _
  | findUnit unit => exact command_keepsWatched (exec_findUnit unit s) h hf fun u _ => found_keepsWarned u _
  | findSeat seat =>
    refine command_keepsWatched (exec_findSeat seat s) h hf fun u _ => ?_
    unfold findSeatBody
    split
    · exact .refused u _ _
    · exact found_keepsWarned u _
  | readAttention position =>
    refine command_keepsWatched (exec_readAttention position s) h hf fun u _ => ?_
    unfold readAttentionBody
    split
    · exact .same u _
    · exact .refused u _ _
  | readProfile profile =>
    refine command_keepsWatched (exec_readProfile profile s) h hf fun u _ => ?_
    unfold readProfileBody
    split
    · exact .refused u _ _
    · exact .same u _
  | readTuning item =>
    refine command_keepsWatched (exec_readTuning item s) h hf fun u _ => ?_
    unfold readTuningBody
    split
    · exact .same u _
    · exact .refused u _ _
  | readLine line =>
    refine command_keepsWatched (exec_readLine line s) h hf fun u _ => ?_
    unfold readLineBody
    split
    · exact .same u _
    · exact .refused u _ _
  | readPort port =>
    refine command_keepsWatched (exec_readPort port s) h hf fun u _ => ?_
    unfold readPortBody
    split
    · exact .refused u _ _
    · exact ⟨rfl, rfl, rfl⟩
  | enablePortOn port => exact command_keepsWatched (exec_enablePortOn port s) h hf fun u _ => enablePortOnBody_keepsWarned port u
  | enablePortOff port value =>
    exact command_keepsWatched (exec_enablePortOff port value s) h hf fun u _ => enablePortOffBody_keepsWarned port value u
  | stageLine line config =>
    refine command_keepsWatched (exec_stageLine line config s) h hf fun u _ => ?_
    unfold stageLineBody
    split
    · exact ⟨rfl, rfl, rfl⟩
    · exact .refused u _ _
  | acknowledge kind index cls stamp =>
    exact command_keepsWatched (exec_acknowledge kind index cls stamp s) h hf fun u _ => acknowledgeBody_keepsWarned kind index cls stamp u
  | applyLines => exact command_keepsWatched (exec_applyLines s) h hf fun _ _ => ⟨rfl, rfl, rfl⟩
  | ackListed => exact command_keepsWatched (exec_ackListed s) h hf fun u _ => ackListedBody_keepsWarned u
  | enrol unit seat group profile =>
    exact command_keepsWatched (exec_enrol unit seat group profile s) h hf fun u _ => enrolBody_keepsWarned unit seat group profile u
  | enrolStranger position seat group profile =>
    exact command_keepsWatched (exec_enrolStranger position seat group profile s) h hf fun u _ =>
      enrolStrangerBody_keepsWarned position seat group profile u
  | retire entry =>
    exact command_keepsWatched (exec_retire entry s) h hf fun u _ => onEntry_keepsWarned fun n _ => .acted (retireEntry_keepsReports n u) _
  | amendEntry entry seat group profile =>
    exact command_keepsWatched (exec_amendEntry entry seat group profile s) h hf fun u _ =>
      amendEntryBody_keepsWarned entry seat group profile u
  | grantFloor entry =>
    exact command_keepsWatched (exec_grantFloor entry s) h hf fun u _ => onEntry_keepsWarned fun n _ => grantBody_keepsWarned n u
  | revokeFloor entry =>
    exact command_keepsWatched (exec_revokeFloor entry s) h hf fun u _ => onEntry_keepsWarned fun n _ => revokeBody_keepsWarned n u
  | setFloorCapacity capacity =>
    refine command_keepsWatched (exec_setFloorCapacity capacity s) h hf fun u _ => ?_
    unfold setFloorCapacityBody
    simp only
    split
    · exact .refused u _ _
    · exact .acted (.setFloor u _) _
  | mute entry =>
    exact command_keepsWatched (exec_mute entry s) h hf fun u _ => onEntry_keepsWarned fun n _ => muteBody_keepsWarned true n u
  | unmute entry =>
    exact command_keepsWatched (exec_unmute entry s) h hf fun u _ => onEntry_keepsWarned fun n _ => muteBody_keepsWarned false n u
  | muteAll => exact command_keepsWatched (exec_muteAll s) h hf fun u _ => .acted (setAllMuted_keepsReports true u) _
  | unmuteAll => exact command_keepsWatched (exec_unmuteAll s) h hf fun u _ => .acted (setAllMuted_keepsReports false u) _
  | setChair entry => exact command_keepsWatched (exec_setChair entry s) h hf fun u _ => setChairBody_keepsWarned entry u
  | setProfile profile fields =>
    refine command_keepsWatched (exec_setProfile profile fields s) h hf fun u _ => ?_
    unfold setProfileBody
    split
    · exact .refused u _ _
    · split
      · exact .refused u _ _
      · split
        · exact .refused u _ _
        · exact ⟨rfl, rfl, rfl⟩
  | setPortSilenceTime v =>
    exact command_keepsWatched (exec_setPortSilenceTime v s) h hf fun u _ => setPortSilenceTimeBody_keepsWarned v u
  | setCombiningWindow v => exact command_keepsWatched (exec_setCombiningWindow v s) h hf fun u _ => .stored u _ _ rfl
  | setLostTime v => exact command_keepsWatched (exec_setLostTime v s) h hf fun u _ => setLostTimeBody_keepsWarned v u
  | setSignalFloor v => exact command_keepsWatched (exec_setSignalFloor v s) h hf fun u _ => .stored u _ _ rfl
  | setSmoothingShift v => exact command_keepsWatched (exec_setSmoothingShift v s) h hf fun u _ => .stored u _ _ rfl
  | setWeakThreshold v => exact command_keepsWatched (exec_setWeakThreshold v s) h hf fun u _ => setWeakThresholdBody_keepsWarned v u
  | setPoorThreshold v => exact command_keepsWatched (exec_setPoorThreshold v s) h hf fun u _ => setPoorThresholdBody_keepsWarned v u
  | setSilentTime v => exact command_keepsWatched (exec_setSilentTime v s) h hf fun u _ => .stored u _ _ rfl
  | setAutoRevoke v => exact command_keepsWatched (exec_setAutoRevoke v s) h hf fun u _ => setAutoRevokeBody_keepsWarned v u
  | setHotDelay v => exact command_keepsWatched (exec_setHotDelay v s) h hf fun _ hu => setHotDelayBody_keepsWarned v hu
  | setPriorityFunction v =>
    exact command_keepsWatched (exec_setPriorityFunction v s) h hf fun u _ => setPriorityFunctionBody_keepsWarned v u
  | setPendingType item v =>
    exact command_keepsWatched (exec_setPendingType item v s) h hf fun u _ => setPendingTypeBody_keepsWarned item v u
  | setIrqMask v => exact command_keepsWatched (exec_setIrqMask v s) h hf fun u _ => .stored u _ _ rfl
  | setModeRecess value => exact command_keepsWatched (exec_setModeRecess value s) h hf fun u _ => setModeRecessBody_keepsWarned value u
  | setModeSession => exact command_keepsWatched (exec_setModeSession s) h hf fun u _ => setModeSessionBody_keepsWarned u
  | setModeDormant =>
    refine next_keepsWatched h ?_
    split
    · exact .refl s
    · exact conclude_keepsWatched (setModeDormantBody_keepsWarned s) _
  | chamberReset => exact command_keepsWatched (exec_chamberReset s) h hf fun u _ => chamberReset_keepsWarned u _

/-! ### Each step -/

theorem autonomous_keepsWatched (s : State) : KeepsWatched p s (autonomous s) := by
  unfold autonomous
  split
  · exact .refl s
  · split
    · split
      · exact .keep rfl id rfl
      · exact .refl s
    · exact .keep rfl id rfl

theorem step_keepsWatched {s t : State} (hf : p → FloorLaws True s) (h : step s = .next t) : KeepsWatched p s t := by
  unfold step at h
  split at h
  · exact next_keepsWatched h (autonomous_keepsWatched s)
  · rename_i rest _
    refine (KeepsWatched.keep (s := s) (t := { s with pending := rest }) rfl id rfl).trans (exec_keepsWatched _ (fun hp => ?_) h)
    exact KeepsFloor.keep (s := s) (t := { s with pending := rest }) rfl rfl rfl rfl rfl (hf hp)

end

/-- Settles O60: raises, clears, acknowledgements and quietings keep the laws of the list; only a clear makes a warning STANDING, and
only where its class is LATCHED; and outside SESSION no block reports a condition of a sitting as true. -/
theorem stepsKeepTheAttentionList : Obligations.StepsKeepTheAttentionList := by
  refine ⟨fun s t hs h => ?_, fun s t hs h => ?_⟩
  · exact (watched_iff.1 (step_keepsWatched (p := False) nofun h (watched_iff.2 ⟨hs, nofun⟩))).1
  · obtain ⟨hclock, hfloor, hspeaking, hengine, hwarning⟩ := hs
    have hlaws := floorLaws_true_iff.2 ⟨hclock, hfloor, hspeaking⟩
    obtain ⟨hengine', hwarning'⟩ := watched_iff.1
      (step_keepsWatched (p := True) (fun _ => hlaws) h (watched_iff.2 ⟨hengine, fun _ => hwarning⟩))
    obtain ⟨hclock', hfloor', hspeaking'⟩ := floorLaws_true_iff.1 (step_keepsFloor h hlaws)
    exact ⟨hclock', hfloor', hspeaking', hengine', hwarning' trivial⟩

end Sys2Proof.Machine
end

section
/-! PROOFS. SET_TUNING of a pending type: its checks, the types it leaves, and the warnings it quiets (O38). -/

namespace Sys2Proof.Machine

/-! ### Items and values -/

theorem pendingItemClass_of_mem {item : Byte} {c : WClass} (h : (item.toNat, c) ∈ pendingItems) : pendingItemClass item = some c := by
  simp only [pendingItems, List.mem_cons, Prod.mk.injEq, List.not_mem_nil, or_false] at h
  obtain ⟨hi, rfl⟩ | ⟨hi, rfl⟩ | ⟨hi, rfl⟩ | ⟨hi, rfl⟩ | ⟨hi, rfl⟩ | ⟨hi, rfl⟩ := h <;> simp only [pendingItemClass, hi]

theorem pendingItemClass_none {item : Byte} (h : item.toNat < 12 ∨ 17 < item.toNat) : pendingItemClass item = none := by
  cases hc : pendingItemClass item with
  | none => rfl
  | some c =>
    have hmem := pendingItemClass_some hc
    simp only [pendingItems, List.mem_cons, Prod.mk.injEq, List.not_mem_nil, or_false] at hmem
    omega

theorem pendingTypeValue_none {v : BitVec 32} (h : 2 ≤ v.toNat) : pendingTypeValue v = none := by
  unfold pendingTypeValue
  split
  · omega
  · omega
  · rfl

theorem pendingTypeValue_some {v : BitVec 32} {ty : PendingType} (h : v.toNat = if ty = .latched then 0 else 1) :
    pendingTypeValue v = some ty := by
  cases ty with
  | latched => simp only [pendingTypeValue, h, if_true]
  | selfClearing => simp only [pendingTypeValue, h, reduceCtorEq, if_false]

/-! ### The checks and the effect -/

/-- An item or a value that is none is refused (R172, R178). -/
theorem setPendingTypeBody_refuses {item : Byte} {v : BitVec 32} (s : State)
    (h : item.toNat < 12 ∨ 17 < item.toNat ∨ 2 ≤ v.toNat) : setPendingTypeBody item v s = refuse s .badArg 4 := by
  have hnone : pendingItemClass item = none ∨ pendingTypeValue v = none := by
    rw [← or_assoc] at h
    exact h.imp pendingItemClass_none pendingTypeValue_none
  unfold setPendingTypeBody
  split
  · rename_i hc hty
    rw [hc, hty] at hnone
    exact absurd hnone (by simp)
  · rfl

theorem setPendingTypeBody_acts {item : Byte} {v : BitVec 32} {c : WClass} {ty : PendingType} (s : State)
    (hc : (item.toNat, c) ∈ pendingItems) (hv : v.toNat = if ty = .latched then 0 else 1) :
    setPendingTypeBody item v s = .acted (changePendingType c ty s) ⟨.ok, bytesOfValue v⟩ := by
  rw [setPendingTypeBody, pendingItemClass_of_mem hc, pendingTypeValue_some hv]
  rfl

/-- With nothing posted the end of the handling leaves the engine that the change leaves. -/
theorem finish_changePendingType_engine {c : WClass} {ty : PendingType} {s : State} (h : s.engine.posted = []) :
    (finish (changePendingType c ty s)).engine =
      if pendingTypeOf s.tuning.pendingTypes c = .latched ∧ ty = .selfClearing then s.engine.quietAll (standingOf c) else s.engine := by
  rw [finish_engine, takeReports_eq_self ((changePendingType_posted c ty s).trans h), changePendingType_eq]

theorem mem_quietAll_standingOf {g : Engine} {c : WClass} {r : WarnRecord} :
    r ∈ (g.quietAll (standingOf c)).warnings ↔ r ∈ g.warnings ∧ ¬(r.id.cls = c ∧ r.state = .standing) := by
  rw [quietAll_warnings, List.mem_filter, Bool.not_eq_true', ← Bool.not_eq_true, standingOf_iff]

/-- Settles O38: the refusals are those of the item's and the value's checks, and the effect is that of `changePendingType`, which the
end of the handling finds with nothing more to take. -/
theorem pendingTypeIsChanged : Obligations.PendingTypeIsChanged := by
  intro item v s hs
  refine ⟨fun h => onlyAnswers_of hs (exec_setPendingType item v s) (setPendingTypeBody_refuses s h), fun c ty hc hv =>
    ⟨_, brings_of hs (exec_setPendingType item v s) (setPendingTypeBody_acts s hc hv), ?_, fun d => ?_, fun hn hold hty => ?_,
      fun hn hkept => ?_⟩⟩
  · rw [complete_tuning, finish_tuning, complete_engine, complete_choice, complete_lines]
    have hrest := finish_rest (changePendingType c ty s)
    rw [changePendingType_eq] at hrest ⊢
    exact congrArg (complete _ _) hrest
  · rw [complete_tuning, finish_tuning, changePendingType_eq]
    exact pendingTypeOf_withType hc _ ty d
  · rw [complete_engine, finish_changePendingType_engine hn, if_pos ⟨hold, hty⟩]
    exact ⟨fun r => mem_quietAll_standingOf, fun sel hsel =>
      congrArg s.engine.quietAll (selection_eq fun r => standingOf_iff.trans (hsel r).symm)⟩
  · rw [complete_engine, finish_changePendingType_engine hn, if_neg]
    rintro ⟨hold, rfl⟩
    exact hkept.elim nofun fun h => nomatch hold.symm.trans h

end Sys2Proof.Machine
end

section
/-! PROOFS. A raise, a clear, a place left and a readmission, each by its case (O46). -/

namespace Sys2Proof.Machine

/-! ### The place a raise seeks -/

theorem seekPlace_free (id : WarnId) {l : List WarnId} (h : l.length < 32) : seekPlace id l = insertBySeverity id l := if_pos h

/-- A full list with no place of lower severity takes no warning (R123). -/
theorem seekPlace_refused {id : WarnId} {l : List WarnId} (h : l.length = 32) (hall : ∀ x ∈ l, id.cls.severity ≤ x.cls.severity) :
    seekPlace id l = l := by
  rw [seekPlace, if_neg (show ¬l.length < Config.attentionSize from not_lt.2 h.ge)]
  cases hx : l.getLast? with
  | none => rfl
  | some x => exact if_neg (not_lt.2 (hall x (List.mem_of_getLast? hx)))

/-- A full list gives up its last place to a warning of higher severity (R123). -/
theorem seekPlace_displaces {id x : WarnId} {l : List WarnId} (h : l.length = 32) (hx : x ∈ l.getLast?)
    (hlt : x.cls.severity < id.cls.severity) : seekPlace id l = insertBySeverity id l.dropLast := by
  rw [seekPlace, if_neg (show ¬l.length < Config.attentionSize from not_lt.2 h.ge), Option.mem_def.1 hx]
  exact if_pos hlt

theorem getLast_not_mem_dropLast {x : WarnId} {l : List WarnId} (hl : l.Nodup) (hx : x ∈ l.getLast?) : x ∉ l.dropLast := by
  rw [← List.dropLast_append_getLast? x hx, List.nodup_append] at hl
  exact fun hmem => hl.2.2 x hmem x (List.mem_singleton_self x) rfl

/-! ### Raises -/

section
variable {g : Engine} {id : WarnId}

theorem stateOf_none : g.stateOf id = none ↔ g.find id = none := Option.map_eq_none_iff

theorem stateOf_some {st : ActiveState} : g.stateOf id = some st ↔ ∃ x, g.find id = some ⟨id, st, x⟩ := by
  unfold Engine.stateOf
  rw [Option.map_eq_some_iff]
  constructor
  · rintro ⟨⟨i, a, x⟩, hr, rfl⟩
    obtain ⟨-, rfl⟩ := Engine.find_some hr
    exact ⟨x, hr⟩
  · rintro ⟨x, hx⟩
    exact ⟨_, hx, rfl⟩

/-- A warning raised from QUIET takes the next stamp and seeks a place (R119, R120, R123). -/
theorem raise_of_quiet (h : g.stateOf id = none) : g.raise id =
    { g.put ⟨id, .raised, g.counter + 1⟩ with counter := g.counter + 1, attention := seekPlace id g.attention } := by
  unfold Engine.raise
  rw [h]

/-- A STANDING warning raised again takes the next stamp and keeps its place (R120). -/
theorem raise_of_standing (h : g.stateOf id = some .standing) : g.raise id =
    { g.put ⟨id, .raised, g.counter + 1⟩ with counter := g.counter + 1 } := by
  unfold Engine.raise
  rw [h]

/-- A RAISED or a NOTED warning is not touched (R119). -/
theorem raise_of_raised_or_noted (h : g.stateOf id = some .raised ∨ g.stateOf id = some .noted) : g.raise id = g := by
  unfold Engine.raise
  rcases h with h | h <;> rw [h]

theorem raise_find_ne (g : Engine) {id other : WarnId} (h : other ≠ id) : (g.raise id).find other = g.find other := by
  unfold Engine.raise
  split
  · exact Engine.put_find_ne g ⟨id, .raised, _⟩ h
  · exact Engine.put_find_ne g ⟨id, .raised, _⟩ h
  · rfl
  · rfl

/-- A raise that finds no place leaves its warning unlisted (R123, R124). -/
theorem raise_overflow (hg : AttentionLaw g) (hq : g.stateOf id = none) (hkept : (g.raise id).attention = g.attention) :
    (g.raise id).overflow = true := by
  have hnew : ⟨id, .raised, g.counter + 1⟩ ∈ (g.raise id).warnings := by
    rw [raise_of_quiet hq]
    exact (mem_putRecord hg.keys).2 (.inl rfl)
  rw [Engine.overflow, Bool.not_eq_true', List.isEmpty_eq_false_iff]
  refine List.ne_nil_of_mem (Engine.mem_unlisted.2 ⟨hnew, rfl, ?_⟩)
  rw [hkept]
  exact hg.not_listed (stateOf_none.1 hq)

theorem raisesAreStampedAndListed : Claims.RaisesAreStampedAndListed := by
  intro g id hg
  refine ⟨fun hq => ?_, fun hst => ?_, raise_of_raised_or_noted, fun other h => raise_find_ne g h⟩
  · have hattention : (g.raise id).attention = seekPlace id g.attention := by rw [raise_of_quiet hq]
    refine ⟨?_, by rw [raise_of_quiet hq], fun hfree => ?_, fun hfull hall => ?_, fun hfull x hx hlt => ?_⟩
    · rw [raise_of_quiet hq]
      exact Engine.put_find_same g ⟨id, .raised, _⟩
    · rw [hattention, seekPlace_free id hfree, insertBySeverity_eq hg.ordered]
    · have hkept := hattention.trans (seekPlace_refused hfull hall)
      exact ⟨hkept, raise_overflow hg hq hkept⟩
    · rw [hattention, seekPlace_displaces hfull hx hlt, mem_insertBySeverity, mem_insertBySeverity]
      refine ⟨.inl rfl, ?_, by rw [length_insertBySeverity, List.length_dropLast, hfull]⟩
      rintro (rfl | hmem)
      · exact lt_irrefl _ hlt
      · exact getLast_not_mem_dropLast hg.once hx hmem
  · rw [raise_of_standing hst]
    exact ⟨Engine.put_find_same g ⟨id, .raised, _⟩, rfl, rfl⟩

/-! ### A place left -/

theorem WarnId.bne_eq_decide (a b : WarnId) : (a != b) = decide (a ≠ b) := Bool.eq_iff_iff.2 (by simp)

/-- A warning leaves the list, and readmission follows where it had a place (R125). -/
theorem leave_eq (g : Engine) (id : WarnId) : g.leave id = if id ∈ g.attention
    then { g with attention := g.attention.filter fun x => x ≠ id }.readmit
    else { g with attention := g.attention.filter fun x => x ≠ id } := by
  unfold Engine.leave
  simp only [listed_iff, WarnId.bne_eq_decide]
  split
  · rfl
  · rename_i hid
    have hall : g.attention.filter (fun x => x ≠ id) = g.attention :=
      List.filter_eq_self.2 fun x hx => decide_eq_true fun e => hid (e ▸ hx)
    rw [hall]

/-- A warning that is pending no more is not readmitted to the place it leaves. -/
theorem not_mem_leave (h : ∀ r ∈ g.warnings, r.id = id → r.state.pending = false) : id ∉ (g.leave id).attention := by
  have hleft : id ∉ g.attention.filter fun x => x ≠ id := fun hmem => of_decide_eq_true (List.mem_filter.1 hmem).2 rfl
  rw [leave_eq]
  split
  · intro hmem
    rcases Engine.mem_readmit hmem with hmem | ⟨r, hr, hrid⟩
    · exact hleft hmem
    · obtain ⟨hr, hpending, -⟩ := Engine.mem_unlisted.1 hr
      rw [h r hr hrid] at hpending
      cases hpending
  · exact hleft

theorem leave_find (g : Engine) (id other : WarnId) : (g.leave id).find other = g.find other :=
  Engine.find_congr (Engine.leave_warnings g id) other

/-- A QUIET warning has no place in the list. -/
theorem drop_leave_not_mem (g : Engine) (id : WarnId) : id ∉ ((g.drop id).leave id).attention :=
  not_mem_leave fun _ hr hid => absurd hid (Engine.find_none (Engine.drop_find_same g id) _ hr)

/-! ### Clears -/

theorem clear_selfClearing_raised (h : g.stateOf id = some .raised) : g.clear .selfClearing id = (g.drop id).leave id := by
  obtain ⟨x, hx⟩ := stateOf_some.1 h
  unfold Engine.clear
  rw [hx]

theorem clear_latched_raised {x : Stamp} (h : g.find id = some ⟨id, .raised, x⟩) : g.clear .latched id = g.put ⟨id, .standing, x⟩ := by
  unfold Engine.clear
  rw [h]

theorem clear_noted (h : g.stateOf id = some .noted) (ty : PendingType) : g.clear ty id = g.drop id := by
  obtain ⟨x, hx⟩ := stateOf_some.1 h
  unfold Engine.clear
  rw [hx]

theorem clear_of_quiet_or_standing (h : g.stateOf id = none ∨ g.stateOf id = some .standing) (ty : PendingType) : g.clear ty id = g := by
  unfold Engine.clear
  rcases h with h | h
  · rw [stateOf_none.1 h]
  · obtain ⟨x, hx⟩ := stateOf_some.1 h
    rw [hx]

theorem clear_counter (g : Engine) (ty : PendingType) (id : WarnId) : (g.clear ty id).counter = g.counter := by
  unfold Engine.clear
  split
  · split
    · exact Engine.leave_counter _ _
    · rfl
  · rfl
  · rfl
  · rfl

theorem clear_find_ne (g : Engine) (ty : PendingType) {id other : WarnId} (h : other ≠ id) :
    (g.clear ty id).find other = g.find other := by
  unfold Engine.clear
  split
  · split
    · exact (leave_find _ _ _).trans (Engine.drop_find_ne g h)
    · exact Engine.put_find_ne g ⟨id, .standing, _⟩ h
  · exact Engine.drop_find_ne g h
  · rfl
  · rfl

theorem clearsFollowThePendingType : Claims.ClearsFollowThePendingType := by
  intro g id ty _
  refine ⟨?_, ?_, fun h => ?_, fun h => clear_of_quiet_or_standing h ty, clear_counter g ty id, fun other h => clear_find_ne g ty h⟩
  · rintro h rfl
    rw [clear_selfClearing_raised h, leave_find]
    exact ⟨Engine.drop_find_same g id, drop_leave_not_mem g id⟩
  · rintro x h rfl
    rw [clear_latched_raised h]
    exact ⟨Engine.put_find_same g ⟨id, .standing, x⟩, rfl⟩
  · rw [clear_noted h]
    exact ⟨Engine.drop_find_same g id, rfl⟩

/-! ### Readmission -/

theorem pending_iff (st : ActiveState) : st.pending = true ↔ st = .raised ∨ st = .standing := by cases st <;> decide

theorem foldl_betterUnlisted_keeps {r : WarnRecord} {l : List WarnRecord} (h : ∀ q ∈ l, q.id.cls.severity ≤ r.id.cls.severity) :
    l.foldl betterUnlisted (some r) = some r := by
  induction l with
  | nil => rfl
  | cons q l ih =>
    have hq : betterUnlisted (some r) q = some r := if_neg (not_lt.2 (h q (List.mem_cons_self ..)))
    rw [List.foldl_cons, hq]
    exact ih fun x hx => h x (List.mem_cons_of_mem _ hx)

/-- A candidate is chosen that is above all before it and not below any after it (R125). -/
theorem foldl_betterUnlisted_first {r : WarnRecord} {before after : List WarnRecord}
    (hbefore : ∀ q ∈ before, q.id.cls.severity < r.id.cls.severity) (hafter : ∀ q ∈ after, q.id.cls.severity ≤ r.id.cls.severity) :
    (before ++ r :: after).foldl betterUnlisted none = some r := by
  rw [List.foldl_append, List.foldl_cons]
  have hchosen : betterUnlisted (before.foldl betterUnlisted none) r = some r := by
    cases hb : before.foldl betterUnlisted none with
    | none => rfl
    | some b =>
      have hmem := (((foldl_betterUnlisted_spec before none).2 b hb).1).resolve_left nofun
      exact if_pos (hbefore b hmem)
  rw [hchosen]
  exact foldl_betterUnlisted_keeps hafter

/-- Readmission chooses the first in subject and class order among the unlisted warnings of the highest severity (R125). -/
theorem nextUnlisted_eq {r : WarnRecord} (hk : (g.warnings.map fun r => r.id.key).Pairwise (· < ·)) (hr : r ∈ g.unlisted)
    (hbest : ∀ q ∈ g.unlisted, q.id.cls.severity < r.id.cls.severity ∨ q.id.cls.severity = r.id.cls.severity ∧ r.id.key ≤ q.id.key) :
    g.nextUnlisted = some r := by
  have horder : (g.unlisted.map fun r => r.id.key).Pairwise (· < ·) := filter_keys _ hk
  obtain ⟨before, after, hsplit⟩ := List.append_of_mem hr
  rw [hsplit, List.map_append, List.pairwise_append, List.map_cons] at horder
  obtain ⟨-, -, hacross⟩ := horder
  rw [Engine.nextUnlisted, hsplit]
  refine foldl_betterUnlisted_first (fun q hq => ?_) fun q hq => ?_
  · have hearlier := hacross _ (List.mem_map_of_mem hq) _ (List.mem_cons_self ..)
    exact (hbest q (by rw [hsplit]; simp [hq])).resolve_right fun h => absurd hearlier (not_lt.2 h.2)
  · exact (hbest q (by rw [hsplit]; simp [hq])).elim le_of_lt fun h => h.1.le

theorem readmit_of_none (h : 32 ≤ g.attention.length ∨ g.unlisted = []) : g.readmit = g := by
  unfold Engine.readmit
  rcases h with h | h
  · exact if_neg (not_lt.2 h)
  · have hnone : g.nextUnlisted = none := by rw [Engine.nextUnlisted, h]; rfl
    rw [hnone]
    exact ite_self _

theorem readmit_of_next {r : WarnRecord} (h : g.attention.length < 32) (hr : g.nextUnlisted = some r) :
    g.readmit = { g with attention := insertBySeverity r.id g.attention } := by
  unfold Engine.readmit
  rw [if_pos (show g.attention.length < Config.attentionSize from h), hr]

theorem drop_eq (g : Engine) (id : WarnId) : g.drop id = { g with warnings := g.warnings.filter fun r => r.id ≠ id } := by
  simp only [Engine.drop, WarnId.bne_eq_decide]

theorem freedPlacesAreReadmitted : Claims.FreedPlacesAreReadmitted := by
  intro g
  refine ⟨fun r => ?_, readmit_of_none, fun hfree hk ho r hr hbest => ?_, fun id g' h hg' => ?_⟩
  · rw [Engine.mem_unlisted, pending_iff]
  · rw [readmit_of_next hfree (nextUnlisted_eq hk hr hbest), insertBySeverity_eq ho]
  · rw [clear_selfClearing_raised h, leave_eq, drop_eq, hg']

end

/-- Settles O46: the engine's operations by the state they find the warning in; the record of another warning stands in each, and the
list changes by the place a raise seeks or a clear frees. -/
theorem raisesAndClearsChangeTheWarning : Obligations.RaisesAndClearsChangeTheWarning :=
  ⟨raisesAreStampedAndListed, clearsFollowThePendingType, freedPlacesAreReadmitted⟩

end Sys2Proof.Machine
end

section
/-! PROOFS. ACKNOWLEDGE: the warnings that it names, its checks in their order, and its effect on the engine (O47). -/

namespace Sys2Proof.Machine

/-! ### The warnings that are named -/

theorem WClass.ofCode_eq_some {k : Nat} {c : WClass} : WClass.ofCode k = some c ↔ k = c.code := by
  constructor
  · intro h
    unfold WClass.ofCode at h
    split at h <;> cases h <;> rfl
  · rintro rfl
    cases c <;> rfl

/-- A number in range is the place that it names. -/
theorem inRange_eq_some {k n : Nat} {i : Fin n} : (if h : k < n then some (⟨k, h⟩ : Fin n) else none) = some i ↔ k = i.1 := by
  rw [Option.dite_none_right_eq_some]
  exact ⟨fun ⟨_, h⟩ => congrArg Fin.val (Option.some.inj h), fun h => ⟨h ▸ i.2, congrArg some (Fin.ext h)⟩⟩

theorem portNumber_eq_some {b : Byte} {p : Fin 4} : portNumber b = some p ↔ b.toNat = p.1 := inRange_eq_some

theorem lineNumber_eq_some {b : Byte} {m : Fin 16} : lineNumber b = some m ↔ b.toNat = m.1 := inRange_eq_some

theorem entryNumber_eq_some {b : Byte} {n : Fin 200} : entryNumber b = some n ↔ b.toNat = n.1 := inRange_eq_some

theorem subjectOf_chamber {kind index : Byte} : subjectOf kind index = some .chamber ↔ kind.toNat = 0 := by
  unfold subjectOf
  split <;> simp_all

theorem subjectOf_port {kind index : Byte} {p : Fin 4} :
    subjectOf kind index = some (.port p) ↔ kind.toNat = 1 ∧ index.toNat = p.1 := by
  unfold subjectOf
  split <;> simp_all [portNumber_eq_some]

theorem subjectOf_line {kind index : Byte} {m : Fin 16} :
    subjectOf kind index = some (.line m) ↔ kind.toNat = 2 ∧ index.toNat = m.1 := by
  unfold subjectOf
  split <;> simp_all [lineNumber_eq_some]

theorem subjectOf_entry {kind index : Byte} {n : Fin 200} :
    subjectOf kind index = some (.entry n) ↔ kind.toNat = 3 ∧ index.toNat = n.1 := by
  unfold subjectOf
  split <;> simp_all [entryNumber_eq_some]

/-- A class and a subject name a warning where the class has subjects of that kind (R128). -/
theorem warningOf_eq_some {kind index cls : Byte} {x : Subject} {c : WClass} : warningOf kind index cls = some ⟨x, c⟩ ↔
    subjectOf kind index = some x ∧ cls.toNat = c.code ∧ c.names x = true := by
  rw [← WClass.ofCode_eq_some, warningOf]
  cases WClass.ofCode cls.toNat with
  | none => simp only [reduceCtorEq, false_and, and_false]
  | some d => cases subjectOf kind index with
    | none => simp only [reduceCtorEq, false_and]
    | some y =>
      simp only [Option.ite_none_right_eq_some, Option.some.injEq, WarnId.mk.injEq]
      constructor
      · rintro ⟨hnames, rfl, rfl⟩
        exact ⟨rfl, rfl, hnames⟩
      · rintro ⟨rfl, rfl, hnames⟩
        exact ⟨hnames, rfl, rfl⟩

theorem names_chamber (c : WClass) : c.names .chamber = true ↔ c = .stranger := by cases c <;> simp [WClass.names]

theorem names_port (c : WClass) (p : Fin 4) : c.names (.port p) = true ↔ c = .receiverSilent := by cases c <;> simp [WClass.names]

theorem names_line (c : WClass) (m : Fin 16) : c.names (.line m) = true ↔ c = .lampFault := by cases c <;> simp [WClass.names]

/-- The classes of the roster's entries, by their codes (section 11.2). -/
theorem names_entry (k : Nat) (c : WClass) (n : Fin 200) : k = c.code ∧ c.names (.entry n) = true ↔
    (k, c) ∈ [(0, WClass.sigLost), (1, .battCritical), (3, .sigWeak), (4, .hotMic), (5, .battLow), (6, .silentFloor)] := by
  cases c <;> simp [WClass.names, WClass.code]

theorem warningsAreNamed : Claims.WarningsAreNamed := by
  intro kind index cls id
  obtain ⟨x, c⟩ := id
  rw [warningOf_eq_some]
  simp only [WarnId.mk.injEq]
  cases x with
  | chamber =>
    rw [subjectOf_chamber, names_chamber]
    simp only [true_and, reduceCtorEq, false_and, and_false, exists_false, or_false]
    exact and_congr_right fun _ => and_congr_left fun hc => by rw [hc]; rfl
  | port p =>
    rw [subjectOf_port, names_port]
    simp only [Subject.port.injEq, reduceCtorEq, false_and, and_false, exists_false, or_false, false_or]
    constructor
    · rintro ⟨⟨hk, hi⟩, hc, rfl⟩
      exact ⟨p, hk, hi, hc, rfl, rfl⟩
    · rintro ⟨_, hk, hi, hc, rfl, rfl⟩
      exact ⟨⟨hk, hi⟩, hc, rfl⟩
  | line m =>
    rw [subjectOf_line, names_line]
    simp only [Subject.line.injEq, reduceCtorEq, false_and, and_false, exists_false, or_false, false_or]
    constructor
    · rintro ⟨⟨hk, hi⟩, hc, rfl⟩
      exact ⟨m, hk, hi, hc, rfl, rfl⟩
    · rintro ⟨_, hk, hi, hc, rfl, rfl⟩
      exact ⟨⟨hk, hi⟩, hc, rfl⟩
  | entry n =>
    rw [subjectOf_entry, names_entry]
    simp only [Subject.entry.injEq, reduceCtorEq, false_and, and_false, exists_false, false_or]
    constructor
    · rintro ⟨⟨hk, hi⟩, hc⟩
      exact ⟨n, c, hk, hi, ⟨rfl, rfl⟩, hc⟩
    · rintro ⟨_, _, hk, hi, ⟨rfl, rfl⟩, hc⟩
      exact ⟨⟨hk, hi⟩, hc⟩

/-! ### The checks -/

section
variable {kind index cls : Byte} {stamp : Stamp} {id : WarnId} {s : State}

theorem acknowledgeBody_unnamed (h : warningOf kind index cls = none) :
    acknowledgeBody kind index cls stamp s = refuse s .badArg 0 := by
  rw [acknowledgeBody, h]

theorem acknowledgeBody_notPending (h : warningOf kind index cls = some id)
    (hq : s.engine.stateOf id = none ∨ s.engine.stateOf id = some .noted) :
    acknowledgeBody kind index cls stamp s = refuse s .notPending 0 := by
  rw [acknowledgeBody, h]
  rcases hq with hq | hq
  · simp only [stateOf_none.1 hq]
  · obtain ⟨x, hx⟩ := stateOf_some.1 hq
    simp only [hx, if_true]

theorem acknowledgeBody_pending (h : warningOf kind index cls = some id) {st : ActiveState} {x : Stamp}
    (hr : s.engine.find id = some ⟨id, st, x⟩) (hst : st ≠ .noted) : acknowledgeBody kind index cls stamp s =
      if x ≠ stamp then refuse s .stale 0 else .acted { s with engine := s.engine.acknowledge ⟨id, st, x⟩ } (okReply []) := by
  rw [acknowledgeBody, h]
  simp only [hr, hst, if_false]

/-! ### The effect -/

/-- A RAISED warning becomes NOTED where it stands in the table, and a STANDING one leaves it (R128). -/
def acknowledgedIn (id : WarnId) (st : ActiveState) (x : Stamp) (r : WarnRecord) : Option WarnRecord :=
  if r.id = id then (if st = .raised then some ⟨id, .noted, x⟩ else none) else some r

/-- A record put in the place of one of its name, where the table has each name once and in order. -/
theorem putRecord_eq_filterMap {q r : WarnRecord} {l : List WarnRecord} (hk : (l.map fun r => r.id.key).Pairwise (· < ·))
    (hq : q ∈ l) (hid : q.id = r.id) : putRecord r l = l.filterMap fun y => if y.id = r.id then some r else some y := by
  induction l with
  | nil => cases hq
  | cons y ys ih =>
    simp only [List.map_cons, List.pairwise_cons, List.mem_map, forall_exists_index, and_imp, forall_apply_eq_imp_iff₂] at hk
    obtain ⟨hbelow, hys⟩ := hk
    unfold putRecord
    split
    · rename_i hy
      have hothers : ys.filterMap (fun z => if z.id = r.id then some r else some z) = ys := by
        refine (List.filterMap_congr fun z hz => if_neg fun e => ?_).trans List.filterMap_some
        exact absurd (hbelow z hz) (by rw [hy, e]; exact lt_irrefl _)
      simp only [List.filterMap_cons, hy, if_true, hothers]
    · rename_i hy
      have hq : q ∈ ys := (List.mem_cons.1 hq).resolve_left fun e => hy (e ▸ hid)
      have hlater : ¬r.id.key < y.id.key := by rw [← hid]; exact (hbelow q hq).asymm
      rw [if_neg hlater, ih hys hq]
      simp only [List.filterMap_cons, hy, if_false]

theorem filter_eq_filterMap (id : WarnId) (l : List WarnRecord) :
    l.filter (fun r => r.id ≠ id) = l.filterMap fun r => if r.id = id then none else some r := by
  rw [← List.filterMap_eq_filter]
  refine List.filterMap_congr fun r _ => ?_
  by_cases h : r.id = id <;> simp [Option.guard, h]

/-- What an acknowledgement does to the engine (R125, R128). -/
theorem acknowledge_eq {g : Engine} (hg : AttentionLaw g) {st : ActiveState} {x : Stamp} (hr : g.find id = some ⟨id, st, x⟩)
    (hst : st ≠ .noted) : g.acknowledge ⟨id, st, x⟩ =
      ({ g with warnings := g.warnings.filterMap (acknowledgedIn id st x) } : Engine).leave id := by
  cases st with
  | raised =>
    have hput : g.put ⟨id, .noted, x⟩ = { g with warnings := g.warnings.filterMap (acknowledgedIn id .raised x) } := by
      rw [Engine.put, putRecord_eq_filterMap (r := ⟨id, .noted, x⟩) hg.keys (Engine.find_some hr).1 rfl]
      rfl
    rw [← hput]; rfl
  | noted => exact absurd rfl hst
  | standing =>
    have hdrop : g.drop id = { g with warnings := g.warnings.filterMap (acknowledgedIn id .standing x) } := by
      rw [drop_eq, filter_eq_filterMap]
      rfl
    rw [← hdrop]; rfl

theorem acknowledge_find {g : Engine} {st : ActiveState} (hst : st ≠ .noted) (x : Stamp) (other : WarnId) :
    (g.acknowledge ⟨id, st, x⟩).find other =
      if other = id then (if st = .raised then some ⟨id, .noted, x⟩ else none) else g.find other := by
  cases st with
  | raised =>
    refine (leave_find (g.put ⟨id, .noted, x⟩) id other).trans ?_
    split
    · rename_i h
      rw [h]
      exact Engine.put_find_same g ⟨id, .noted, x⟩
    · exact Engine.put_find_ne g ⟨id, .noted, x⟩ ‹_›
  | noted => exact absurd rfl hst
  | standing =>
    refine (leave_find (g.drop id) id other).trans ?_
    split
    · rename_i h
      rw [h]
      exact Engine.drop_find_same g id
    · exact Engine.drop_find_ne g ‹_›

theorem acknowledge_counter {g : Engine} (hg : AttentionLaw g) {st : ActiveState} {x : Stamp} (hr : g.find id = some ⟨id, st, x⟩)
    (hst : st ≠ .noted) : (g.acknowledge ⟨id, st, x⟩).counter = g.counter := by
  rw [acknowledge_eq hg hr hst, Engine.leave_counter]

/-- An acknowledged warning is pending no more, so it has no place in the list. -/
theorem acknowledge_not_mem {g : Engine} (hg : AttentionLaw g) {st : ActiveState} {x : Stamp} (hr : g.find id = some ⟨id, st, x⟩)
    (hst : st ≠ .noted) : id ∉ (g.acknowledge ⟨id, st, x⟩).attention := by
  rw [acknowledge_eq hg hr hst]
  refine not_mem_leave fun r hmem hrid => ?_
  obtain ⟨q, -, hq⟩ := List.mem_filterMap.1 hmem
  unfold acknowledgedIn at hq
  split at hq
  · rw [Option.ite_none_right_eq_some] at hq
    obtain ⟨-, hq⟩ := hq
    cases hq
    rfl
  · rename_i hne
    cases hq
    exact absurd hrid hne

theorem acknowledge_brings (hs : Ready s) (h : warningOf kind index cls = some id) {st : ActiveState}
    (hr : s.engine.find id = some ⟨id, st, stamp⟩) (hst : st ≠ .noted) :
    Brings (.acknowledge kind index cls stamp) s { s with engine := s.engine.acknowledge ⟨id, st, stamp⟩ } ⟨.ok, []⟩ := by
  refine brings_of hs (exec_acknowledge kind index cls stamp s) ?_
  rw [acknowledgeBody_pending h hr hst, if_neg (not_not.2 rfl)]
  rfl

end

theorem acknowledgementIsChecked : Claims.AcknowledgementIsChecked := by
  intro kind index cls stamp s hs
  have hexec := exec_acknowledge kind index cls stamp s
  refine ⟨fun h => onlyAnswers_of hs hexec (acknowledgeBody_unnamed h), fun id h =>
    ⟨fun hq => onlyAnswers_of hs hexec (acknowledgeBody_notPending h hq), fun st x hr hst hx => onlyAnswers_of hs hexec ?_,
      fun st hr hst hn hg => ?_⟩⟩
  · rw [acknowledgeBody_pending h hr hst, if_pos hx]
    rfl
  · have hposted : (s.engine.acknowledge ⟨id, st, stamp⟩).posted = [] := (Engine.acknowledge_posted _ _).trans hn
    have hfinish := finish_eq_settleLines (s := { s with engine := s.engine.acknowledge ⟨id, st, stamp⟩ }) hposted
    have hbrings := acknowledge_brings hs h hr hst
    rw [Brings, hfinish] at hbrings
    have hfind := acknowledge_find (g := s.engine) (id := id) hst stamp
    refine ⟨_, hbrings, rfl, acknowledge_not_mem hg hr hst, acknowledge_counter hg hr hst, fun hraised => ?_, fun hstanding => ?_,
      fun other hother => ?_⟩
    · exact (hfind id).trans (by rw [if_pos rfl, if_pos hraised])
    · exact (hfind id).trans (by rw [if_pos rfl, hstanding]; rfl)
    · exact (hfind other).trans (if_neg hother)

theorem acknowledgementReadmits : Claims.AcknowledgementReadmits := by
  intro kind index cls id st x s g hs _ hg h hr hst hg'
  have hengine : s.engine.acknowledge ⟨id, st, x⟩ = if id ∈ s.engine.attention then g.readmit else g := by
    rw [acknowledge_eq hg hr hst, leave_eq, hg']
    rfl
  rw [← hengine]
  exact acknowledge_brings hs h hr hst

/-- Settles O47: the names are those of the subjects' numbers and the classes' codes; the checks are taken in their order; and the
effect is one record replaced or dropped and one place left. -/
theorem acknowledgementChecksAndTakes : Obligations.AcknowledgementChecksAndTakes :=
  ⟨warningsAreNamed, acknowledgementIsChecked, acknowledgementReadmits⟩

end Sys2Proof.Machine
end

section
/-! PROOFS. The line commands: the configurations that STAGE_LINE takes and refuses, the 32 bytes of a line, and what is read back
(O49, O50). -/

namespace Sys2Proof.Machine

/-! ### Numbers and codes that are refused -/

theorem inRange_eq_none {k n : Nat} : (if h : k < n then some (⟨k, h⟩ : Fin n) else none) = none ↔ n ≤ k := by
  rw [dite_eq_right_iff]
  exact ⟨fun h => not_lt.1 fun hk => Option.some_ne_none _ (h hk), fun h hk => absurd hk (not_lt.2 h)⟩

theorem groupNumber_eq_none {b : Byte} : groupNumber b = none ↔ 8 ≤ b.toNat := inRange_eq_none

theorem entryNumber_eq_none {b : Byte} : entryNumber b = none ↔ 200 ≤ b.toNat := inRange_eq_none

theorem portNumber_eq_none {b : Byte} : portNumber b = none ↔ 4 ≤ b.toNat := inRange_eq_none

theorem lineNumber_eq_none {b : Byte} : lineNumber b = none ↔ 16 ≤ b.toNat := inRange_eq_none

theorem slotNumber_eq_none {b : Byte} : slotNumber b = none ↔ 6 ≤ b.toNat := inRange_eq_none

theorem groupNumber_eq_some {b : Byte} {g : Fin 8} : groupNumber b = some g ↔ b.toNat = g.1 := inRange_eq_some

theorem slotNumber_eq_some {b : Byte} {k : Fin 6} : slotNumber b = some k ↔ b.toNat = k.1 := inRange_eq_some

theorem displayOf_eq_none {b : Byte} : displayOf b = none ↔ 3 < b.toNat := by
  unfold displayOf
  split <;> simp only [eq_self, reduceCtorEq, true_iff, false_iff, imp_false] at * <;> omega

theorem polarityOf_eq_none {b : Byte} : polarityOf b = none ↔ 1 < b.toNat := by
  unfold polarityOf
  split <;> simp only [eq_self, reduceCtorEq, true_iff, false_iff, imp_false] at * <;> omega

theorem holdUnitOf_eq_none {b : Byte} : holdUnitOf b = none ↔ 2 < b.toNat := by
  unfold holdUnitOf
  split <;> simp only [eq_self, reduceCtorEq, true_iff, false_iff, imp_false] at * <;> omega

/-- The scopes that are refused (R147, R178): a kind that is no code, or an index that its kind does not have. -/
theorem scopeOf_eq_none {kind index : Byte} : scopeOf kind index = none ↔
    5 < kind.toNat ∨ kind.toNat = 1 ∧ 7 < index.toNat ∨ kind.toNat = 2 ∧ 199 < index.toNat ∨
      kind.toNat = 3 ∧ 3 < index.toNat ∨ kind.toNat = 4 ∧ 15 < index.toNat := by
  unfold scopeOf
  split <;> simp only [eq_self, reduceCtorEq, Option.map_eq_none_iff, groupNumber_eq_none, entryNumber_eq_none, portNumber_eq_none,
    lineNumber_eq_none, true_iff, false_iff, imp_false] at * <;> omega

theorem sourceOf_eq_none {r : RawLineConfig} : sourceOf r = none ↔
    7 < r.source.toNat ∨ (r.source.toNat = 3 ∧ 5 < r.sourceIndex.toNat) ∨
      (r.source.toNat = 6 ∧ (r.sourceIndex.toNat = 0 ∨ 5 < r.sourceIndex.toNat)) ∨
      (r.source.toNat = 2 ∧ scopeOf r.scope r.scopeIndex = none) := by
  unfold sourceOf
  split
  case h_3 hs => simp [hs]
  case h_4 hs => simp [hs, slotNumber_eq_none, Nat.lt_iff_add_one_le]
  case h_7 hs =>
    simp only [hs, ite_eq_right_iff, reduceCtorEq, imp_false, Nat.reduceLT, Nat.reduceEqDiff, false_and, true_and, or_false, false_or]
    omega
  case h_9 =>
    simp only [imp_false] at *
    exact iff_of_true trivial (.inl (by omega))
  all_goals simp [*]

/-- A configuration is refused where one of its fields is (R147). -/
theorem lineConfigOf_eq_none {r : RawLineConfig} : lineConfigOf r = none ↔
    sourceOf r = none ∨ displayOf r.display = none ∨ polarityOf r.polarity = none ∨ holdUnitOf r.holdUnit = none := by
  unfold lineConfigOf
  split
  next hsrc hd hp hu => simp only [hsrc, hd, hp, hu, reduceCtorEq, or_self]
  next hnot =>
    refine iff_of_true rfl (by_contra fun hall => ?_)
    simp only [not_or, ← ne_eq, Option.ne_none_iff_exists'] at hall
    obtain ⟨⟨src, hsrc⟩, ⟨d, hd⟩, ⟨p, hp⟩, ⟨u, hu⟩⟩ := hall
    exact hnot src d p u hsrc hd hp hu

theorem badConfigurationsAreRefused : Claims.BadConfigurationsAreRefused := by
  intro r
  rw [lineConfigOf_eq_none, sourceOf_eq_none, scopeOf_eq_none, displayOf_eq_none, polarityOf_eq_none, holdUnitOf_eq_none]
  tauto

/-! ### The three commands -/

theorem stageLineBody_refuses {b : Byte} {r : RawLineConfig} (s : State) (h : 16 ≤ b.toNat ∨ lineConfigOf r = none) :
    stageLineBody b r s = .answered s ⟨.badArg, []⟩ := by
  unfold stageLineBody
  rcases h with h | h
  · rw [lineNumber_eq_none.2 h]; rfl
  · rw [h]; cases lineNumber b <;> rfl

theorem linesAreStagedAndRead : Claims.LinesAreStagedAndRead := by
  intro b r s hs
  refine ⟨fun h => onlyAnswers_of hs (exec_stageLine b r s) (stageLineBody_refuses s h), fun m c hb hc => ?_, ?_, fun hb => ?_,
    fun m hb => ?_⟩
  · rw [exec_stageLine, runCommand_ready hs, stageLineBody, lineNumber_eq_some.2 hb, hc]; rfl
  · rw [exec_applyLines, runCommand_ready hs]; rfl
  · exact onlyAnswers_of hs (exec_readLine b s) (by rw [readLineBody, lineNumber_eq_none.2 hb]; rfl)
  · exact onlyAnswers_of hs (exec_readLine b s) (by rw [readLineBody, lineNumber_eq_some.2 hb]; rfl)

/-! ### The line record -/

theorem scopeBytes_length (sc : Scope) : (scopeBytes sc).length = 2 := by cases sc <;> rfl

theorem sourceBytes_length (src : Source) : (sourceBytes src).length = 7 := by
  cases src with
  | warning sc cs noted => simp only [sourceBytes, List.length_append, scopeBytes_length]; rfl
  | _ => rfl

theorem lineConfigBytes_length (c : LineConfig) : (lineConfigBytes c).length = 12 := by
  rw [lineConfigBytes, List.length_append, sourceBytes_length]; rfl

theorem lineRecord_length (s : State) (l : Line) : (s.lineRecord l).length = 32 := by
  simp only [State.lineRecord, List.length_append, lineConfigBytes_length]; rfl

/-- The bytes of a configuration, code by code (section 11.7). -/
theorem lineRecordLayout : Claims.LineRecordLayout := by
  refine ⟨fun s l => ⟨rfl, lineRecord_length s l⟩, fun c => ?_⟩
  obtain ⟨src, d, p, k, u, check⟩ := c
  refine congrArg₂ (· ++ ·) ?_ ?_
  · cases src with
    | warning sc cs noted => cases sc <;> rfl
    | _ => rfl
  · cases d <;> cases p <;> cases u <;> rfl

/-- Settles O49: a configuration is refused by the field that is, and the record is read off the bytes of its codes. -/
theorem linesAreStagedAppliedAndRead : Obligations.LinesAreStagedAppliedAndRead :=
  ⟨linesAreStagedAndRead, badConfigurationsAreRefused, lineRecordLayout⟩

/-! ### Codes read back -/

theorem natByte_of {b : Byte} {k : Nat} (h : b.toNat = k) : natByte k = b := by
  rw [← h, natByte, BitVec.ofNat_toNat, BitVec.setWidth_eq]

theorem displayOf_code {b : Byte} {d : Display} (h : displayOf b = some d) : d.code = b := by
  unfold displayOf at h
  split at h <;> cases h <;> exact natByte_of ‹_›

theorem polarityOf_code {b : Byte} {p : Polarity} (h : polarityOf b = some p) : p.code = b := by
  unfold polarityOf at h
  split at h <;> cases h <;> exact natByte_of ‹_›

theorem holdUnitOf_code {b : Byte} {u : HoldUnit} (h : holdUnitOf b = some u) : u.code = b := by
  unfold holdUnitOf at h
  split at h <;> cases h <;> exact natByte_of ‹_›

/-- A scope reads back its kind and, where the kind has one, its index (section 11.7). -/
theorem scopeOf_bytes {kind index : Byte} {sc : Scope} (h : scopeOf kind index = some sc) :
    scopeBytes sc = [kind, if kind ≠ 0 ∧ kind ≠ 5 then index else 0] := by
  unfold scopeOf at h
  split at h
  next hk => cases h; rw [← natByte_of hk]; rfl
  next hk =>
    obtain ⟨g, hg, rfl⟩ := Option.map_eq_some_iff.1 h
    rw [← natByte_of hk, ← natByte_of (groupNumber_eq_some.1 hg)]; rfl
  next hk =>
    obtain ⟨n, hn, rfl⟩ := Option.map_eq_some_iff.1 h
    rw [← natByte_of hk, ← natByte_of (entryNumber_eq_some.1 hn)]; rfl
  next hk =>
    obtain ⟨p, hp, rfl⟩ := Option.map_eq_some_iff.1 h
    rw [← natByte_of hk, ← natByte_of (portNumber_eq_some.1 hp)]; rfl
  next hk =>
    obtain ⟨m, hm, rfl⟩ := Option.map_eq_some_iff.1 h
    rw [← natByte_of hk, ← natByte_of (lineNumber_eq_some.1 hm)]; rfl
  next hk => cases h; rw [← natByte_of hk]; rfl
  next => cases h

/-- The nine classes of a set of sixteen bits. -/
theorem classSet_masked (w : BitVec 16) : (w.setWidth 9 : ClassBits).setWidth 16 = w &&& 0x1FF := by
  refine BitVec.eq_of_toNat_eq ?_
  have hw : w.toNat &&& 0x1FF = w.toNat % 512 := Nat.and_two_pow_sub_one_eq_mod w.toNat 9
  simp only [BitVec.toNat_setWidth, BitVec.toNat_and]
  rw [show (0x1FF : BitVec 16).toNat = 0x1FF from rfl, hw]
  omega

/-- The first seven bytes that are read back of a configuration as carried: what its source does not have reads 0 (R139). -/
def sourceReadBack (r : RawLineConfig) : List Byte :=
  [r.source,
    if r.source = 3 ∨ r.source = 6 then r.sourceIndex else 0,
    if r.source = 2 then r.scope else 0,
    if r.source = 2 ∧ r.scope ≠ 0 ∧ r.scope ≠ 5 then r.scopeIndex else 0] ++
  bytesOfWord (if r.source = 2 then r.classSet &&& 0x1FF else 0) ++
  [if r.source = 2 ∧ r.noted ≠ 0 then 1 else 0]

theorem sourceReadBack_warning {r : RawLineConfig} (h : r.source = 2) : sourceReadBack r =
    [2, 0, r.scope, if r.scope ≠ 0 ∧ r.scope ≠ 5 then r.scopeIndex else 0] ++ bytesOfWord (r.classSet &&& 0x1FF) ++
      [if r.noted ≠ 0 then 1 else 0] := by
  simp [sourceReadBack, h]

theorem sourceReadBack_indexed {r : RawLineConfig} (h : r.source = 3 ∨ r.source = 6) :
    sourceReadBack r = [r.source, r.sourceIndex, 0, 0, 0, 0, 0] := by
  rcases h with h | h <;> simp [sourceReadBack, h, bytesOfWord]

theorem sourceReadBack_plain {r : RawLineConfig} (h2 : r.source ≠ 2) (h3 : r.source ≠ 3) (h6 : r.source ≠ 6) :
    sourceReadBack r = [r.source, 0, 0, 0, 0, 0, 0] := by
  simp only [sourceReadBack, h2, h3, h6, or_self, false_and, if_false]; rfl

/-- A source reads back as stored. -/
theorem sourceOf_bytes {r : RawLineConfig} {src : Source} (h : sourceOf r = some src) : sourceBytes src = sourceReadBack r := by
  unfold sourceOf at h
  split at h
  case h_3 hs =>
    obtain ⟨sc, hsc, rfl⟩ := Option.map_eq_some_iff.1 h
    rw [sourceReadBack_warning (natByte_of hs).symm, sourceBytes, scopeOf_bytes hsc, classSet_masked, flagByte]
    simp only [bne_iff_ne]; rfl
  case h_4 hs =>
    obtain ⟨k, hk, rfl⟩ := Option.map_eq_some_iff.1 h
    rw [sourceReadBack_indexed (.inl (natByte_of hs).symm), sourceBytes, natByte_of (slotNumber_eq_some.1 hk), ← natByte_of hs]; rfl
  case h_7 hs =>
    rw [Option.ite_none_right_eq_some] at h
    obtain ⟨-, h⟩ := h
    cases h
    rw [sourceReadBack_indexed (.inr (natByte_of hs).symm), sourceBytes, natByte_of rfl, ← natByte_of hs]; rfl
  case h_9 => cases h
  all_goals
    rename_i hs
    cases h
    rw [sourceReadBack_plain] <;> rw [← natByte_of hs] <;> decide

theorem lineConfigOf_eq_some {r : RawLineConfig} {c : LineConfig} (h : lineConfigOf r = some c) :
    sourceOf r = some c.source ∧ displayOf r.display = some c.display ∧ polarityOf r.polarity = some c.polarity ∧
      r.holdCount.toNat = c.holdCount ∧ holdUnitOf r.holdUnit = some c.holdUnit ∧ c.senseCheck = (r.sense != 0) := by
  unfold lineConfigOf at h
  split at h
  next src d p u hsrc hd hp hu => cases h; exact ⟨hsrc, hd, hp, rfl, hu, rfl⟩
  next => cases h

/-- Settles O50, code by code: each byte that is not ignored is the code that it was taken for. -/
theorem storedConfigurationsReadBack : Obligations.StoredConfigurationsReadBack := by
  intro r c h
  obtain ⟨hsrc, hd, hp, hk, hu, hcheck⟩ := lineConfigOf_eq_some h
  rw [lineConfigBytes, sourceOf_bytes hsrc, displayOf_code hd, polarityOf_code hp, natByte_of hk, holdUnitOf_code hu, hcheck]
  simp [sourceReadBack, flagByte]

end Sys2Proof.Machine
end

section
/-! PROOFS. The commit at a blink boundary: the lines it changes, their LAMP_FAULT reports, and the frame (O51). -/

namespace Sys2Proof.Machine

/-! ### Reports of one block -/

/-- The acts of one block are taken in the order in which it posted them, where no other block posted any (R118). -/
theorem takeReports_oneBlock {s : State} {b : Block} (h : ∀ q ∈ s.engine.posted, q.block = b) :
    s.takeReports = (s.engine.posted.map (·.act)).foldl applyAct
      { s with engine := { s.engine with posted := [] }, choice := s.choice + s.engine.posted.length } := by
  obtain ⟨l, hperm, hkept, htaken⟩ := takeReports_blockOrder s
  have hacts : actsOf s.engine.posted b = s.engine.posted.map (·.act) := by
    rw [actsOf, List.filter_eq_self.2 fun q hq => beq_iff_eq.2 (h q hq)]
  have hl : s.engine.posted.map (·.act) = l := (hacts ▸ hkept b).eq_of_length hperm.length_eq.symm
  rw [htaken, hl]

/-- The report that a line's lamp is not faulty. -/
def lampReport (m : Fin 16) : Posted := ⟨.lines, .report (lampWarning m) false⟩

/-- The engine takes each as a clear of a latched warning (R121). -/
theorem foldl_lampReports (ms : List (Fin 16)) (s : State) : (((ms.map lampReport).map (·.act)).foldl applyAct s).engine =
    ms.foldl (fun g m => g.clear .latched ⟨.line m, .lampFault⟩) s.engine := by
  induction ms generalizing s with
  | nil => rfl
  | cons m ms ih =>
    rw [List.map_cons, List.map_cons, List.foldl_cons, List.foldl_cons, ih, lampReport,
      applyAct_report (id := lampWarning m) (s := s) rfl]
    rfl

/-! ### The parts of a commit -/

/-- The changed lines whose LAMP_FAULT condition was true, in line order (R149). -/
def clearedLamps (old : Vector Line 16) : List (Fin 16) := (List.finRange 16).filter fun m => old[m].changes && old[m].fault

/-- The staged configurations in force, with the changed lines' reports posted. -/
def State.takenUp (s : State) : State := { s with
  engine := { s.engine with posted := s.engine.posted ++ (clearedLamps s.lines.line).map lampReport }
  lines := { s.lines with
    commitPending := false
    line := mapTable s.lines.line fun _ l => if l.changes then l.committed else l } }

theorem forList_lampReports (old : Vector Line 16) (ms : List (Fin 16)) (s : State) :
    forList (fun m s => if old[m].changes then s.postChange .lines (lampWarning m) old[m].fault false else s) ms s =
      { s with engine := { s.engine with
        posted := s.engine.posted ++ (ms.filter fun m => old[m].changes && old[m].fault).map lampReport } } := by
  induction ms generalizing s with
  | nil => rw [List.filter_nil, List.map_nil, List.append_nil]; rfl
  | cons m ms ih =>
    have hone : (if old[m].changes then s.postChange .lines (lampWarning m) old[m].fault false else s) =
        if (old[m].changes && old[m].fault) = true then s.post .lines (.report (lampWarning m) false) else s := by
      cases old[m].changes <;> cases old[m].fault <;> rfl
    show forList _ ms (if old[m].changes then s.postChange .lines (lampWarning m) old[m].fault false else s) = _
    rw [ih, hone, List.filter_cons]
    split
    · simp only [State.post, List.map_cons, List.append_assoc, List.singleton_append]; rfl
    · rfl

/-- A commit: the staged configurations taken up, the reports taken, and each changed line judged anew (R149). -/
theorem commit_eq (s : State) : commit s = { s.takenUp.takeReports with lines := { s.takenUp.takeReports.lines with
    line := mapTable s.takenUp.takeReports.lines.line fun m l =>
      if s.lines.line[m].changes then l.unheld (s.takenUp.takeReports.sourceState l.live.source) else l } } := by
  unfold commit
  simp only [forEach_eq_forList, forList_lampReports]
  rfl

theorem commit_posted (s : State) : (commit s).engine.posted = [] := by
  rw [commit_eq]; exact takeReports_posted _

theorem commit_lines (s : State) :
    (commit s).lines = { s.lines with commitPending := false, line := (commit s).lines.line } := by
  rw [commit_eq, takeReports_lines]; rfl

theorem commit_engine {s : State} (h : s.engine.posted = []) : (commit s).engine =
    (clearedLamps s.lines.line).foldl (fun g m => g.clear .latched ⟨.line m, .lampFault⟩) s.engine := by
  have hposted : s.takenUp.engine.posted = (clearedLamps s.lines.line).map lampReport := by
    rw [State.takenUp, h, List.nil_append]
  have hblock : ∀ q ∈ s.takenUp.engine.posted, q.block = .lines := fun q hq => by
    rw [hposted] at hq
    obtain ⟨m, -, rfl⟩ := List.mem_map.1 hq
    rfl
  have hnone : ({ s.takenUp.engine with posted := [] } : Engine) = s.engine := by rw [← h]; rfl
  rw [commit_eq]
  show s.takenUp.takeReports.engine = _
  rw [takeReports_oneBlock hblock, hposted, foldl_lampReports]
  exact congrArg (fun g => (clearedLamps s.lines.line).foldl (fun g m => g.clear .latched ⟨.line m, .lampFault⟩) g) hnone

/-- A commit leaves an unchanged line as it stands, and judges a changed one by its new source (R143, R149). -/
theorem commit_line (s : State) (m : Fin 16) : (commit s).lines.line[m] =
    if s.lines.line[m].changes then s.lines.line[m].committed.unheld ((commit s).sourceState s.lines.line[m].staged.source)
    else s.lines.line[m] := by
  have hsrc : ∀ src, (commit s).sourceState src = s.takenUp.takeReports.sourceState src := fun src => by rw [commit_eq]; rfl
  simp only [hsrc]
  rw [commit_eq]
  simp only [mapTable_get, takeReports_lines, State.takenUp]
  split <;> rfl

/-! ### The lines that a boundary leaves -/

/-- A line that is settled keeps its configurations, its LAMP_FAULT condition and its sense input. -/
theorem settleLine_rest (s : State) (l : Line) : s.settleLine l = { l with
    source := s.sourceState l.live.source, active := (s.settleLine l).active, hold := (s.settleLine l).hold,
    disagree := (s.settleLine l).disagree, agree := (s.settleLine l).agree } := by
  unfold State.settleLine
  rw [restSense_rest, Line.follow_rest]

/-- A changed line takes its source's state at once, and loads its hold timer where it was inactive (R143, R149). -/
theorem settleLine_committed (s : State) (l : Line) : s.settleLine (l.committed.unheld (s.sourceState l.staged.source)) =
    { l.committed with
      source := s.sourceState l.staged.source
      active := s.sourceState l.staged.source
      hold := if s.sourceState l.staged.source = true ∧ l.active = false then l.staged.holdTime else 0 } := by
  have hfollow : ∀ src, (l.committed.unheld src).follow src = { l.committed with
      source := src, active := src, hold := if src = true ∧ l.active = false then l.staged.holdTime else 0 } := fun src => by
    unfold Line.follow Line.unheld Line.committed
    cases src <;> cases l.active <;> rfl
  show s.restSense ((l.committed.unheld _).follow (s.sourceState l.staged.source)) = _
  rw [hfollow, restSense_zero s rfl rfl]

theorem finish_commit (s : State) : finish (commit s) = settleLines (commit s) := finish_eq_settleLines (commit_posted s)

theorem boundary_unchanged (s : State) {m : Fin 16} (h : s.lines.line[m].live = s.lines.line[m].staged) :
    (finish (commit s)).lines.line[m] = (finish (commit s)).settleLine s.lines.line[m] := by
  have hc : s.lines.line[m].changes = false := by rw [Line.changes, h, bne_self_eq_false]
  rw [finish_line, commit_line, hc]; rfl

theorem boundary_changed (s : State) {m : Fin 16} (h : s.lines.line[m].live ≠ s.lines.line[m].staged) :
    (finish (commit s)).lines.line[m] = { s.lines.line[m].committed with
      source := (finish (commit s)).sourceState s.lines.line[m].staged.source
      active := (finish (commit s)).sourceState s.lines.line[m].staged.source
      hold := if (finish (commit s)).sourceState s.lines.line[m].staged.source = true ∧ s.lines.line[m].active = false
        then s.lines.line[m].staged.holdTime else 0 } := by
  have hc : s.lines.line[m].changes = true := bne_iff_ne.2 h
  have hsrc : (commit s).sourceState s.lines.line[m].staged.source =
      (finish (commit s)).sourceState s.lines.line[m].staged.source := by rw [finish_commit, settleLines_sourceState]
  rw [finish_line, commit_line, if_pos hc, hsrc, settleLine_committed]

/-- Settles O51: the boundary taken and the commit made, line by line. -/
theorem boundaryMakesTheCommit : Obligations.BoundaryMakesTheCommit := by
  intro s hs hdue
  have hexec : exec .blinkBoundary s = .next (finish (blinkBoundary s)) := by
    rw [exec_blinkBoundary, occur_due hs.1 (by rw [running_of_ticking hs, hdue]; rfl)]
  rw [hexec]
  refine ⟨fun hc => by simp only [blinkBoundary, hc, Bool.false_eq_true, if_false], fun hc => ?_⟩
  generalize hu : ({ s with lines := { s.lines with boundaryDue := false } } : State) = u
  have hline : s.lines.line = u.lines.line := by rw [← hu]
  have hcommit : blinkBoundary s = commit u := by rw [← hu]; exact if_pos hc
  have hengine : s.engine = u.engine := by rw [← hu]
  rw [hcommit, hline, hengine]
  refine ⟨_, rfl, by rw [finish_commitPending, commit_lines], by rw [finish_boundaryDue, commit_lines, ← hu],
    by rw [finish_phase, commit_lines, ← hu], fun m => ?_, fun hn => ?_, ?_⟩
  · by_cases h : u.lines.line[m].live = u.lines.line[m].staged
    · have hm := boundary_unchanged u h
      rw [settleLine_rest] at hm
      refine ⟨?_, ?_, ?_, fun _ => ?_, fun _ => boundary_unchanged u h, fun hne => absurd h hne⟩ <;> rw [hm]
      exact h
    · rw [boundary_changed u h]
      exact ⟨rfl, rfl, rfl, fun he => absurd he h, fun he => absurd he h, fun _ => ⟨rfl, rfl, rfl, rfl, rfl, rfl⟩⟩
  · rw [finish_commit]
    show (commit u).engine = _
    rw [commit_engine hn, clearedLamps]
    refine congrArg (List.foldl _ _) (List.filter_congr fun m _ => ?_)
    rw [Bool.eq_iff_iff]
    simp only [Line.changes, Bool.and_eq_true, bne_iff_ne, decide_eq_true_eq]
  · rw [finish_commit, settleLines, commit_rest, ← hu]

end Sys2Proof.Machine
end


section
/-! PROOFS. The indicator lines between commits: what sources read, when a line is lit and driven, how it follows its source, and how
its hold and its lamp are timed (O52). -/

namespace Sys2Proof.Machine

/-! ### Sources -/

theorem gate_iff (s : State) (k : Fin 6) : s.gate k = true ↔
    k.1 < s.floor.capacity ∧ ∃ x : LiveSlot, s.floor.live[k] = some x ∧ s.speaking x.holder = true := by
  unfold State.gate Floor.liveHolder
  cases s.floor.live[k] <;> simp

theorem chairKeyOn_iff (s : State) : s.chairKeyOn = true ↔ s.mode = .session ∧ ∃ (n : Fin 200) (e : Entry),
    s.floor.chair = some n ∧ s.roster[n] = some e ∧ e.keyOn = true := by
  unfold State.chairKeyOn
  cases s.floor.chair with
  | none => simp
  | some n => cases hn : s.roster[n] <;> simp [-Fin.getElem_fin, hn, and_comm]

theorem chairSpeaking_iff (s : State) : s.chairSpeaking = true ↔ s.mode = .session ∧ s.floor.cause ≠ .silence ∧
    ∃ (n : Fin 200) (e : Entry), s.floor.chair = some n ∧ s.roster[n] = some e ∧ e.switch = .opened ∧
      (e.presence = .live ∨ e.presence = .fading) := by
  unfold State.chairSpeaking
  simp only [Bool.and_eq_true, bne_iff_ne, chairKeyOn_iff, keyOn_iff]
  exact and_right_comm.trans and_assoc

/-- A subject is in a scope by its kind and its index or, for an entry, its occupation and its group (R141). -/
theorem inScope_iff (s : State) (sc : Scope) (x : Subject) : s.inScope sc x = true ↔
    match sc with
    | .anyUnit => ∃ n : Fin 200, x = .entry n ∧ s.roster[n].isSome
    | .group g => ∃ (n : Fin 200) (e : Entry), x = .entry n ∧ s.roster[n] = some e ∧ e.group = g
    | .entry n => x = .entry n ∧ s.roster[n].isSome
    | .port p => x = .port p
    | .line m => x = .line m
    | .chamber => x = .chamber := by
  cases sc with
  | anyUnit =>
    cases x with
    | entry n => exact ⟨fun h => ⟨n, rfl, h⟩, fun ⟨_, hx, h⟩ => by cases hx; exact h⟩
    | _ => exact iff_of_false Bool.false_ne_true fun ⟨_, hx, _⟩ => nomatch hx
  | group g =>
    cases x with
    | entry n =>
      rw [inScope_group, Option.any_eq_true]
      exact ⟨fun ⟨e, he, hg⟩ => ⟨n, e, rfl, he, beq_iff_eq.1 hg⟩, fun ⟨_, e, hx, he, hg⟩ => by cases hx; exact ⟨e, he, beq_iff_eq.2 hg⟩⟩
    | _ => exact iff_of_false Bool.false_ne_true fun ⟨_, _, hx, _⟩ => nomatch hx
  | entry n =>
    cases x with
    | entry m =>
      refine Bool.and_eq_true_iff.trans ⟨fun ⟨hm, h⟩ => ?_, fun ⟨hx, h⟩ => ?_⟩
      · cases beq_iff_eq.1 hm
        exact ⟨rfl, h⟩
      · cases hx
        exact ⟨beq_self_eq_true _, h⟩
    | _ => exact iff_of_false Bool.false_ne_true fun ⟨hx, _⟩ => nomatch hx
  | port p =>
    cases x with
    | port q => exact beq_iff_eq.trans ⟨fun h => congrArg _ h.symm, fun h => (Subject.port.inj h).symm⟩
    | _ => exact iff_of_false Bool.false_ne_true nofun
  | line m =>
    cases x with
    | line k => exact beq_iff_eq.trans ⟨fun h => congrArg _ h.symm, fun h => (Subject.line.inj h).symm⟩
    | _ => exact iff_of_false Bool.false_ne_true nofun
  | chamber =>
    cases x with
    | chamber => exact iff_of_true rfl rfl
    | _ => exact iff_of_false Bool.false_ne_true nofun

theorem warningSource_iff (s : State) (sc : Scope) (cs : ClassBits) (noted : Bool) : s.sourceState (.warning sc cs noted) = true ↔
    ∃ r ∈ s.engine.warnings, (r.state = .raised ∨ r.state = .standing ∨ r.state = .noted ∧ noted = true) ∧
      cs.getLsbD r.id.cls.code = true ∧ s.inScope sc r.id.subject = true := by
  have hstate : ∀ st : ActiveState, (st.pending || noted) = true ↔ st = .raised ∨ st = .standing ∨ st = .noted ∧ noted = true :=
    fun st => by cases st <;> simp [ActiveState.pending]
  simp only [State.sourceState, State.matching, List.any_eq_true, List.mem_filter, Bool.and_eq_true, inClassSet, hstate]
  refine exists_congr fun r => ?_
  tauto

theorem sourcesReadTheBlocks : Claims.SourcesReadTheBlocks := by
  intro s
  refine ⟨rfl, rfl, gate_iff s, chairSpeaking_iff s, ?_, beq_iff_eq, fun v => ?_, fun sc cs noted => ?_⟩
  · show (s.floor.cause != .none) = true ↔ _
    cases s.floor.cause <;> simp
  · simp only [State.sourceState, List.any_eq_true, decide_eq_true_eq]
  · rw [warningSource_iff]
    refine exists_congr fun r => and_congr_right fun _ => and_congr_right fun _ => and_congr_right fun _ => ?_
    refine (inScope_iff s sc r.id.subject).trans ?_
    cases sc <;> rfl

/-! ### Lit and driven -/

theorem alertPending_iff (s : State) (src : Source) : s.alertPending src = true ↔
    ∃ (sc : Scope) (cs : ClassBits) (noted : Bool), src = .warning sc cs noted ∧ s.sourceState (.warning sc cs false) = true := by
  cases src <;> simp [State.alertPending, State.sourceState]

theorem fastLit_iff (phase : Nat) : fastLit phase = true ↔ phase / 125 % 2 = 0 := beq_iff_eq

/-- The pattern of a display at the blink phase (R145). -/
theorem pattern_iff (s : State) (c : LineConfig) : s.pattern c = true ↔
    match c.display with
    | .steady => True
    | .slow => s.lines.phase < 500
    | .fast => s.lines.phase / 125 % 2 = 0
    | .alert => ∀ (sc : Scope) (cs : ClassBits) (noted : Bool), c.source = .warning sc cs noted →
        s.sourceState (.warning sc cs false) = true → s.lines.phase / 125 % 2 = 0 := by
  unfold State.pattern
  cases c.display with
  | steady => exact iff_of_true rfl trivial
  | slow => exact decide_eq_true_iff
  | fast => exact fastLit_iff _
  | alert =>
    have hpending := alertPending_iff s c.source
    by_cases h : s.alertPending c.source = true
    · obtain ⟨sc, cs, noted, hsrc, hon⟩ := hpending.1 h
      simp only [h, if_true, fastLit_iff]
      exact ⟨fun hlit _ _ _ _ _ => hlit, fun hall => hall sc cs noted hsrc hon⟩
    · simp only [h]
      exact iff_of_true rfl fun sc cs noted hsrc hon => absurd (hpending.2 ⟨sc, cs, noted, hsrc, hon⟩) h

theorem lineLit_iff (s : State) (l : Line) :
    s.lineLit l = true ↔ l.active = true ∧ s.mode ≠ .dormant ∧ s.inReset = false ∧ s.pattern l.live = true := by
  unfold State.lineLit
  simp only [Bool.and_eq_true, bne_iff_ne, Bool.not_eq_true']
  tauto

theorem linesAreLitAndDriven : Claims.LinesAreLitAndDriven := by
  intro s l
  refine ⟨(lineLit_iff s l).trans ?_, fun hr => lineDriven_inReset hr l, fun hr hp => ?_, fun hr hp => ?_⟩
  · refine and_congr_right fun _ => and_congr_right fun _ => and_congr_right fun _ => ?_
    refine (pattern_iff s l.live).trans ?_
    cases l.live.display <;> rfl
  · simp only [State.lineDriven, hr, hp, Bool.false_eq_true, if_false]
  · simp only [State.lineDriven, hr, hp, Bool.false_eq_true, if_false]

/-! ### Following a source -/

theorem Line.follow_on_active (l : Line) : (l.follow true).active = true := by
  unfold Line.follow
  cases l.active <;> rfl

/-- A rise of an inactive line loads its hold timer (R143). -/
theorem Line.follow_rise_hold {l : Line} (h : l.active = false) : (l.follow true).hold = l.live.holdTime := by
  unfold Line.follow
  rw [if_pos rfl, h]; rfl

/-- A line whose source is off stays active where it was, unless its source falls with the hold timer at 0 (R143). -/
theorem Line.follow_off_active (l : Line) : (l.follow false).active = true ↔ l.active = true ∧ ¬(l.source = true ∧ l.hold = 0) := by
  show (l.active && !(l.source && l.hold == 0)) = true ↔ _
  rw [Bool.and_eq_true, Bool.not_eq_true', ← Bool.not_eq_true, Bool.and_eq_true, beq_iff_eq]

/-- Judging the sense times changes neither activity nor hold timer. -/
theorem settleLine_active (s : State) (l : Line) : (s.settleLine l).active = (l.follow (s.sourceState l.live.source)).active := by
  rw [State.settleLine, restSense_rest]

theorem settleLine_hold (s : State) (l : Line) : (s.settleLine l).hold = (l.follow (s.sourceState l.live.source)).hold := by
  rw [State.settleLine, restSense_rest]

theorem lineFollowsItsSource : Claims.LineFollowsItsSource := by
  intro s m l src hl hn hsrc
  have hline : (finish s).lines.line[m] = s.settleLine l := by rw [finish_eq_settleLines hn, settleLines_line, hl]
  have hactive := settleLine_active s l
  have hhold := settleLine_hold s l
  rw [← hsrc] at hactive hhold
  rw [hline]
  refine ⟨by rw [settleLine_rest, hsrc], fun hon => ?_, fun hon ha => ?_, fun ha => ?_, fun hoff ha hlasts => ?_, fun hoff hends => ?_,
    by rw [settleLine_rest], by rw [settleLine_rest], by rw [settleLine_rest], by rw [settleLine_rest]⟩
  · rw [hactive, hon, Line.follow_on_active]
  · rw [hhold, hon, Line.follow_rise_hold ha]
  · rw [hhold, Line.follow_hold fun _ => ha]
  · rw [hactive, hoff, Line.follow_off_active]
    refine ⟨ha, fun ⟨hs, h0⟩ => ?_⟩
    rcases hlasts with h | h
    · exact absurd h0 h.ne'
    · rw [hs] at h; cases h
  · rw [hactive, hoff, ← Bool.not_eq_true, Line.follow_off_active]
    rintro ⟨ha, hnot⟩
    rcases hends with h | h
    · rw [ha] at h; cases h
    · exact hnot h

/-! ### Hold, lamp and sense input -/

theorem lineFault_detected {s : State} {m : Fin 16} (h : s.lines.line[m].fault = false) : lineFault m true s =
    (s.setLine m { s.lines.line[m] with fault := true }).post .lines (.report ⟨.line m, .lampFault⟩ true) := by
  unfold lineFault; rw [h]; rfl

theorem lineFault_cleared {s : State} {m : Fin 16} (h : s.lines.line[m].fault = true) : lineFault m false s =
    (s.setLine m { s.lines.line[m] with fault := false }).post .lines (.report ⟨.line m, .lampFault⟩ false) := by
  unfold lineFault; rw [h]; rfl

theorem exec_senseInputChange_line (m : Fin 16) (high : Bool) (s : State) : exec (.senseInputChange m high) s =
    .next (s.setLine m (s.restSense (s.lines.line[m].withSense high))) := by
  rw [exec_senseInputChange]
  simp only [State.setLine, setAt_get_same, setAt_setAt]
  rfl

/-- A sense input followed: the time that it contradicts returns to 0, and both where the sense is not in use (R151). -/
theorem withSense_rested (s : State) (l : Line) (high : Bool) {x : Line} (hx : x = s.restSense (l.withSense high)) :
    (s.lineLit l = true → l.live.senseCheck = true →
      (high = s.lineDriven l → x.disagree = 0 ∧ x.agree = l.agree) ∧
      (high ≠ s.lineDriven l → x.agree = 0 ∧ x.disagree = l.disagree)) ∧
    (s.lineLit l = false ∨ l.live.senseCheck = false → x.disagree = 0 ∧ x.agree = 0) := by
  subst hx
  refine ⟨fun hlit hcheck => ?_, fun hnot => restSense_unused ?_⟩
  · have huse : s.senseInUse (l.withSense high) = true := Bool.and_eq_true_iff.2 ⟨hlit, hcheck⟩
    obtain ⟨hyes, hno⟩ := restSense_used huse
    exact ⟨fun h => hyes (beq_iff_eq.2 h), fun h => hno (beq_eq_false_iff_ne.2 h)⟩
  · exact Bool.and_eq_false_iff.2 hnot

theorem linesExpireAndLampsAreChecked : Claims.LinesExpireAndLampsAreChecked := by
  intro s m
  refine ⟨fun hs ha hsrc hh => ?_, fun hs hd hf => ?_, fun hs hd hf => ?_, fun high =>
    ⟨_, exec_senseInputChange_line m high s, restSense_rest s _, withSense_rested s s.lines.line[m] high rfl⟩⟩
  · have hdue : s.lines.line[m].holdDue = true := by simp only [Line.holdDue, ha, hsrc, hh]; rfl
    rw [exec_holdExpiry, occur_due hs.1 (by rw [running_of_ticking hs, hdue]; rfl)]
  · have hdue : s.lines.line[m].faultDue = true := by rw [Line.faultDue, hf, Bool.and_eq_true]; exact ⟨decide_eq_true hd, rfl⟩
    rw [exec_lampFaultDetected, occur_due hs.1 (by rw [running_of_ticking hs, hdue]; rfl), lineFault_detected hf]
  · have hdue : s.lines.line[m].soundDue = true := by rw [Line.soundDue, hf, Bool.and_eq_true]; exact ⟨decide_eq_true hd, rfl⟩
    rw [exec_lampFaultCleared, occur_due hs.1 (by rw [running_of_ticking hs, hdue]; rfl), lineFault_cleared hf]

/-- Settles O52: sources, lit states and levels by their definitions, case by case; a line by the move that its source makes. -/
theorem linesFollowExpireAndAreChecked : Obligations.LinesFollowExpireAndAreChecked :=
  ⟨sourcesReadTheBlocks, linesAreLitAndDriven, lineFollowsItsSource, linesExpireAndLampsAreChecked⟩

end Sys2Proof.Machine
end

section
/-! PROOFS. No run of the part stops (O2). -/

namespace Sys2Proof.Machine

/-- Every row answers a next state: an event by its own row or through `occur`, a command through `runCommand` (R170, R171). -/
theorem exec_completes (i : Instr) (s : State) : Completes (exec i s) := by
  cases i with
  | _ => exact ⟨_, rfl⟩

theorem step_completes (s : State) : Completes (step s) := by
  unfold step
  split
  · exact ⟨autonomous s, rfl⟩
  · exact exec_completes _ _

/-- Settles O2: every state has a next one, so every state that a run reaches has. -/
theorem noRunStops : Obligations.NoRunStops := fun _ t _ => step_completes t

end Sys2Proof.Machine
end

section
/-! PROOFS. Commands and the bytes that spell them: each is read back from its bytes, and every code with its parameters spells one
(O10). -/

namespace Sys2Proof.Laws

/-! ### From commands to bytes and back -/

/-- Every well-formed row is read back from its bytes: the family WireRoundTrip, put together. -/
theorem WireRoundTrip.holds (i : Instr) : Statement i := by
  cases i with
  | deviceReset | resetEnd | frameComplete | stopBitMissing | byteGapTimeout | frameGapReject | answerSent | resyncIdle
  | warmUpEnd | portSilenceExpiry | frameTake | strangerAgeExpiry | poolWindowExpiry | entryFading | entryLost
  | sweepVisit | silentExpiry | hotDelayReached | silenceInputChange | silenceDebounceExpiry | blinkBoundary
  | holdExpiry | senseInputChange | lampFaultDetected | lampFaultCleared | csNFall | csNRise | waitingCommandStart
  | commandRefusedBusy | characterComplete | byteComplete => exact of_event rfl
  | enrol u s g p => exact enrol u s g p
  | enrolStranger i s g p => exact enrolStranger i s g p
  | retire n => exact retire n
  | findUnit u => exact findUnit u
  | findSeat s => exact findSeat s
  | readEntry n => exact readEntry n
  | amendEntry n s g p => exact amendEntry n s g p
  | grantFloor n => exact grantFloor n
  | revokeFloor n => exact revokeFloor n
  | setFloorCapacity c => exact setFloorCapacity c
  | mute n => exact mute n
  | unmute n => exact unmute n
  | muteAll => exact muteAll
  | unmuteAll => exact unmuteAll
  | setChair n => exact setChair n
  | readAttention i => exact readAttention i
  | acknowledge k i c st => exact acknowledge k i c st
  | ackListed => exact ackListed
  | readStrangers => exact readStrangers
  | readPort p => exact readPort p
  | enablePortOn p => exact enablePortOn p
  | enablePortOff p v => exact enablePortOff p v
  | setProfile p r => exact setProfile p r
  | readProfile p => exact readProfile p
  | setPortSilenceTime v => exact setPortSilenceTime v
  | setCombiningWindow v => exact setCombiningWindow v
  | setLostTime v => exact setLostTime v
  | setSignalFloor v => exact setSignalFloor v
  | setSmoothingShift v => exact setSmoothingShift v
  | setWeakThreshold v => exact setWeakThreshold v
  | setPoorThreshold v => exact setPoorThreshold v
  | setSilentTime v => exact setSilentTime v
  | setAutoRevoke v => exact setAutoRevoke v
  | setHotDelay v => exact setHotDelay v
  | setPriorityFunction v => exact setPriorityFunction v
  | setPendingType i v => exact setPendingType i v
  | setIrqMask v => exact setIrqMask v
  | readTuning i => exact readTuning i
  | stageLine m r => exact stageLine m r
  | applyLines => exact applyLines
  | readLine m => exact readLine m
  | setModeRecess v => exact setModeRecess v
  | setModeSession => exact setModeSession
  | setModeDormant => exact setModeDormant
  | readStatus => exact readStatus
  | chamberReset => exact chamberReset
  | unknownCommand c => exact unknownCommand c

/-! ### From bytes to commands and back -/

/-- A code and parameter bytes spell a well-formed command, whose own bytes they are. -/
def Spells (code : Byte) (ps : List Byte) : Prop :=
  WellFormed (rowOf code ps) = true ∧ wireOf (rowOf code ps) = some (code, ps)

theorem Spells.of_row {i : Instr} {code : Byte} {ps : List Byte} (hr : rowOf code ps = i) (hi : WellFormed i = true)
    (hw : wireOf i = some (code, ps)) : Spells code ps := by
  subst hr; exact ⟨hi, hw⟩

/-- The low byte of a number made of bytes is the last one. -/
theorem lowByte_append {n : Nat} (x : BitVec n) (b : Byte) : (x ++ b).extractLsb' 0 8 = b := by
  rw [BitVec.extractLsb'_append_eq_of_add_le (by omega), BitVec.extractLsb'_eq_self]

/-- The bytes above the low one are those of the number without it. -/
theorem highByte_append {n : Nat} (x : BitVec n) (b : Byte) (k : Nat) : (x ++ b).extractLsb' (k + 8) 8 = x.extractLsb' k 8 := by
  rw [BitVec.extractLsb'_append_eq_of_le (by omega), Nat.add_sub_cancel]

theorem bytesOfWord_append (a b : Byte) : bytesOfWord (a ++ b) = [a, b] := by
  rw [bytesOfWord, highByte_append a b 0, lowByte_append, BitVec.extractLsb'_eq_self]

theorem bytesOfUnit_append (a b c : Byte) : bytesOfUnit (a ++ b ++ c : BitVec (8 + 8 + 8)) = [a, b, c] := by
  rw [bytesOfUnit, highByte_append (a ++ b) c 8, highByte_append (a ++ b) c 0, lowByte_append, highByte_append a b 0, lowByte_append,
    BitVec.extractLsb'_eq_self]

theorem bytesOfValue_append (a b c d : Byte) : bytesOfValue (a ++ b ++ c ++ d : BitVec (8 + 8 + 8 + 8)) = [a, b, c, d] := by
  rw [bytesOfValue, highByte_append (a ++ b ++ c) d 16, highByte_append (a ++ b ++ c) d 8, highByte_append (a ++ b ++ c) d 0,
    lowByte_append, highByte_append (a ++ b) c 8, highByte_append (a ++ b) c 0, lowByte_append, highByte_append a b 0, lowByte_append,
    BitVec.extractLsb'_eq_self]

/-- The codes that take no parameters (section 11.4). -/
def bareCodes : List Byte := [0x25, 0x26, 0x32, 0x40, 0x61, 0x71, 0x72]

/-- The codes that take one parameter, a number, and stand for one row each (section 11.4). -/
def numberCodes : List Byte := [0x12, 0x14, 0x15, 0x20, 0x21, 0x22, 0x23, 0x24, 0x27, 0x30, 0x41, 0x51, 0x53, 0x62]

/-- The known codes, by the parameters that they take. -/
theorem knownCode_cases : ∀ code : Byte, knownCode code = true → code ∈ bareCodes ∨ code ∈ numberCodes ∨
    code ∈ ([0x10, 0x11, 0x13, 0x16, 0x31, 0x42, 0x50, 0x52, 0x60, 0x70] : List Byte) := by
  decide

theorem bareCode_spells {code : Byte} (h : code ∈ bareCodes) : Spells code [] := by
  simp only [bareCodes, List.mem_cons, List.not_mem_nil, or_false] at h
  obtain rfl | rfl | rfl | rfl | rfl | rfl | rfl := h <;> exact ⟨rfl, rfl⟩

theorem paramLength_bareCode {code : Byte} (h : code ∈ bareCodes) : paramLength code = 0 := by
  revert code; decide

theorem numberCode_spells {code : Byte} (h : code ∈ numberCodes) (a : Byte) : Spells code [a] := by
  simp only [numberCodes, List.mem_cons, List.not_mem_nil, or_false] at h
  obtain rfl | rfl | rfl | rfl | rfl | rfl | rfl | rfl | rfl | rfl | rfl | rfl | rfl | rfl := h <;> exact ⟨rfl, rfl⟩

theorem paramLength_numberCode {code : Byte} (h : code ∈ numberCodes) : paramLength code = 1 := by
  revert code; decide

/-- ENABLE_PORT: the value 1 is the row of its own, any other is carried (assumption log 8). -/
theorem enablePort_spells (p v : Byte) : Spells 0x42 [p, v] := by
  by_cases hv : v = 1
  · subst hv; exact ⟨rfl, rfl⟩
  · have hrow : enableRow p v = .enablePortOff p v := by
      unfold enableRow
      split
      · rename_i h; exact absurd (BitVec.eq_of_toNat_eq h) hv
      · rfl
    exact .of_row hrow (bne_iff_ne.2 hv) rfl

theorem modeRow_other {v : Byte} (h1 : v ≠ 1) (h2 : v ≠ 2) : modeRow v = .setModeRecess v := by
  unfold modeRow
  split
  · rename_i h; exact absurd (BitVec.eq_of_toNat_eq h) h1
  · rename_i h; exact absurd (BitVec.eq_of_toNat_eq h) h2
  · rfl

/-- SET_MODE: the values 1 and 2 are rows of their own, any other is carried (assumption log 8). -/
theorem setMode_spells (v : Byte) : Spells 0x70 [v] := by
  by_cases h1 : v = 1
  · subst h1; exact ⟨rfl, rfl⟩
  · by_cases h2 : v = 2
    · subst h2; exact ⟨rfl, rfl⟩
    · exact .of_row (modeRow_other h1 h2) (Bool.and_eq_true_iff.2 ⟨bne_iff_ne.2 h1, bne_iff_ne.2 h2⟩) rfl

theorem eq_ofNat_of_toNat {b : Byte} {k : Nat} (h : b.toNat = k) : b = BitVec.ofNat 8 k := by
  rw [← h, BitVec.ofNat_toNat, BitVec.setWidth_eq]

/-- SET_TUNING: an item with a row of its own, or one that SET_PENDING_TYPE carries (section 11.8, assumption log 8). -/
theorem tuningRow_spells (item : Byte) (v : BitVec 32) :
    WellFormed (tuningRow item v) = true ∧ wireOf (tuningRow item v) = some (0x52, item :: bytesOfValue v) := by
  unfold tuningRow
  split
  case h_13 =>
    refine ⟨?_, rfl⟩
    simp only [WellFormed, pendingItemNumber, Bool.or_eq_true, Bool.and_eq_true, decide_eq_true_eq, beq_iff_eq]
    simp only [imp_false] at *
    omega
  all_goals
    obtain rfl := eq_ofNat_of_toNat ‹_›
    exact ⟨rfl, rfl⟩

theorem setTuning_spells (i a b c d : Byte) : Spells 0x52 [i, a, b, c, d] := by
  have h := tuningRow_spells i (a ++ b ++ c ++ d : BitVec (8 + 8 + 8 + 8))
  rw [bytesOfValue_append] at h
  exact h

theorem enrol_spells (a b c s g p : Byte) : Spells 0x10 [a, b, c, s, g, p] :=
  .of_row rfl rfl (congrArg (fun u => some (0x10, u ++ [s, g, p])) (bytesOfUnit_append a b c))

theorem findUnit_spells (a b c : Byte) : Spells 0x13 [a, b, c] :=
  .of_row rfl rfl (congrArg (fun u => some (0x13, u)) (bytesOfUnit_append a b c))

theorem acknowledge_spells (k i c a b : Byte) : Spells 0x31 [k, i, c, a, b] :=
  .of_row rfl rfl (congrArg (fun w => some (0x31, [k, i, c] ++ w)) (bytesOfWord_append a b))

theorem setProfile_spells (n vl vc ve h₁ h₂ k nd nu j₁ j₂ : Byte) : Spells 0x50 [n, vl, vc, ve, h₁, h₂, k, nd, nu, j₁, j₂] :=
  .of_row rfl rfl (congrArg₂ (fun h j => some (0x50, n :: ([vl, vc, ve] ++ h ++ [k, nd, nu] ++ j)))
    (bytesOfWord_append h₁ h₂) (bytesOfWord_append j₁ j₂))

theorem stageLine_spells (m a b c d w₁ w₂ e f g h i j : Byte) : Spells 0x60 [m, a, b, c, d, w₁, w₂, e, f, g, h, i, j] :=
  .of_row rfl rfl (congrArg (fun w => some (0x60, m :: ([a, b, c, d] ++ w ++ [e, f, g, h, i, j]))) (bytesOfWord_append w₁ w₂))

/-- The codes whose parameters are several, or name the row. -/
theorem otherCode_spells {code : Byte} {ps : List Byte}
    (hc : code ∈ ([0x10, 0x11, 0x13, 0x16, 0x31, 0x42, 0x50, 0x52, 0x60, 0x70] : List Byte)) (h : ps.length = paramLength code) :
    Spells code ps := by
  simp only [List.mem_cons, List.not_mem_nil, or_false] at hc
  obtain rfl | rfl | rfl | rfl | rfl | rfl | rfl | rfl | rfl | rfl := hc
  · match ps, h with
    | [a, b, c, s, g, p], _ => exact enrol_spells a b c s g p
  · match ps, h with
    | [i, s, g, p], _ => exact ⟨rfl, rfl⟩
  · match ps, h with
    | [a, b, c], _ => exact findUnit_spells a b c
  · match ps, h with
    | [n, s, g, p], _ => exact ⟨rfl, rfl⟩
  · match ps, h with
    | [k, i, c, a, b], _ => exact acknowledge_spells k i c a b
  · match ps, h with
    | [p, v], _ => exact enablePort_spells p v
  · match ps, h with
    | [n, vl, vc, ve, h₁, h₂, k, nd, nu, j₁, j₂], _ => exact setProfile_spells n vl vc ve h₁ h₂ k nd nu j₁ j₂
  · match ps, h with
    | [i, a, b, c, d], _ => exact setTuning_spells i a b c d
  · match ps, h with
    | [m, a, b, c, d, w₁, w₂, e, f, g, h, i, j], _ => exact stageLine_spells m a b c d w₁ w₂ e f g h i j
  · match ps, h with
    | [v], _ => exact setMode_spells v

/-- A code that section 11.4 does not list is a command by itself (R170). -/
theorem unknownCode_spells {code : Byte} (h : knownCode code = false) : Spells code [] := by
  have hi : WellFormed (.unknownCommand code) = true := by simp only [WellFormed, h, Bool.not_false]
  exact .of_row (WireRoundTrip.unknownCommand code hi code [] rfl).1 hi rfl

theorem commandInfo_unknownCode {code : Byte} (h : knownCode code = false) : commandInfo code = none :=
  Option.isNone_iff_eq_none.1 (Option.isSome_eq_false_iff.1 h)

theorem paramLength_unknownCode {code : Byte} (h : knownCode code = false) : paramLength code = 0 := by
  rw [paramLength, commandInfo_unknownCode h]; rfl

theorem everyCodeWithItsParametersIsACommand : Claims.EveryCodeWithItsParametersIsACommand := by
  intro code ps h
  cases hk : knownCode code with
  | false =>
    obtain rfl := List.length_eq_zero_iff.1 (h.trans (paramLength_unknownCode hk))
    exact unknownCode_spells hk
  | true =>
    obtain hc | hc | hc := knownCode_cases code hk
    · obtain rfl := List.length_eq_zero_iff.1 (h.trans (paramLength_bareCode hc))
      exact bareCode_spells hc
    · obtain ⟨a, rfl⟩ := List.length_eq_one_iff.1 (h.trans (paramLength_numberCode hc))
      exact numberCode_spells hc a
    · exact otherCode_spells hc h

/-- Settles O10: a command from its bytes by the family WireRoundTrip, and bytes from their command by the shapes of parameters. -/
theorem commandsAndTheirBytesAgree : Obligations.CommandsAndTheirBytesAgree :=
  ⟨fun i code ps hi hw => WireRoundTrip.holds i hi code ps hw, everyCodeWithItsParametersIsACommand⟩

end Sys2Proof.Laws
end

section
/-! PROOFS. The wire of the command port: a byte in each phase, the reply as it is read (O11), a transaction from its begin to its end
(O12), and the transaction that a reply goes to (O13). -/

namespace Sys2Proof.Machine

/-! ### A byte after the command -/

section
variable {c : CommandPort}

theorem byte_unformed (hp : c.phase = .awaiting) (hr : c.reply = none) (b : Byte) : c.byte b = { c with miso := some 0 } := by
  simp only [CommandPort.byte, CommandPort.clockOut, hp, hr]

theorem byte_formed {r : Reply} (hp : c.phase = .awaiting) (hr : c.reply = some r) (b : Byte) :
    c.byte b = { c with phase := .replying, miso := some Config.readyMarker, sent := 0 } := by
  simp only [CommandPort.byte, CommandPort.clockOut, hp, hr]

theorem byte_replying {r : Reply} (hp : c.phase = .replying) (hr : c.reply = some r) (b : Byte) : c.byte b = { c with
    miso := some (r.bytes.getD c.sent 0xFF), sent := c.sent + 1
    phase := if c.sent + 1 < r.bytes.length then .replying else .trailing } := by
  simp only [CommandPort.byte, CommandPort.clockOut, hp, hr]

theorem byte_trailing (hp : c.phase = .trailing) (b : Byte) : c.byte b = { c with miso := some 0xFF } := by
  simp only [CommandPort.byte, CommandPort.clockOut, hp]

end

/-! ### What is read on MISO -/

theorem misoStream_unformed (bs : List Byte) {c : CommandPort} (hp : c.phase = .awaiting) (hr : c.reply = none) :
    misoStream c bs = List.replicate bs.length (some 0) := by
  induction bs generalizing c with
  | nil => rfl
  | cons b bs ih =>
    rw [misoStream, byte_unformed hp hr]
    exact congrArg (some 0 :: ·) (ih hp hr)

theorem misoStream_trailing (bs : List Byte) {c : CommandPort} (hp : c.phase = .trailing) :
    misoStream c bs = List.replicate bs.length (some 0xFF) := by
  induction bs generalizing c with
  | nil => rfl
  | cons b bs ih =>
    rw [misoStream, byte_trailing hp]
    exact congrArg (some 0xFF :: ·) (ih hp)

/-- From a byte of the reply on: the rest of the reply, a byte for each byte clocked, and 0xFF from then on. -/
theorem misoStream_replying {r : Reply} (cs : List Byte) (bs : List Byte) {c : CommandPort} (hp : c.phase = .replying)
    (hr : c.reply = some r) (hs : c.sent < r.bytes.length) (hl : bs.length = (r.bytes.drop c.sent).length) :
    misoStream c (bs ++ cs) = (r.bytes.drop c.sent).map some ++ List.replicate cs.length (some 0xFF) := by
  induction bs generalizing c with
  | nil => rw [List.length_drop, List.length_nil] at hl; omega
  | cons b bs ih =>
    rw [List.drop_eq_getElem_cons hs, List.length_cons, List.length_cons, Nat.add_right_cancel_iff] at hl
    rw [List.cons_append, misoStream, byte_replying hp hr, List.drop_eq_getElem_cons hs, List.getD_eq_getElem _ _ hs, List.map_cons,
      List.cons_append]
    congr 1
    by_cases hmore : c.sent + 1 < r.bytes.length
    · rw [if_pos hmore]
      exact ih rfl hr hmore hl
    · rw [if_neg hmore]
      have hend : r.bytes.drop (c.sent + 1) = [] := List.drop_eq_nil_of_le (not_lt.1 hmore)
      rw [hend] at hl ⊢
      rw [List.length_eq_zero_iff.1 hl]
      exact misoStream_trailing cs rfl

theorem replyIsRead : Claims.ReplyIsRead := by
  intro c bs cs hp
  refine ⟨misoStream_unformed bs hp, fun r hr hl => ?_⟩
  cases bs with
  | nil => cases hl
  | cons b bs =>
    have hl' : bs.length = r.bytes.length := Nat.succ.inj hl
    rw [List.cons_append, misoStream, byte_formed hp hr]
    exact congrArg (some 0xA5 :: ·) (misoStream_replying cs bs rfl hr (Nat.succ_pos _) hl')

theorem byteMovesTheTransaction : Claims.ByteMovesTheTransaction := by
  intro s b hs
  rw [exec_byteComplete, hs]
  exact ⟨fun h => by rw [h]; rfl, fun h => by rw [h]; rfl⟩

/-- Settles O11: the bytes of a reply, one for each byte clocked, by induction on the bytes clocked. -/
theorem replyIsClockedOut : Obligations.ReplyIsClockedOut := ⟨byteMovesTheTransaction, replyIsRead⟩

/-! ### A byte of the command -/

theorem chipSelectBoundsATransaction : Claims.ChipSelectBoundsATransaction := by
  intro s hs
  rw [exec_csNFall, exec_csNRise, hs]
  exact ⟨fun h => by rw [h]; rfl, fun h => by rw [h]; rfl⟩

theorem commandWhole_cons (code : Byte) (ps : List Byte) :
    commandWhole (code :: ps) = true ↔ knownCode code = false ∨ ps.length = paramLength code := by
  simp [commandWhole]

section
variable {c : CommandPort} {b code : Byte} {ps : List Byte}

theorem byte_collecting (hp : c.phase = .collecting) (b : Byte) : c.byte b = c.collect b := by
  simp only [CommandPort.byte, hp]

theorem full_withMiso (x : Option Byte) : ({ c with miso := x } : CommandPort).full = c.full := rfl

theorem byte_collected (hp : c.phase = .collecting) (hc : c.collected ++ [b] = code :: ps) (hw : commandWhole (code :: ps) = false) :
    c.byte b = { c with miso := some 0, collected := code :: ps } := by
  rw [byte_collecting hp]
  simp only [CommandPort.collect, hc, hw, Bool.false_eq_true, if_false]

/-- The byte that makes the command whole, with neither place free: the command is refused BUSY at once. -/
theorem byte_refused (hp : c.phase = .collecting) (hc : c.collected ++ [b] = code :: ps) (hw : commandWhole (code :: ps) = true)
    (hf : c.full = true) : c.byte b = { c with
      miso := some 0, collected := [], phase := .awaiting, reply := some ⟨.busy, List.replicate (replyLength code) 0⟩ } := by
  rw [byte_collecting hp]
  simp only [CommandPort.collect, hc, hw, full_withMiso, hf, if_true]
  rfl

/-- The byte that makes the command whole, with a place free: the command is taken. -/
theorem byte_taken (hp : c.phase = .collecting) (hc : c.collected ++ [b] = code :: ps) (hw : commandWhole (code :: ps) = true)
    (hf : c.full = false) : c.byte b = { c with miso := some 0 }.taken ⟨code, ps, true, false⟩ := by
  rw [byte_collecting hp]
  simp only [CommandPort.collect, hc, hw, full_withMiso, hf, if_true, Bool.false_eq_true, if_false]

theorem full_of_noneInProgress (h : c.inProgress = none) : c.full = false := by rw [CommandPort.full, h]; rfl

theorem full_of_noneWaiting (h : c.waiting = none) : c.full = false := by rw [CommandPort.full, h, Option.isSome_none, Bool.and_false]

theorem taken_inProgress (h : c.inProgress = none) (t : Taken) :
    c.taken t = { c with phase := .awaiting, collected := [], inProgress := some t } := by
  simp only [CommandPort.taken, h]

theorem taken_waiting (h : c.inProgress.isSome) (t : Taken) :
    c.taken t = { c with phase := .awaiting, collected := [], waiting := some t } := by
  obtain ⟨u, hu⟩ := Option.isSome_iff_exists.1 h
  simp only [CommandPort.taken, hu]

theorem busyDue_iff : c.busyDue b = true ↔
    c.csLow = true ∧ c.phase = .collecting ∧ c.full = true ∧ commandWhole (c.collected ++ [b]) = true := by
  simp [CommandPort.busyDue, and_assoc]

end

theorem exec_byteComplete_of {s : State} {b : Byte} {c : CommandPort} (hs : s.inReset = false) (hlow : s.command.csLow = true)
    (hb : s.command.byte b = c) : exec (.byteComplete b) s = .next { s with command := c } := by
  rw [(byteMovesTheTransaction s b hs).1 hlow, hb]

theorem bytesAreCollectedThenTaken : Claims.BytesAreCollectedThenTaken := by
  intro s b code ps hs hlow hp hc
  refine ⟨fun hk hl => exec_byteComplete_of hs hlow (byte_collected hp hc ?_), fun h => ?_⟩
  · rw [← Bool.not_eq_true, commandWhole_cons, hk]
    exact fun h => h.elim nofun hl
  · have hw := (commandWhole_cons code ps).2 h
    refine ⟨fun hnone => exec_byteComplete_of hs hlow ?_, fun hsome hnone => exec_byteComplete_of hs hlow ?_, fun hsome hwait => ?_⟩
    · exact (byte_taken hp hc hw (full_of_noneInProgress hnone)).trans (taken_inProgress (c := { s.command with miso := some 0 }) hnone _)
    · exact (byte_taken hp hc hw (full_of_noneWaiting hnone)).trans (taken_waiting (c := { s.command with miso := some 0 }) hsome _)
    · have hfull : s.command.full = true := Bool.and_eq_true_iff.2 ⟨hsome, hwait⟩
      have hdue : s.command.busyDue b = true := busyDue_iff.2 ⟨hlow, hp, hfull, by rw [hc]; exact hw⟩
      have hrefused := exec_byteComplete_of hs hlow (byte_refused hp hc hw hfull)
      have hsame : exec (.commandRefusedBusy b) s = exec (.byteComplete b) s := by
        rw [exec_commandRefusedBusy, exec_byteComplete, hs, hdue, hlow]
      exact ⟨hsame.symm, hsame.trans hrefused⟩

theorem handOver_eq {c : CommandPort} {w : Taken} (h : c.waiting = some w) :
    c.handOver = { c with inProgress := some w, waiting := none } := by
  rw [CommandPort.handOver, h]

theorem waitingCommandStarts : Claims.WaitingCommandStarts := by
  intro s t w hs ht hd hw
  have hdue : s.command.handOverDue = true := by
    simp only [CommandPort.handOverDue, hw, ht, hd]; rfl
  rw [exec_waitingCommandStart, handOver_eq hw, hs, hdue]; rfl

/-- Settles O12: what each row of the wire does to the port, by the phase and the two places. -/
theorem transactionsTakeCommands : Obligations.TransactionsTakeCommands :=
  ⟨chipSelectBoundsATransaction, bytesAreCollectedThenTaken, waitingCommandStarts⟩

/-! ### The reply's transaction -/

theorem isCarrying_some {c : CommandPort} {t : Taken} (h : c.inProgress = some t) (hd : t.done = false) :
    c.isCarrying (rowOf t.code t.params) = some t := by
  simp [CommandPort.isCarrying, h, Option.filter, hd]

theorem isCarrying_none {c : CommandPort} (h : c.inProgress = none) (i : Instr) : c.isCarrying i = none := by
  rw [CommandPort.isCarrying, h]; rfl

theorem carriedOut_eq (c : CommandPort) (t : Taken) (r : Reply) : c.carriedOut t r = { c with
    reply := if t.owned then some r else c.reply
    inProgress := if c.waiting.isSome then some { t with done := true } else none
    lastReply := some r } := by
  unfold CommandPort.carriedOut
  cases c.waiting <;> rfl

/-- Settles O13: a reply is held for the command in progress that the row is; with none in progress it is the model's record alone. -/
theorem replyGoesToItsOwnTransaction : Obligations.ReplyGoesToItsOwnTransaction := by
  intro i r s
  refine ⟨fun t ht hd hi => ?_, fun h => ?_⟩
  · subst hi
    rw [complete, isCarrying_some ht hd]
    exact congrArg (fun c => { s with command := c }) (carriedOut_eq s.command t r)
  · rw [complete, isCarrying_none h]

end Sys2Proof.Machine
end

section
/-! PROOFS. READ_TUNING: the stored values of the eighteen items (O39). -/

namespace Sys2Proof.Machine

/-- The stored values of the tuning items, in the order of section 11.8. -/
def Tuning.values (t : Tuning) : List (BitVec 32) :=
  [.ofNat 32 t.silenceTime, .ofNat 32 t.window, .ofNat 32 t.lostTime, .ofInt 32 t.signalFloor, .ofNat 32 t.shift, .ofInt 32 t.weak,
    .ofInt 32 t.poor, .ofNat 32 t.silentTime, if t.autoRevoke then 1 else 0, .ofNat 32 t.hotDelay, if t.priority then 1 else 0,
    .ofNat 32 t.pendingTypes.sigLost.code, .ofNat 32 t.pendingTypes.battCritical.code, .ofNat 32 t.pendingTypes.receiverSilent.code,
    .ofNat 32 t.pendingTypes.sigWeak.code, .ofNat 32 t.pendingTypes.hotMic.code, .ofNat 32 t.pendingTypes.battLow.code,
    t.irqMask.setWidth 32]

theorem ofNat_toNat_bool (b : Bool) : BitVec.ofNat 32 b.toNat = if b then 1 else 0 := by cases b <;> rfl

theorem tuningValue_none {item : Byte} (t : Tuning) (h : item.toNat = 0 ∨ 18 < item.toNat) : tuningValue t item = none := by
  unfold tuningValue
  split
  case h_19 => rfl
  all_goals omega

/-- An item's value is the one at its place in the order of section 11.8, which begins with item 1. -/
theorem tuningValue_eq {item : Byte} (t : Tuning) (h : 1 ≤ item.toNat) : tuningValue t item = t.values[item.toNat - 1]? := by
  by_cases hle : item.toNat ≤ 18
  · unfold tuningValue
    split
    case h_19 => simp only [imp_false] at *; omega
    case h_9 hi => rw [hi, ofNat_toNat_bool]; rfl
    case h_11 hi => rw [hi, ofNat_toNat_bool]; rfl
    all_goals
      rename_i hi
      rw [hi]; rfl
  · rw [tuningValue_none t (.inr (not_le.1 hle)), List.getElem?_eq_none]
    exact (show 18 ≤ item.toNat - 1 by omega)

theorem exec_readTuning_of {item : Byte} {s : State} {r : Reply} (hs : s.inReset = false)
    (hb : readTuningBody item (wakeIfDormant s) = .answered (wakeIfDormant s) r) :
    exec (.readTuning item) s = .next (complete (.readTuning item) r (wakeIfDormant s)) := by
  rw [exec_readTuning, runCommand, hs, hb]; rfl

theorem wakeIfDormant_tuning (s : State) : (wakeIfDormant s).tuning = s.tuning := by
  unfold wakeIfDormant
  split <;> rfl

/-- Settles O39: the wake leaves the items as they were, and an item's value stands at its place in the order of section 11.8. -/
theorem tuningItemsAreRead : Obligations.TuningItemsAreRead := by
  intro item s hs
  refine ⟨fun h => exec_readTuning_of hs ?_, fun v h hv => exec_readTuning_of hs ?_, wakeIfDormant_tuning s⟩
  · rw [readTuningBody, tuningValue_none _ h]; rfl
  · rw [readTuningBody, wakeIfDormant_tuning, (tuningValue_eq s.tuning h).trans hv]; rfl

end Sys2Proof.Machine
end

section
/-! PROOFS. Every reply has the length that section 11.4 gives its command's code, and a refusal is followed by zeros (O14). -/

namespace Sys2Proof.Machine

/-! ### Replies of a fixed length -/

/-- A reply with a number of bytes of data, all 0x00 unless the status is OK or ADJUSTED (R167, R171). -/
def Reply.Fits (len : Nat) (r : Reply) : Prop :=
  r.data.length = len ∧ (r.status = .ok ∨ r.status = .adjusted ∨ r.data = List.replicate len 0)

theorem refusal_fits (st : Status) (len : Nat) : (refusal st len).Fits len := ⟨List.length_replicate, .inr (.inr rfl)⟩

theorem okReply_fits {data : List Byte} {len : Nat} (h : data.length = len) : (okReply data).Fits len := ⟨h, .inl rfl⟩

theorem storedReply_fits (adjusted : Bool) {data : List Byte} {len : Nat} (h : data.length = len) :
    (storedReply adjusted data).Fits len := by
  cases adjusted with
  | false => exact ⟨h, .inl rfl⟩
  | true => exact ⟨h, .inr (.inl rfl)⟩

theorem storedValue_fits (v : BitVec 32) (x : Int) : (storedValue v x).Fits 4 := storedReply_fits _ rfl

theorem storedCode_fits (v : BitVec 32) : (storedCode v).Fits 4 := okReply_fits rfl

/-- The reply that a command's body gives. -/
def Handling.reply : Handling → Reply
  | .answered _ r => r
  | .acted _ r => r

/-- A body's reply has a fixed number of bytes of data, all 0x00 where it refuses. -/
def Handling.Replies (len : Nat) (h : Handling) : Prop := h.reply.Fits len

section
variable {len : Nat}

theorem answered_replies (s : State) {r : Reply} (h : r.Fits len) : (Handling.answered s r).Replies len := h

theorem acted_replies (s : State) {r : Reply} (h : r.Fits len) : (Handling.acted s r).Replies len := h

theorem refuse_replies (s : State) (st : Status) : (refuse s st len).Replies len := refusal_fits st len

theorem ite_replies {p : Prop} [Decidable p] {h k : Handling} (hh : h.Replies len) (hk : k.Replies len) :
    (if p then h else k).Replies len := by
  split
  · exact hh
  · exact hk

/-- A command that names an entry refuses with its own length of zeros (R43, R46, R96 to R98). -/
theorem onEntry_replies {f : Fin 200 → Entry → Handling} (hf : ∀ n e, (f n e).Replies len) (entry : Byte) (s : State) :
    (onEntry entry len f s).Replies len := by
  unfold onEntry
  split
  · exact refuse_replies s _
  · split
    · exact refuse_replies s _
    · exact hf _ _

theorem conclude_lastReply (i : Instr) (h : Handling) : (h.conclude i).command.lastReply = some h.reply := by
  cases h with
  | answered s r => exact complete_lastReply i r s
  | acted s r => exact complete_lastReply i r (finish s)

/-- The next state holds a reply of a fixed length as the last one formed. -/
def RepliesNext (len : Nat) (o : Host.Outcome State Fault Refusal) : Prop :=
  ∀ t, o = .next t → ∃ r : Reply, t.command.lastReply = some r ∧ r.Fits len

theorem conclude_repliesNext {i : Instr} {h : Handling} (hh : h.Replies len) : RepliesNext len (.next (h.conclude i)) := by
  rintro t ⟨⟩
  exact ⟨h.reply, conclude_lastReply i h, hh⟩

theorem command_repliesNext {i : Instr} {body : State → Handling} {s : State} (hs : s.inReset = false)
    (he : exec i s = runCommand i body s) (hb : ∀ u, (body u).Replies len) : RepliesNext len (exec i s) := by
  rw [he, runCommand, hs]
  exact conclude_repliesNext (hb _)

end

/-! ### The lengths of the records -/

theorem profileBytes_length (p : Profile) : (profileBytes p).length = 10 := rfl

theorem strangerBytes_length (r : Option Stranger) : (strangerBytes r).length = 8 := by cases r <;> rfl

theorem strangersRecord_length (s : State) : s.strangersRecord.length = 64 := by
  simp [State.strangersRecord, List.length_flatMap, strangerBytes_length]

theorem attentionEntry_length (g : Engine) (i : Nat) : (g.attentionEntry i).length = 7 := by
  unfold Engine.attentionEntry
  split
  · split <;> rfl
  · rfl

theorem attentionRecord_length (g : Engine) (i : Nat) : (g.attentionRecord i).length = 9 := by
  rw [Engine.attentionRecord, List.length_append, attentionEntry_length]; rfl

/-! ### The roster commands -/

theorem enrolBody_replies (unit : UnitId) (seat group profile : Byte) (s : State) : (enrolBody unit seat group profile s).Replies 1 := by
  unfold enrolBody
  split
  · exact refuse_replies s _
  · refine ite_replies (refuse_replies s _) (ite_replies (refuse_replies s _) (ite_replies (refuse_replies s _) ?_))
    split
    · exact refuse_replies s _
    · exact acted_replies _ (okReply_fits rfl)

theorem enrolStrangerBody_replies (position seat group profile : Byte) (s : State) :
    (enrolStrangerBody position seat group profile s).Replies 4 := by
  unfold enrolStrangerBody
  split
  · split
    · exact refuse_replies s _
    · refine ite_replies (refuse_replies s _) ?_
      split
      · exact refuse_replies s _
      · exact acted_replies _ (okReply_fits rfl)
  · exact refuse_replies s _

theorem found_replies (s : State) (n : Option (Fin 200)) : (found s n).Replies 1 := by
  cases n with
  | none => exact refuse_replies s _
  | some n => exact answered_replies s (okReply_fits rfl)

theorem findSeatBody_replies (seat : Byte) (s : State) : (findSeatBody seat s).Replies 1 := by
  unfold findSeatBody
  split
  · exact refuse_replies s _
  · exact found_replies s _

theorem amendEntryBody_replies (entry seat group profile : Byte) (s : State) : (amendEntryBody entry seat group profile s).Replies 0 := by
  unfold amendEntryBody
  split
  · exact refuse_replies s _
  · refine onEntry_replies (fun _ _ => ?_) entry s
    exact ite_replies (refuse_replies s _) (acted_replies _ (okReply_fits rfl))

/-! ### The floor commands -/

theorem grantBody_replies (n : Fin 200) (s : State) : (grantBody n s).Replies 1 := by
  unfold grantBody
  refine ite_replies (refuse_replies s _) (ite_replies (refuse_replies s _) (ite_replies (refuse_replies s _) ?_))
  split
  · exact answered_replies s (okReply_fits rfl)
  · split
    · exact refuse_replies s _
    · exact acted_replies _ (okReply_fits rfl)

theorem revokeBody_replies (n : Fin 200) (s : State) : (revokeBody n s).Replies 0 :=
  ite_replies (refuse_replies s _) (acted_replies _ (okReply_fits rfl))

theorem setFloorCapacityBody_replies (capacity : Byte) (s : State) : (setFloorCapacityBody capacity s).Replies 1 :=
  ite_replies (refuse_replies s _) (acted_replies _ (storedReply_fits _ rfl))

theorem muteBody_replies (v : Bool) (n : Fin 200) (s : State) : (muteBody v n s).Replies 0 :=
  ite_replies (refuse_replies s _) (acted_replies _ (okReply_fits rfl))

theorem setChairTo_replies (chair : Option (Fin 200)) (s : State) : (setChairTo chair s).Replies 0 :=
  ite_replies (answered_replies s (okReply_fits rfl)) (acted_replies _ (okReply_fits rfl))

theorem setChairBody_replies (entry : Byte) (s : State) : (setChairBody entry s).Replies 0 :=
  ite_replies (setChairTo_replies none s) (onEntry_replies (fun n _ => setChairTo_replies (some n) s) entry s)

/-! ### The warning and intake commands -/

theorem readAttentionBody_replies (position : Byte) (s : State) : (readAttentionBody position s).Replies 9 :=
  ite_replies (answered_replies s (okReply_fits (attentionRecord_length _ _))) (refuse_replies s _)

theorem acknowledgeBody_replies (kind index cls : Byte) (stamp : Stamp) (s : State) :
    (acknowledgeBody kind index cls stamp s).Replies 0 := by
  unfold acknowledgeBody
  split
  · exact refuse_replies s _
  · split
    · exact refuse_replies s _
    · exact ite_replies (refuse_replies s _) (ite_replies (refuse_replies s _) (acted_replies _ (okReply_fits rfl)))

theorem readPortBody_replies (port : Byte) (s : State) : (readPortBody port s).Replies 8 := by
  unfold readPortBody
  split
  · exact refuse_replies s _
  · exact answered_replies _ (okReply_fits rfl)

theorem enablePortOnBody_replies (port : Byte) (s : State) : (enablePortOnBody port s).Replies 0 := by
  unfold enablePortOnBody
  split
  · exact refuse_replies s _
  · exact ite_replies (answered_replies s (okReply_fits rfl)) (acted_replies _ (okReply_fits rfl))

theorem enablePortOffBody_replies (port value : Byte) (s : State) : (enablePortOffBody port value s).Replies 0 := by
  unfold enablePortOffBody
  split
  · exact refuse_replies s _
  · exact ite_replies (refuse_replies s _) (ite_replies (acted_replies _ (okReply_fits rfl)) (answered_replies s (okReply_fits rfl)))

/-! ### The configuration commands -/

theorem setProfileBody_replies (profile : Byte) (fields : RawProfile) (s : State) : (setProfileBody profile fields s).Replies 0 := by
  unfold setProfileBody
  split
  · exact refuse_replies s _
  · exact ite_replies (refuse_replies s _) (ite_replies (refuse_replies s _) (answered_replies _ (storedReply_fits _ rfl)))

theorem readProfileBody_replies (profile : Byte) (s : State) : (readProfileBody profile s).Replies 10 := by
  unfold readProfileBody
  split
  · exact refuse_replies s _
  · exact answered_replies s (okReply_fits (profileBytes_length _))

section
variable (v : BitVec 32) (s : State)

theorem setPortSilenceTimeBody_replies : (setPortSilenceTimeBody v s).Replies 4 :=
  ite_replies (answered_replies s (storedValue_fits v _)) (acted_replies _ (storedValue_fits v _))

theorem setLostTimeBody_replies : (setLostTimeBody v s).Replies 4 :=
  ite_replies (answered_replies s (storedValue_fits v _)) (acted_replies _ (storedValue_fits v _))

theorem setWeakThresholdBody_replies : (setWeakThresholdBody v s).Replies 4 :=
  ite_replies (answered_replies _ (storedValue_fits v _)) (refuse_replies s _)

theorem setPoorThresholdBody_replies : (setPoorThresholdBody v s).Replies 4 :=
  ite_replies (answered_replies _ (storedValue_fits v _)) (refuse_replies s _)

theorem setAutoRevokeBody_replies : (setAutoRevokeBody v s).Replies 4 := by
  unfold setAutoRevokeBody
  split
  · exact answered_replies _ (storedCode_fits v)
  · exact refuse_replies s _

theorem setPriorityFunctionBody_replies : (setPriorityFunctionBody v s).Replies 4 := by
  unfold setPriorityFunctionBody
  split
  · exact acted_replies _ (storedCode_fits v)
  · exact refuse_replies s _

theorem setPendingTypeBody_replies (item : Byte) : (setPendingTypeBody item v s).Replies 4 := by
  unfold setPendingTypeBody
  split
  · exact acted_replies _ (storedCode_fits v)
  · exact refuse_replies s _

end

theorem readTuningBody_replies (item : Byte) (s : State) : (readTuningBody item s).Replies 4 := by
  unfold readTuningBody
  split
  · exact answered_replies s (storedCode_fits _)
  · exact refuse_replies s _

/-! ### The line and mode commands -/

theorem stageLineBody_replies (line : Byte) (config : RawLineConfig) (s : State) : (stageLineBody line config s).Replies 0 := by
  unfold stageLineBody
  split
  · exact answered_replies _ (okReply_fits rfl)
  · exact refuse_replies s _

theorem readLineBody_replies (line : Byte) (s : State) : (readLineBody line s).Replies 32 := by
  unfold readLineBody
  split
  · exact answered_replies s (okReply_fits (lineRecord_length _ _))
  · exact refuse_replies s _

theorem setModeRecessBody_replies (value : Byte) (s : State) : (setModeRecessBody value s).Replies 0 := by
  unfold setModeRecessBody
  refine ite_replies (refuse_replies s _) ?_
  split <;> exact okReply_fits rfl

theorem setModeSessionBody_replies (s : State) : (setModeSessionBody s).Replies 0 := by
  unfold setModeSessionBody
  split <;> exact okReply_fits rfl

theorem setModeDormantBody_replies (s : State) : (setModeDormantBody s).Replies 0 := by
  unfold setModeDormantBody
  split <;> exact okReply_fits rfl

/-! ### Every command -/

theorem replyLength_unknownCode {code : Byte} (h : knownCode code = false) : replyLength code = 0 := by
  rw [replyLength, Laws.commandInfo_unknownCode h]; rfl

/-- Every command answers with the reply length of its code, row by row of the table of section 11.4. -/
theorem exec_repliesNext {i : Instr} {code : Byte} {ps : List Byte} {s : State} (hi : WellFormed i = true)
    (hw : wireOf i = some (code, ps)) (hs : s.inReset = false) : RepliesNext (replyLength code) (exec i s) := by
  cases i with
  | deviceReset | resetEnd | frameComplete | stopBitMissing | byteGapTimeout | frameGapReject | answerSent | resyncIdle
  | warmUpEnd | portSilenceExpiry | frameTake | strangerAgeExpiry | poolWindowExpiry | entryFading | entryLost | sweepVisit
  | silentExpiry | hotDelayReached | silenceInputChange | silenceDebounceExpiry | blinkBoundary | holdExpiry | senseInputChange
  | lampFaultDetected | lampFaultCleared | csNFall | csNRise | waitingCommandStart | commandRefusedBusy | characterComplete
  | byteComplete => cases hw
  | enrol u st g p => cases hw; exact command_repliesNext hs (exec_enrol u st g p s) (enrolBody_replies u st g p)
  | enrolStranger j st g p =>
    cases hw
    exact command_repliesNext hs (exec_enrolStranger j st g p s) (enrolStrangerBody_replies j st g p)
  | retire n =>
    cases hw
    exact command_repliesNext hs (exec_retire n s) fun u =>
      onEntry_replies (len := 0) (fun _ _ => acted_replies _ (okReply_fits rfl)) n u
  | findUnit x => cases hw; exact command_repliesNext hs (exec_findUnit x s) fun u => found_replies u _
  | findSeat st => cases hw; exact command_repliesNext hs (exec_findSeat st s) (findSeatBody_replies st)
  | readEntry n =>
    cases hw
    exact command_repliesNext hs (exec_readEntry n s) fun u =>
      onEntry_replies (fun m e => answered_replies u (okReply_fits (entryRecord_length u m e))) n u
  | amendEntry n st g p => cases hw; exact command_repliesNext hs (exec_amendEntry n st g p s) (amendEntryBody_replies n st g p)
  | grantFloor n =>
    cases hw
    exact command_repliesNext hs (exec_grantFloor n s) fun u => onEntry_replies (fun m _ => grantBody_replies m u) n u
  | revokeFloor n =>
    cases hw
    exact command_repliesNext hs (exec_revokeFloor n s) fun u => onEntry_replies (fun m _ => revokeBody_replies m u) n u
  | setFloorCapacity c => cases hw; exact command_repliesNext hs (exec_setFloorCapacity c s) (setFloorCapacityBody_replies c)
  | mute n =>
    cases hw
    exact command_repliesNext hs (exec_mute n s) fun u => onEntry_replies (fun m _ => muteBody_replies true m u) n u
  | unmute n =>
    cases hw
    exact command_repliesNext hs (exec_unmute n s) fun u => onEntry_replies (fun m _ => muteBody_replies false m u) n u
  | muteAll => cases hw; exact command_repliesNext hs (exec_muteAll s) fun _ => acted_replies _ (okReply_fits rfl)
  | unmuteAll => cases hw; exact command_repliesNext hs (exec_unmuteAll s) fun _ => acted_replies _ (okReply_fits rfl)
  | setChair n => cases hw; exact command_repliesNext hs (exec_setChair n s) (setChairBody_replies n)
  | readAttention j => cases hw; exact command_repliesNext hs (exec_readAttention j s) (readAttentionBody_replies j)
  | acknowledge k j c st => cases hw; exact command_repliesNext hs (exec_acknowledge k j c st s) (acknowledgeBody_replies k j c st)
  | ackListed => cases hw; exact command_repliesNext hs (exec_ackListed s) fun _ => acted_replies _ (okReply_fits rfl)
  | readStrangers =>
    cases hw
    exact command_repliesNext hs (exec_readStrangers s) fun u => answered_replies u (okReply_fits (strangersRecord_length u))
  | readPort p => cases hw; exact command_repliesNext hs (exec_readPort p s) (readPortBody_replies p)
  | enablePortOn p => cases hw; exact command_repliesNext hs (exec_enablePortOn p s) (enablePortOnBody_replies p)
  | enablePortOff p v => cases hw; exact command_repliesNext hs (exec_enablePortOff p v s) (enablePortOffBody_replies p v)
  | setProfile p r => cases hw; exact command_repliesNext hs (exec_setProfile p r s) (setProfileBody_replies p r)
  | readProfile p => cases hw; exact command_repliesNext hs (exec_readProfile p s) (readProfileBody_replies p)
  | setPortSilenceTime v => cases hw; exact command_repliesNext hs (exec_setPortSilenceTime v s) (setPortSilenceTimeBody_replies v)
  | setCombiningWindow v =>
    cases hw
    exact command_repliesNext hs (exec_setCombiningWindow v s) fun _ => answered_replies _ (storedValue_fits v _)
  | setLostTime v => cases hw; exact command_repliesNext hs (exec_setLostTime v s) (setLostTimeBody_replies v)
  | setSignalFloor v =>
    cases hw
    exact command_repliesNext hs (exec_setSignalFloor v s) fun _ => answered_replies _ (storedValue_fits v _)
  | setSmoothingShift v =>
    cases hw
    exact command_repliesNext hs (exec_setSmoothingShift v s) fun _ => answered_replies _ (storedValue_fits v _)
  | setWeakThreshold v => cases hw; exact command_repliesNext hs (exec_setWeakThreshold v s) (setWeakThresholdBody_replies v)
  | setPoorThreshold v => cases hw; exact command_repliesNext hs (exec_setPoorThreshold v s) (setPoorThresholdBody_replies v)
  | setSilentTime v =>
    cases hw
    exact command_repliesNext hs (exec_setSilentTime v s) fun _ => answered_replies _ (storedValue_fits v _)
  | setAutoRevoke v => cases hw; exact command_repliesNext hs (exec_setAutoRevoke v s) (setAutoRevokeBody_replies v)
  | setHotDelay v => cases hw; exact command_repliesNext hs (exec_setHotDelay v s) fun _ => acted_replies _ (storedValue_fits v _)
  | setPriorityFunction v =>
    cases hw
    exact command_repliesNext hs (exec_setPriorityFunction v s) (setPriorityFunctionBody_replies v)
  | setPendingType j v =>
    cases hw
    exact command_repliesNext hs (exec_setPendingType j v s) fun u => setPendingTypeBody_replies v u j
  | setIrqMask v => cases hw; exact command_repliesNext hs (exec_setIrqMask v s) fun _ => answered_replies _ (storedCode_fits _)
  | readTuning j => cases hw; exact command_repliesNext hs (exec_readTuning j s) (readTuningBody_replies j)
  | stageLine m r => cases hw; exact command_repliesNext hs (exec_stageLine m r s) (stageLineBody_replies m r)
  | applyLines => cases hw; exact command_repliesNext hs (exec_applyLines s) fun _ => answered_replies _ (okReply_fits rfl)
  | readLine m => cases hw; exact command_repliesNext hs (exec_readLine m s) (readLineBody_replies m)
  | setModeRecess v => cases hw; exact command_repliesNext hs (exec_setModeRecess v s) (setModeRecessBody_replies v)
  | setModeSession => cases hw; exact command_repliesNext hs (exec_setModeSession s) setModeSessionBody_replies
  | readStatus => cases hw; exact command_repliesNext hs (exec_readStatus s) fun u => answered_replies u (okReply_fits rfl)
  | chamberReset => cases hw; exact command_repliesNext hs (exec_chamberReset s) fun _ => acted_replies _ (okReply_fits rfl)
  | setModeDormant =>
    cases hw
    rw [exec_setModeDormant, runDormantCommand, hs]
    exact conclude_repliesNext (setModeDormantBody_replies s)
  | unknownCommand c =>
    cases hw
    have hlen : replyLength code = 0 := replyLength_unknownCode (by simpa [WellFormed] using hi)
    exact command_repliesNext hs (exec_unknownCommand code s) fun u => answered_replies u (hlen ▸ refusal_fits .unknownCommand 0)

/-- Settles O14: each command's body gives replies of the length that section 11.4 gives the code, and its refusals are zeros. -/
theorem repliesHaveTheirFixedLength : Obligations.RepliesHaveTheirFixedLength :=
  fun _ _ _ _ t hi hw hs h => exec_repliesNext hi hw hs t h

end Sys2Proof.Machine
end

section
/-! PROOFS. A step takes the row at the front of the queue (O1). -/

namespace Sys2Proof.Machine

/-- The other case of a step beside `step_empty` (assumption log 1). -/
theorem step_of_pending_cons {c : Instr} {rest : List Instr} {s : State} (h : s.pending = c :: rest) :
    step s = exec c { s with pending := rest } := by
  unfold step; rw [h]

/-- Settles O1: the front row leaves the queue before it is carried out, so only the rest stands in the state that `exec` is given. -/
theorem stepRunsTheFrontRow : Obligations.StepRunsTheFrontRow := fun _ _ _ => step_of_pending_cons rfl

end Sys2Proof.Machine
end
